-- ==== Sys2Proof/Word.lean ====
section
/-!
DEFINITION. Sys2Proof/Word.lean: the word types of the register space and of the stored formats, byte strings, and
sparse arrays as plain data (spec/00_scope.md, Notation, R7).
-/
namespace Sys2Proof

/-- A register or any other 32-bit word of the register space. -/
abbrev Word := BitVec 32

abbrev Byte := BitVec 8

/-- An FP32 bit pattern (format code 0 of R174). -/
abbrev F32 := BitVec 32

/-- A byte string of `len` bytes read as one little-endian number (R7): byte `i` is bits `8 i + 7 .. 8 i` of `bits`.
Bits of `bits` above `8 * len` belong to no byte. -/
structure Blob where
  len  : Nat
  bits : Nat
  deriving DecidableEq, Repr

/-- A sparse array: a list of (key, value) pairs. Its canonical form (keys strictly rising, no entry equal to what an
unlisted key reads as) is `Sparse.wf` of Machine/Ops.lean. -/
abbrev Sparse (α : Type) := List (Nat × α)

end Sys2Proof
end

