-- ==== Sys2Proof/Syntax.lean ====
section
/-!
DEFINITION. Sys2Proof/Syntax.lean: the commands (one constructor of `Instr` per row of spec/opcode_table.json) and
what they carry: request descriptors as bytes, fabric messages (R262, R264), register writes, measurements.
-/
namespace Sys2Proof

/-! ### Names of units and places -/

/-- An access path of the register space (R377). -/
inductive Path where
  | qp (n : Nat)
  | i3c
  | firmware
  deriving DecidableEq, Repr

/-- A Clove unit: stack and unit number u of R96. -/
structure UnitId where
  stack : Fin 8
  u     : Fin 768
  deriving DecidableEq, Repr

/-- The units that a window write reaches (R105, R106): of a stack, one unit, or with none the 24 units of a pseudo-channel. -/
structure WindowUnits where
  stack  : Fin 8
  target : Option (Fin 768)
  pc     : Fin 32
  deriving DecidableEq, Repr

/-- One bank of a bank pair (R96): the even bank 2b or the odd bank 2b + 1. -/
inductive Bank where
  | even
  | odd
  deriving DecidableEq, Repr

/-- A shard of one index generation. -/
structure ShardKey where
  handle : Nat
  gen    : Nat
  shard  : Nat
  deriving DecidableEq, Repr

/-! ### The fabric (R262, R264) -/

/-- The message header of R262, with the flits received and whether a reserved field of the payload was not 0. -/
structure MsgHdr where
  cls      : BitVec 4
  compat   : BitVec 4
  src      : BitVec 12
  dst      : BitVec 12
  epoch    : BitVec 32
  hops     : BitVec 8
  typ      : BitVec 8
  len      : BitVec 16
  tag      : BitVec 32
  flits    : Nat
  reserved : Bool
  deriving DecidableEq, Repr

/-- A LUT record (R67). `e` holds the M * 16 entries, entry e[s][c] at index 16 s + c. -/
structure Lut where
  scale    : F32
  minsum   : F32
  gen      : Nat
  m        : Nat
  zeroSpan : Bool
  handle   : Nat
  e        : List Nat
  deriving DecidableEq, Repr

/-- SUB_REQUEST payload (R20, R264). -/
structure SubRequestMsg where
  epoch       : Nat
  key         : ShardKey
  k           : Nat
  ef          : Nat
  rerankDepth : Nat
  widen       : Nat
  requireFull : Bool
  budgetUs    : Nat
  token       : Option Nat
  tid         : Nat
  lut         : Lut
  filter      : List (BitVec 128)
  qvec        : List F32
  forwarded   : Bool
  deriving DecidableEq, Repr

/-- PARTIAL payload (R264): `failed` says that the sub-request answers FAILED_RETRYABLE (R23). -/
structure PartialMsg where
  shard     : Nat
  status    : Nat
  failed    : Bool
  shortfall : Bool
  widenUsed : Nat
  energy    : Nat
  forwarded : Bool
  records   : List (BitVec 128)
  deriving DecidableEq, Repr

/-- MISROUTE payload (R264). -/
structure MisrouteMsg where
  epoch     : Nat
  newHolder : Option (BitVec 12)
  deriving DecidableEq, Repr

/-- One record of a sub-batch: its descriptor offset and its bytes (R152). -/
structure MutRec where
  off  : Nat
  body : Blob
  deriving DecidableEq, Repr

/-- SUB_BATCH payload (R153, R264). -/
structure SubBatchMsg where
  epoch      : Nat
  key        : ShardKey
  tid        : Nat
  reqId      : Nat
  ackDurable : Bool
  records    : List MutRec
  forwarded  : Bool
  deriving DecidableEq, Repr

/-- SUB_BATCH_ANSWER payload (R161, R264). -/
structure SubBatchAnswerMsg where
  words     : List (BitVec 128)
  duplicate : Bool
  draining  : Bool
  energy    : Nat
  forwarded : Bool
  deriving DecidableEq, Repr

/-- A journal record (R160). Kinds: 1 INSERT, 2 DELETE, 3 UPSERT. -/
structure JRec where
  msn   : Nat
  ckey  : Nat
  kind  : Nat
  lid   : Nat
  oldId : Nat
  attr  : BitVec 128
  full  : Blob
  deriving DecidableEq, Repr

/-- A request entry of a commit step (R160, R162) with the answer it keeps. -/
structure ReqEntry where
  tid      : Nat
  reqId    : Nat
  crc      : Nat
  firstMsn : Nat
  count    : Nat
  words    : List (BitVec 128)
  deriving DecidableEq, Repr

/-- A commit step (R157, R160). -/
structure StepRec where
  key      : ShardKey
  firstMsn : Nat
  lastMsn  : Nat
  recs     : List JRec
  reqs     : List ReqEntry
  deriving DecidableEq, Repr

/-- One row id of a sub-bag with its bag and bag position (R203, R264), and its forward sequence or 0 (R210). -/
structure BagItem where
  row  : Nat
  bag  : Nat
  pos  : Nat
  fseq : Nat
  deriving DecidableEq, Repr

structure SubBagMsg where
  handle : Nat
  gen    : Nat
  mean   : Bool
  width  : Nat
  items  : List BagItem
  forwarded : Bool
  deriving DecidableEq, Repr

/-- POOLED payload (R203, R209, R264): one bag's partial with the number of its rows, the status it answers in place of a
vector, and the homes of rows served elsewhere than addressed. -/
structure PooledMsg where
  bag       : Nat
  firstPos  : Nat
  energy    : Nat
  status    : Nat
  detail    : Nat
  saturated : Bool
  rows      : Nat
  hints     : List (Nat × BitVec 12)
  forwarded : Bool
  elems     : List F32
  deriving DecidableEq, Repr

/-- Row operations (R205, R264): 0 read, 1 WRITE, 2 ADD. -/
structure RowOpMsg where
  handle    : Nat
  gen       : Nat
  row       : Nat
  fseq      : Nat
  op        : Nat
  elems     : List F32
  forwarded : Bool
  deriving DecidableEq, Repr

structure RowAnswerMsg where
  row       : Nat
  rseq      : Nat
  status    : Nat
  detail    : Nat
  saturated : Bool
  home      : BitVec 12
  energy    : Nat
  forwarded : Bool
  deriving DecidableEq, Repr

/-- ROW_MOVE payload (R210, R264). `mirror`: the record is the update record that a home has held at the partner (R207;
log 19), not a move. -/
structure RowMoveMsg where
  handle : Nat
  gen    : Nat
  row    : Nat
  rseq   : Nat
  record : Nat
  mirror : Bool
  deriving DecidableEq, Repr

structure RowRefMsg where
  handle : Nat
  gen    : Nat
  row    : Nat
  deriving DecidableEq, Repr

structure RedirectMsg where
  handle : Nat
  gen    : Nat
  row    : Nat
  home   : BitVec 12
  deriving DecidableEq, Repr

/-! ### The composition map (R270, R271) -/

inductive MemberState where
  | absent
  | testing
  | spare
  | active
  | slow
  | failed
  | retired
  deriving DecidableEq, Repr

structure Member where
  node   : BitVec 12
  serial : BitVec 128
  sled   : Nat
  compat : Nat
  state  : MemberState
  deriving DecidableEq, Repr

structure SliceRec where
  node     : BitVec 12
  slice    : Nat
  contexts : Nat
  stack    : Nat
  dimm     : Nat
  flash    : Nat
  lanes    : Nat
  deriving DecidableEq, Repr

/-- A holder of a role: node and slice. -/
structure Place where
  node  : BitVec 12
  slice : Nat
  deriving DecidableEq, Repr

structure ShardRole where
  key      : ShardKey
  floor    : Nat
  primary  : Option Place
  partner  : Option Place
  replicas : List Place
  incoming : Option (BitVec 12)
  /-- The shard's committed MSN as the map records it (R156, R173). -/
  committed : Nat
  deriving DecidableEq, Repr

structure TableRole where
  key     : ShardKey
  home    : Option Place
  partner : Option Place
  deriving DecidableEq, Repr

/-- The current generation of an index, table or encoder. -/
structure GenRec where
  handle : Nat
  gen    : Nat
  deriving DecidableEq, Repr

/-- What every member learns of a generation with the map that creates it (log 149): its kind (0 index, 1 table, 2 encoder), its
descriptor or operator list, its owner, and its codebook once it has one. -/
structure GenDesc where
  handle : Nat
  gen    : Nat
  kind   : Nat
  desc   : Blob
  owner  : Nat
  book   : Option Blob
  deriving DecidableEq, Repr

structure CMap where
  epoch       : Nat
  prevDigest  : BitVec 512
  minCompat   : Nat
  council     : List (BitVec 12)
  spareTarget : Nat
  members     : List Member
  slices      : List SliceRec
  shards      : List ShardRole
  tables      : List TableRole
  gens        : List GenRec
  trunks      : List (BitVec 12 × BitVec 12)
  descs       : List GenDesc
  deriving DecidableEq, Repr

/-- A ballot (R264): 32-bit round, 16-bit node id; compared by round, then node. -/
structure Ballot where
  round : Nat
  node  : Nat
  deriving DecidableEq, Repr

structure PrepareMsg where
  epoch  : Nat
  ballot : Ballot
  deriving DecidableEq, Repr

structure PromiseMsg where
  epoch    : Nat
  ballot   : Ballot
  accepted : Option (Ballot × CMap)
  deriving DecidableEq, Repr

structure AcceptMsg where
  epoch  : Nat
  ballot : Ballot
  map    : CMap
  deriving DecidableEq, Repr

structure CommitMsg where
  epoch  : Nat
  ballot : Ballot
  digest : BitVec 512
  deriving DecidableEq, Repr

/-- Causes of a SUSPECT report (R264, R274). -/
inductive SuspectCause where
  | linkDown
  | stepTimeout
  | mapTimeouts
  | silence
  deriving DecidableEq, Repr

/-- JOIN payload (R264, R284): what the council checks, and the trunks the joining node reports. -/
structure JoinMsg where
  serial  : BitVec 128
  compat  : Nat
  sled    : Nat
  former  : Option (BitVec 12)
  report  : Blob
  certs   : Blob
  trunks  : List (BitVec 12 × BitVec 12)
  deriving DecidableEq, Repr

/-- An object of a shard (R31). -/
inductive ShardObj where
  | codebook
  | code
  | adj
  | upper
  | attr
  | idmap
  | keyidx
  | full
  | delta
  deriving DecidableEq, Repr

structure CopyMsg where
  key  : ShardKey
  obj  : ShardObj
  off  : Nat
  data : Blob
  deriving DecidableEq, Repr

structure RebuildReadMsg where
  key      : ShardKey
  firstMsn : Nat
  lastMsn  : Nat
  lids     : List Nat
  deriving DecidableEq, Repr

structure RebuildDataMsg where
  key   : ShardKey
  recs  : List JRec
  /-- Request entries of the steps that the records belong to (R162). -/
  reqs  : List ReqEntry
  fulls : List (Nat × Blob)
  deriving DecidableEq, Repr

structure FillMsg where
  key  : ShardKey
  recs : List JRec
  deriving DecidableEq, Repr

/-! ### Flash -/

/-- Streams of R240: the slot header's STREAM code. -/
inductive Stream where
  | journal
  | map
  | data
  | checkpoint
  | reclaim
  | filler
  deriving DecidableEq, Repr

/-- A flash block: channel, chip enable, LUN, plane, block (R238). -/
structure BlockId where
  ch    : Fin 32
  ce    : Fin 8
  lun   : Fin 4
  plane : Nat
  block : Nat
  deriving DecidableEq, Repr

/-- A flash package on a chip enable, from its parameter page (R236). -/
structure Pkg where
  luns   : Nat
  planes : Nat
  blocks : Nat
  pages  : Nat
  /-- Pages that share a word line in multi-bit mode. -/
  wl     : Nat
  single : Bool
  rated  : Nat
  deriving DecidableEq, Repr

/-- A package found at power-up: its chip enable as channel * 8 + enable, whether the rest of R235 holds, and the fastest transfer
rate of its parameter page in MT/s. -/
structure PkgInfo where
  ce   : Nat
  pkg  : Pkg
  fits : Bool
  mts  : Nat
  deriving DecidableEq, Repr

/-- What training finds on a DIMM channel (R397): DIMMs present, capacity in GiB, ranks, and the transfer rate at which every DIMM
trained, 0 where one did not. -/
structure DimmInfo where
  present : Nat
  gib     : Nat
  rank    : Nat
  mts     : Nat
  deriving DecidableEq, Repr

/-- What power-up finds: the DIMM channels DCH0 to DCH7 in order, and the flash packages. -/
structure Population where
  dimms : List DimmInfo
  pkgs  : List PkgInfo
  deriving DecidableEq, Repr

/-- How a slot read of R243 ended. -/
inductive ReadEnd where
  /-- Hard decoding: the corrected share of the capability in percent, and the slot header and data bytes decoded (R240). -/
  | hard (corrected : Nat) (hdr : BitVec 256) (data : Blob)
  /-- Soft decoding over read retries. -/
  | soft (hdr : BitVec 256) (data : Blob)
  | uncorrectable
  deriving DecidableEq, Repr

/-! ### Faults and power -/

/-- Compute units (R338). -/
inductive UnitType where
  | gwe
  | mce
  | tns
  | svc
  deriving DecidableEq, Repr

structure CUnit where
  type : UnitType
  n    : Nat
  deriving DecidableEq, Repr

/-- Kinds of failed part (R335, R338). -/
inductive PartKind where
  | stack (n : Fin 8)
  | homeSlice (n : Fin 64)
  | sramBank (eng : Fin 72) (contexts : List Nat)
  /-- A Clove unit meets an internal error (R110). -/
  | cloveUnit (u : UnitId)
  deriving DecidableEq, Repr

/-- One stretch of work in an energy split (R331): its account and weighted activity. Kinds: 0 tenant, 2 node. -/
structure EnergyShare where
  kind   : Nat
  id     : Nat
  qp     : Option Nat
  weight : Nat
  deriving DecidableEq, Repr

/-- Members' row-read loads for a table (R208). -/
structure MemberLoad where
  node  : BitVec 12
  reads : Nat
  free  : Nat
  deriving DecidableEq, Repr

/-- A lane's training outcome (R258). -/
structure LaneInfo where
  ok         : Bool
  peerNode   : BitVec 12
  peerSerial : BitVec 128
  peerCompat : Nat
  peerLane   : Nat
  deriving DecidableEq, Repr

/-- What a patrol read found (R347): in a word of a memory frame at the address read; in a home slice's line of that address; in the
image of a walk context; in one copy of a home map leaf or of the FTL's map directory, or the same word in both copies (R348). -/
inductive PatrolResult where
  | clean
  | corrected
  | uncorrectable
  | lineCorrected
  | lineUncorrectable
  | contextCorrected (eng : Fin 72) (ctx : Fin 512)
  | contextUncorrectable (eng : Fin 72) (ctx : Fin 512)
  | copyUncorrectable
  | copiesLost (directory : Bool)
  deriving DecidableEq, Repr

/-- What a walk serves: a query's sub-request, or the folding of a shard (R90, R166). -/
inductive WalkTask where
  | query (sub : Nat)
  | fold (key : ShardKey)
  deriving DecidableEq, Repr

/-- The flit header of R259. -/
structure FlitHdr where
  seq         : BitVec 12
  ackSeq      : BitVec 12
  nak         : Bool
  cls         : BitVec 3
  som         : Bool
  eom         : Bool
  creditClass : BitVec 4
  credits     : BitVec 12
  deriving DecidableEq, Repr

/-- Frames other than RoCEv2 (R290): addressed to this node or not. -/
structure FrameInfo where
  port  : Fin 16
  forUs : Bool
  fcsOk : Bool
  src   : Blob
  /-- Its codewords could not be corrected (R309). -/
  fecBad : Bool := false
  deriving DecidableEq, Repr

/-- The commands of spec/opcode_table.json, in its order. -/
inductive Instr where
  -- requests (R11-R30, R151, R200)
  | query (qp : Nat) (d : Blob)
  | mutate (qp : Nat) (d : Blob)
  | lookupPool (qp : Nat) (d : Blob)
  | lookupWrite (qp : Nat) (d : Blob)
  | lookupAdd (qp : Nat) (d : Blob)
  | invalidRequestOpcode (qp : Nat) (d : Blob)
  | fanOut (req : Nat)
  | requestDeadline (req : Nat)
  | partialMsg (h : MsgHdr) (m : PartialMsg) (ecc : Bool)
  | responseWriteRejected (qp : Nat)
  | subRequest (h : MsgHdr) (m : SubRequestMsg)
  | tokenSnapshotBind (sub : Nat)
  | misroute (h : MsgHdr) (m : MisrouteMsg)
  -- graph walk engines (R64-R94)
  | walkStart (task : WalkTask)
  | walkExpansion (eng : Fin 72)
  | memDataArrival (eng : Fin 72) (ctx : Fin 512)
  | walkDeadline (eng : Fin 72) (ctx : Fin 512)
  | walkRestore (saved : Nat)
  | drainPreemptTimeout (eng : Fin 72)
  | gweDrain (eng : Fin 72) (v : Word)
  -- Clove units (R95-R130)
  | batchHoldExpiry (key : ShardKey)
  | passStart
  | lutSlotWrite (stack : Fin 8) (target : Option (Fin 768)) (pc : Fin 32) (slot : Fin 16) (data : BitVec 8192)
  | slotParamWrite (stack : Fin 8) (target : Option (Fin 768)) (pc : Fin 32) (slot : Fin 16) (data : BitVec 512)
  | cloveNop (u : UnitId) (cmd : BitVec 512)
  | scan (u : UnitId) (cmd : BitVec 512)
  | check (u : UnitId) (cmd : BitVec 512)
  | compact (u : UnitId) (cmd : BitVec 512)
  | abort (units : WindowUnits) (cmd : BitVec 512)
  | cloveClear (units : WindowUnits) (cmd : BitVec 512)
  | cloveInvalidOpcode (u : UnitId) (cmd : BitVec 512)
  | cloveRowDone (u : UnitId)
  | resultRead (u : UnitId)
  | summaryPoll (stack : Fin 8) (pc : Fin 32)
  | unitNoProgress (u : UnitId)
  | refreshDue (u : UnitId) (bank : Bank)
  | refreshComplete (u : UnitId)
  | compactedRowRelease (key : ShardKey)
  | scrubPeriod (stack : Fin 8)
  | rowRebuild (key : ShardKey) (row : Nat)
  | mscCloveOff (stack : Fin 8) (v : Word)
  | mscOpenWrite (stack : Fin 8) (v : Word)
  -- selection (R131-R150)
  | maceSelect (sub : Nat) (ecc : Bool)
  | rerankReadComplete (sub : Nat) (lid : Nat) (ok : Bool)
  | rerankCutoff (sub : Nat)
  | mceDrain (mce : Fin 18) (v : Word)
  -- mutations (R151-R173)
  | subBatch (h : MsgHdr) (m : SubBatchMsg)
  | commitStepTimer (key : ShardKey)
  | primaryWritesComplete (key : ShardKey)
  | step (h : MsgHdr) (m : StepRec)
  | stepAccept (h : MsgHdr) (key : ShardKey) (lastMsn : Nat)
  | partnerAcceptTimeout (key : ShardKey)
  | mutateResponseTimeout (req : Nat)
  | subBatchAnswer (h : MsgHdr) (m : SubBatchAnswerMsg)
  | dedupEntryExpiry (key : ShardKey) (tid : Nat) (reqId : Nat)
  | foldEntry (key : ShardKey) (topLevel : Nat) (nbrs : List (List Nat))
  | edgeRepair (key : ShardKey) (block : Nat) (deleted : Nat)
  | repairSweep (key : ShardKey) (count : Nat)
  | generationSwitch (handle : Nat)
  | stepForward (h : MsgHdr) (m : StepRec)
  | fill (h : MsgHdr) (m : FillMsg)
  -- tensor arrays (R174-R196)
  | operatorComplete (prog : Nat)
  | tnsNop (prog : Nat)
  | matmul (prog : Nat)
  | add (prog : Nat)
  | mul (prog : Nat)
  | act (prog : Nat)
  | norm (prog : Nat)
  | softmax (prog : Nat)
  | permute (prog : Nat)
  | gather (prog : Nat)
  | tnsPool (prog : Nat)
  | quant (prog : Nat)
  | dequant (prog : Nat)
  | convert (prog : Nat)
  | l2normalize (prog : Nat)
  | encodePq (prog : Nat)
  | kmeans (prog : Nat)
  | programRestart (prog : Nat) (lost : Fin 104) (tile : Bool)
  | tnsDrain (tns : Fin 104) (v : Word)
  -- embedding tables (R197-R213)
  | subBag (h : MsgHdr) (m : SubBagMsg)
  | pooled (h : MsgHdr) (m : PooledMsg)
  | rowOp (h : MsgHdr) (m : RowOpMsg)
  | rowAnswer (h : MsgHdr) (m : RowAnswerMsg)
  | loadWindowExpiry (handle : Nat) (gen : Nat) (loads : List MemberLoad)
  | rowMove (h : MsgHdr) (m : RowMoveMsg)
  | rowInstalled (h : MsgHdr) (m : RowRefMsg)
  | rowForwardingExpiry (handle : Nat) (gen : Nat) (row : Nat)
  | redirectSet (h : MsgHdr) (m : RedirectMsg)
  -- memory tiers (R214-R234)
  | promotionComplete (page : Nat) (ok : Bool)
  | backgroundMove (page : Nat)
  | heatDecay
  | moveCopyComplete (page : Nat)
  | moveSwitch (page : Nat) (ok : Bool)
  | dmaChunkComplete (ch : Fin 64)
  | dmaRestart (ch : Fin 64) (onto : Fin 64)
  | patrolRead (addr : Nat) (r : PatrolResult)
  -- flash (R235-R256)
  | unitWrite (ua : Nat) (stream : Stream) (tid : Nat) (data : Blob)
  | pageSetFlush (stream : Stream)
  | fillerTimeout (stream : Stream)
  | programComplete (block : BlockId)
  | programFail (block : BlockId)
  | unitRead (ua : Nat) (cls : Nat)
  | flashReadComplete (ua : Nat) (r : ReadEnd)
  | suspendTimeout (ch : Fin 32) (ce : Fin 8) (lun : Fin 4)
  | mapPageReadComplete (page : Nat)
  | reclaim
  | eraseComplete (block : BlockId) (ok : Bool)
  | blockRefresh (block : BlockId)
  | powerUpReadScan (block : BlockId) (r : ReadEnd)
  | lunTimeout (ch : Fin 32) (ce : Fin 8) (lun : Fin 4)
  | shardCheckpoint (key : ShardKey) (room : Bool)
  | mapCheckpoint
  | zqCalibration (ch : Fin 32)
  | ftlFormat (v : Word)
  -- links (R257-R269)
  | laneTrained (lane : Fin 136) (info : LaneInfo)
  | laneFail (lane : Fin 136)
  | spareLaneTrained (lane : Fin 136) (info : LaneInfo)
  | retryLimit (link : Fin 128)
  | linkDown (link : Fin 128)
  | trainFailRetry (lane : Fin 136) (info : LaneInfo)
  | plDisable (lane : Fin 136) (v : Word)
  | messageTimeout (tag : Nat)
  -- the map protocol (R270-R286)
  | prepare (h : MsgHdr) (m : PrepareMsg)
  | promise (h : MsgHdr) (m : PromiseMsg)
  | accept (h : MsgHdr) (m : AcceptMsg)
  | accepted (h : MsgHdr) (m : PrepareMsg)
  | commit (h : MsgHdr) (m : CommitMsg)
  | proposerBackoffExpiry
  | epochFetch (h : MsgHdr) (epoch : Nat)
  | epochData (h : MsgHdr) (m : CMap)
  | epochFetchTimeout (epoch : Nat)
  | suspect (h : MsgHdr) (node : BitVec 12) (cause : SuspectCause)
  | probe (h : MsgHdr) (node : BitVec 12) (nonce : BitVec 256)
  | probeAnswer (h : MsgHdr) (nonce : BitVec 256)
  | probeWindowExpiry (node : BitVec 12)
  | councilSilenceTimeout (node : BitVec 12)
  | quorumLossTimeout
  | forwardingEntryExpiry (key : ShardKey)
  | loadReportTimer
  | loadReport (h : MsgHdr) (medians : List (BitVec 12 × Nat))
  | nodeWithdraw (h : MsgHdr) (cause : Nat)
  | join (h : MsgHdr) (m : JoinMsg)
  | joinAnswer (h : MsgHdr) (accepted : Bool) (check : Nat) (nonce : BitVec 256)
  | admissionTestsComplete (ok : Bool) (failing : Nat)
  | seal (h : MsgHdr) (key : ShardKey) (msn : Nat)
  | sealHoldExpiry (key : ShardKey)
  | copy (h : MsgHdr) (m : CopyMsg)
  | rebuildRead (h : MsgHdr) (m : RebuildReadMsg)
  | rebuildData (h : MsgHdr) (m : RebuildDataMsg)
  -- Ethernet (R289-R309)
  | arp (f : FrameInfo)
  | neighbourDiscovery (f : FrameInfo)
  | icmpEcho (f : FrameInfo) (payload : Blob)
  | nonRoceFrame (f : FrameInfo)
  | pfcFrame (port : Fin 16) (prio : Nat) (pause : Bool)
  | pauseFrame (port : Fin 16)
  | pauseStorm (port : Fin 16)
  | pauseStormEnd (port : Fin 16)
  | ceMarkedPacket (qp : Nat)
  | cnp (qp : Nat)
  | rateRecoveryTimer (qp : Nat)
  | rcAck (qp : Nat) (upTo : Nat)
  | ackTimeout (qp : Nat)
  | clientRnrNak (qp : Nat)
  | unsupportedOp (qp : Nat)
  | rdmaReadWindow (qp : Nat) (addr : Nat) (len : Nat) (rkey : Word)
  | rdmaWriteWindow (qp : Nat) (addr : Nat) (rkey : Word) (data : Blob)
  | discovery (port : Fin 16) (qkey : Word) (payload : Blob) (sender : Blob)
  | calendarEntry
  | qpSample
  | ethLinkDown (port : Fin 16)
  | anRetry (port : Fin 16) (ok : Bool)
  -- power and heat (R310-R334)
  | capLoopDecision (mean50 : Nat) (mean1ms : Nat) (meanWindow : Nat)
  | capDeferralEnd
  | thermalLoopDecision
  | sensorSample (readings : List Int) (stackTemps : List Int)
  | regalertAssert (n : Fin 8)
  | regalertDeassert
  | alertHoldExpiry
  | alertRampStep
  | droopGate (die : Fin 2) (det : Fin 256)
  | droopRecover (die : Fin 2) (det : Fin 256)
  | currentGate
  | opStepSettled (die : Fin 2)
  | ageingMarginCheck (unit : CUnit) (below : Bool)
  | energySplit (dynamic : List (Nat × List EnergyShare)) (fixed : Nat)
  | brownOut
  | refclkLoss
  | pwrfailAssert
  | mramStagingWrite
  -- faults (R335-R357)
  | channelFail (ch : Fin 8)
  | shadowStart (work : Nat) (on : Nat)
  | shadowDropped (work : Nat)
  | shadowCompare (work : Nat) (agree : Bool)
  | arbitration (work : Nat) (third : Nat) (agreesOriginal : Bool) (agreesShadow : Bool)
  | sparePowered (unit : CUnit)
  | oldUnitEmptied (unit : CUnit)
  | requal
  | requalificationComplete (unit : CUnit) (passed : Bool)
  | dataRestore (key : ShardKey) (obj : ShardObj) (index : Nat)
  -- the recorder (R349-R353)
  | recorderFreeze (page : BitVec 12)
  | recorderUnfreeze (page : BitVec 12)
  | freezeTimeout (page : BitVec 12)
  | recorderClear (page : BitVec 12)
  -- reset and boot (R358-R374, R401-R415)
  | resetNAssert (ns : Nat)
  | resetNRelease (straps : BitVec 4)
  | romConditionsMet (p : Population)
  | tftpWriteRequest (name : String) (blksize : Option Nat) (client : Blob)
  | recoveryImageReceived (source : Nat)
  | mboxCrc (crc : Word)
  | rollbackCommit
  | recover
  | topReset (v : Word)
  -- register pages (R375-R398)
  | blkSnap (page : BitVec 12)
  | blkErrClr (page : BitVec 12)
  | blkIntStatClear (page : BitVec 12) (v : Word)
  | blkIntSet (page : BitVec 12) (v : Word)
  | svcDrain (svc : Fin 72) (v : Word)
  | rcRegisterRead (p : Path) (addr : BitVec 24)
  | loRegisterRead (p : Path) (addr : BitVec 24)
  | registerWrite (p : Path) (addr : BitVec 24) (v : Word)
  | i3cPrivateWrite (data : Blob)
  | i3cPrivateRead (len : Nat)
  | entdaa (addr : BitVec 7)
  | ibiRepeat
  -- the test port (R404)
  | bypass
  | idcode
  | samplePreload (pins : Nat)
  | extest (pins : Nat)
  | clamp
  | highz
  | tapReset
  -- MGMT operations (R386-R393)
  | indexCreate (qp : Nat) (d : Blob)
  | codebookLoad (qp : Nat) (d : Blob)
  | codebookTrain (qp : Nat) (d : Blob)
  | dedupSet (qp : Nat) (d : Blob)
  | shardRead (qp : Nat) (d : Blob)
  | objectFree (qp : Nat) (d : Blob)
  | tableCreate (qp : Nat) (d : Blob)
  | tableFill (qp : Nat) (d : Blob)
  | tableActivate (qp : Nat) (d : Blob)
  | tableLoadRead (qp : Nat) (d : Blob)
  | encoderLoad (qp : Nat) (d : Blob)
  | tenantWrite (qp : Nat) (d : Blob)
  | qpCreate (qp : Nat) (d : Blob)
  | qpDestroy (qp : Nat) (d : Blob)
  | qpDrainEnd (qp : Nat)
  | memRead (qp : Nat) (d : Blob)
  | memWrite (qp : Nat) (d : Blob)
  | flashDiscard (qp : Nat) (d : Blob)
  | cablingWrite (qp : Nat) (d : Blob)
  | mapRead (qp : Nat) (d : Blob)
  | councilSet (qp : Nat) (d : Blob)
  | nodeRetire (qp : Nat) (d : Blob)
  | compositionReform (qp : Nat) (d : Blob) (idle : Bool)
  | attest (qp : Nat) (d : Blob)
  | imageWrite (qp : Nat) (d : Blob)
  | calRead (qp : Nat) (d : Blob)
  | calWrite (qp : Nat) (d : Blob)
  | healthRead (qp : Nat) (d : Blob)
  | mramRead (qp : Nat) (d : Blob)
  | contextDump (qp : Nat) (d : Blob)
  | regRead (qp : Nat) (d : Blob)
  | regWrite (qp : Nat) (d : Blob)
  | mgmtInvalidOp (qp : Nat) (d : Blob)
  | chunkSequenceTimeout (op : Nat)
  -- the remaining events
  | flit (link : Fin 128) (d : Blob) (crc : Word)
  | idleControlFlit (link : Fin 128)
  | ethLinkUp (port : Fin 16)
  | partFault (part : PartKind)
  | arrayNoProgress (prog : Nat) (tns : Fin 104)
  | coreFault (svc : Fin 72)
  | avsbusVoutTimeout (die : Fin 2)
  | railRange (die : Fin 2)
  | refclkGap
  | configFlashWriteComplete (ok : Bool)
  | tftpData (block : Nat) (data : Blob)
  | currentGateEnd
  | packageTemperatureRead (temps : List Nat)
  | postponedMark (key : ShardKey) (room : Bool)
  deriving DecidableEq, Repr

end Sys2Proof
end

