-- ==== Sys2Proof/Config.lean ====
section
/-!
DEFINITION. Sys2Proof/Config.lean: what the manual leaves open. Every constant here is opaque: no proof can use a
value of it. `choose n` is the n-th free value (the counter `State.free` says how many have been used); a choice among
`k` alternatives is `choose n % k`. Mark: UNVERIFIED values; the rules that leave them open are named at each use.
-/
namespace Sys2Proof.Config

/-- The n-th free value of a run (log 4). -/
opaque choose : Nat → Nat

/-- SHAKE256 with a 64-byte output (R358), uninterpreted (log 5). -/
opaque shake256 : List (BitVec 8) → BitVec 512

/-- Falcon-1024 verification (R358): public key, signed bytes, signature; uninterpreted (log 5). -/
opaque falconVerify : List (BitVec 8) → List (BitVec 8) → List (BitVec 8) → Bool

/-- Falcon-1024 signing under the key derived from a seed (R364, R369); uninterpreted (log 5). -/
opaque falconSign : List (BitVec 8) → List (BitVec 8) → Nat

/-- Falcon-1024 public key derived from a seed (R364); uninterpreted (log 5). -/
opaque falconPublic : List (BitVec 8) → List (BitVec 8)

/-- Which of the values within 2 units in the last place of the exact FP32 result a non-rational tensor function gives
(R177): function and operand. Free (log 7). -/
opaque ulpChoice : Nat → F32 → Nat

/-- What GATHER reads for an index at or above the row count (log 168): index and column. -/
opaque gatherBeyond : Nat → Nat → Nat

/-- What x / SCALE gives where a non-zero maximum over 127 rounds to SCALE 0 (R56 and R179 state no result; log 148), and
what x / 0 gives in a tensor array (log 167). -/
opaque overZeroScale : F32 → Nat

/-- Bytes of the map record fields whose width R390 does not state (log 22): 0 compat level, 1 council count, 2 spare
target, 3 sled, 4 member state, 5 slice number, 6 walk contexts, 7 lanes, 8 generation, 9 an absent role. -/
opaque mapWidth : Nat → Nat

/-- ROM_DIGEST (R369): the boot ROM of this stepping (log 84). -/
opaque romDigest : BitVec 512

/-- The sled that carries the node (R270, log 84). -/
opaque sled : Nat

/-- Whether the compute unit of a register page stands on CD1 (its place on the dies is not the manual's, R338; log 84). -/
opaque onCd1 : Nat → Bool

/-- CODE of the PWRFAIL record of R355, which no cause table gives (log 84). -/
opaque pwrfailCode : Nat

/-- Records that the ring of the POWER channel holds in what the table leaves of 1 MiB (R354, log 30). -/
opaque powerRing : Nat

/-- Where the calibration set keeps what R370 lists, as byte offset and width (its layout is not the manual's; log 83): 0 CAL_VER, 1 length,
2 SERIAL, 3 ORIGIN, 4 CRC-32C, 5 MAC addresses of six bytes, 6 cabling entries of 56 bytes, 7 WIN_RKEY, 8 queue pair records of 64
bytes, 9 the recovery mode of EP0.0. -/
opaque calAt : Nat → Nat × Nat

end Sys2Proof.Config
end

