-- ==== Sys2Proof/Machine/State.lean ====
section
/-!
DEFINITION. Sys2Proof/Machine/State.lean: everything the manual gives one LK3-9600 node, as plain data, and the state
right after the release of RESET_N. `State` is the queue of waiting commands and the node; no command's effect touches
the queue.
-/
namespace Sys2Proof.Machine

/-! ### What the node sends -/

/-- A fabric message payload (R264). -/
inductive Msg where
  | subRequest (m : SubRequestMsg)
  | partialMsg (m : PartialMsg)
  | misroute (m : MisrouteMsg)
  | subBatch (m : SubBatchMsg)
  | subBatchAnswer (m : SubBatchAnswerMsg)
  | step (m : StepRec)
  | stepAccept (key : ShardKey) (lastMsn : Nat)
  | stepForward (m : StepRec)
  | fill (m : FillMsg)
  | subBag (m : SubBagMsg)
  | pooled (m : PooledMsg)
  | rowOp (m : RowOpMsg)
  | rowAnswer (m : RowAnswerMsg)
  | rowMove (m : RowMoveMsg)
  | rowInstalled (m : RowRefMsg)
  | redirectSet (m : RedirectMsg)
  | prepare (m : PrepareMsg)
  | promise (m : PromiseMsg)
  | accept (m : AcceptMsg)
  | accepted (m : PrepareMsg)
  | commit (m : CommitMsg)
  | epochFetch (epoch : Nat)
  | epochData (m : CMap)
  | suspect (node : BitVec 12) (cause : SuspectCause)
  | probe (node : BitVec 12) (nonce : BitVec 256)
  | probeAnswer (nonce : BitVec 256)
  | loadReport (medians : List (BitVec 12 × Nat))
  | nodeWithdraw (cause : Nat)
  | join (m : JoinMsg)
  | joinAnswer (accepted : Bool) (check : Nat) (nonce : BitVec 256)
  | seal (key : ShardKey) (msn : Nat)
  | copy (m : CopyMsg)
  | rebuildRead (m : RebuildReadMsg)
  | rebuildData (m : RebuildDataMsg)
  deriving DecidableEq, Repr

/-- Everything the node puts on a wire, one entry each. -/
inductive Out where
  /-- An RDMA WRITE of response bytes (R26). -/
  | rdmaWrite (qp addr rkey : Nat) (data : Blob)
  /-- An RDMA WRITE WITH IMMEDIATE of a response header (R26). -/
  | rdmaWriteImm (qp addr rkey : Nat) (data : Blob) (imm : Nat)
  /-- An RNR NAK (R297). -/
  | rnrNak (qp : Nat)
  /-- A NAK that is no RNR NAK: 1 remote access, 2 invalid request (R293, R300). -/
  | nak (qp : Nat) (kind : Nat)
  /-- An RDMA READ response (R300). -/
  | readData (qp : Nat) (data : Blob)
  /-- A retransmission of unacknowledged packets (R296). -/
  | resend (qp : Nat)
  /-- A fabric message, to this node itself (none) or over a link: the header of R262 without the length. -/
  | msg (via : Option Nat) (src dst compat epoch hops tag : Nat) (m : Msg)
  /-- A link-layer action: 0 acknowledgement, 1 NAK, 2 replay (R259), 3 the width changes from a SEQ on (R261). -/
  | linkCtl (link : Nat) (what : Nat) (seq : Nat)
  /-- An Ethernet frame other than RoCEv2: 0 ARP reply, 1 neighbour advertisement, 2 echo reply, 3 PFC pause,
  4 PFC resume, 5 CNP, 6 discovery answer, 7 TFTP acknowledgement, 8 TFTP error. -/
  | frame (port : Nat) (kind : Nat) (data : Blob)
  /-- A register value returned to an access path (R377). -/
  | regValue (p : Path) (addr : Nat) (v : Word)
  /-- Bytes of an I3C private read. -/
  | i3cData (data : Blob)
  /-- An I3C in-band interrupt and its mandatory data byte (R384). -/
  | ibi (typ : Nat)
  /-- What a test access port instruction shifts out: its length and bits. -/
  | tdo (len : Nat) (bits : Nat)
  deriving DecidableEq, Repr

/-! ### Recorder and page header (R349-R354, R380-R382) -/

structure EvRec where
  tick      : Nat
  code      : Nat
  sev       : Nat
  page      : Nat
  lo        : Word
  hi        : Word
  lastDelta : Nat
  rep       : Nat
  seq       : Nat
  deriving DecidableEq, Repr

/-- The common header and recorder of one register page. FREEZE and FROZEN of REC_CTRL are the one bit `frozen`. -/
structure PageSt where
  cause    : Nat
  lo       : Word
  hi       : Word
  intStat  : Word
  minSev   : Nat
  frozen   : Bool
  frozeAt  : Nat
  clearReq : Bool
  ring     : List EvRec
  nextSeq  : Nat
  newest   : Nat
  dropped  : Nat
  held     : List EvRec
  lost     : Nat
  snap     : List Word
  deriving DecidableEq, Repr

def PageSt.empty : PageSt :=
  { cause := 0, lo := 0, hi := 0, intStat := 0, minSev := 0, frozen := false, frozeAt := 0, clearReq := false, ring := [],
    nextSeq := 0, newest := 0, dropped := 0, held := [], lost := 0, snap := [] }

/-- A journal copy (R353): the record, under its 32-bit journal sequence. -/
structure JnlCopy where
  jseq : Nat
  ev   : EvRec
  deriving DecidableEq, Repr

/-- The MRAM channels and the staging buffer (R354, R355). `staged` and `waiting` hold records with their channel
(0 POWER, 1 SECURITY, 2 FATAL), oldest first. -/
structure Mram where
  powerTab : Sparse (BitVec 128)
  power    : List EvRec
  security : List EvRec
  fatal    : List EvRec
  staged   : List (Nat × EvRec)
  waiting  : List (Nat × EvRec)
  /-- MRAM writes stopped by step 5 of R355. -/
  stopped  : Bool
  deriving DecidableEq, Repr

/-! ### Tenants and queue pairs (R294-R307) -/

/-- The fields of the 32-byte tenant context record (R294). -/
structure TenantCfg where
  mode     : Nat
  rate     : Nat
  burst    : Nat
  cir      : Nat
  cbs      : Nat
  pir      : Nat
  pbs      : Nat
  admitMax : Nat
  qpMax    : Nat
  deriving DecidableEq, Repr

structure Tenant where
  tid     : Nat
  cfg     : TenantCfg
  /-- The record written and not yet in effect (R304). -/
  next    : Option TenantCfg
  /-- The buckets have started (R294). -/
  started : Bool
  /-- Calendar balance, or committed bucket. -/
  balance : Nat
  peak    : Nat
  /-- Admission queue entries held (R306). -/
  held    : Nat
  /-- Holding times in ticks of the last 64 completed requests (R306). -/
  holds   : List Nat
  deriving DecidableEq, Repr

/-- One response write on a queue pair: the last PSN it takes, whether it is an error-slot header. -/
structure QpWrite where
  psn   : Nat
  err   : Bool
  deriving DecidableEq, Repr

/-- The fields of the 64-byte queue pair record (R295). -/
structure QpCfg where
  tid        : Nat
  mtu        : Nat
  lport      : Nat
  slotLog2   : Nat
  ringDepth  : Nat
  dscp       : Nat
  remoteQpn  : Nat
  rqPsn      : Nat
  sqPsn      : Nat
  rnrTimer   : Nat
  retryCnt   : Nat
  rnrRetry   : Nat
  ackTimeout : Nat
  errAddr    : Nat
  errRkey    : Nat
  gid        : Nat
  deriving DecidableEq, Repr

/-- An error-slot header that waits for the acknowledgement of the one before (R299), with its immediate data; `arrive`: the tick
from which its ADMIT_TICKS counts, set where the answer carries one (R29). -/
structure ErrHdr where
  hdr    : Blob
  imm    : Nat
  arrive : Option Nat
  deriving DecidableEq, Repr

structure Qp where
  num      : Nat
  cfg      : QpCfg
  /-- 1 RTS, 2 ERROR, 3 DRAINING (R296); a FREE queue pair is not listed. -/
  state    : Nat
  /-- Arrival ticks of the descriptors that hold a ring slot (R297). -/
  slots    : List Nat
  sqPsn    : Nat
  unacked  : List QpWrite
  /-- Error-slot headers waiting for the previous one's acknowledgement (R299). -/
  errQueue : List ErrHdr
  retries  : Nat
  rnrs     : Nat
  /-- Send rate in Mb/s (R293), and the ticks of the last CNP received and of the last rate cut. -/
  rate     : Nat
  lastCnp  : Nat
  lastCut  : Option Nat
  /-- Tick of the last CNP sent (R293). -/
  cnpSent  : Option Nat
  /-- The last 1,024 samples of depth and delay in µs (R307). -/
  samples  : List (Nat × Nat)
  deriving DecidableEq, Repr

/-! ### Requests at the admitting node (R11-R30) -/

/-- A shard's sub-request, sub-batch or sub-bag as its admitting node keeps it until it is answered. -/
structure Sub where
  tag      : Nat
  /-- Tags under which it was sent before: a partial under one of them still counts (R148). -/
  olds     : List Nat
  dst      : Nat
  shard    : Nat
  msg      : Msg
  /-- Sent to another holder under R21, R153 or R209. -/
  rerouted : Bool
  /-- Re-run once at another replica (R23); of a sub-batch: re-bound after DRAINING (R168). -/
  rerun    : Bool
  /-- A MISROUTE answered it and its newer map is not yet applied (R153, R273). -/
  parked   : Bool
  /-- Sent; false while it waits behind an earlier one (R153, R273). -/
  sent     : Bool
  sentAt   : Nat
  /-- 0 waiting, 1 answered, 2 unanswered. -/
  state    : Nat
  deriving DecidableEq, Repr

/-- A partial vector of a bag: the sub-bag it answers, its first bag position and rows. -/
structure PPart where
  tag   : Nat
  bag   : Nat
  pos   : Nat
  rows  : Nat
  sat   : Bool
  elems : List F32
  deriving DecidableEq, Repr

structure Req where
  id       : Nat
  qp       : Nat
  tid      : Nat
  op       : Nat
  d        : Blob
  arrive   : Nat
  deadline : Nat
  epoch    : Nat
  handle   : Nat
  gen      : Nat
  /-- Bound generation of the embedding table or encoder (R17). -/
  auxGen   : Nat
  rebound  : Bool
  rerouted : Bool
  /-- The query vector, once built. -/
  vec      : Option (List F32)
  /-- Fan-out has happened. -/
  fanned   : Bool
  subs     : List Sub
  /-- Records staged by the final merge (R148). -/
  records  : List (BitVec 128)
  widened  : Bool
  widenUsed : Nat
  /-- A shard returned its full target of 1,024 records without SHORTFALL (R143). -/
  fullShard : Bool
  energy   : Nat
  /-- Answer words of a MUTATE or LOOKUP, by record or item number. -/
  words    : Sparse (BitVec 128)
  duplicate : Bool
  /-- Table generation bound, and the partial vectors received (R203). -/
  tabHandle : Nat
  tabGen   : Nat
  pooled   : List PPart
  /-- Saturated rows of a WRITE or ADD. -/
  sats     : Nat
  /-- First RETRY_LATER detail of its records. -/
  detail   : Nat
  /-- The Mace unit of the final merge, and the tensor program building the vector. -/
  mce      : Option Nat
  prog     : Option Nat
  deriving DecidableEq, Repr

/-! ### Indexes and shards (R31-R63, R151-R173) -/

/-- An index generation: its 64-byte descriptor (R57) and its codebook (R36). -/
structure IdxGen where
  handle   : Nat
  gen      : Nat
  desc     : Blob
  codebook : Option Blob
  owner    : Nat
  deriving DecidableEq, Repr

/-- What protected memory keeps of a delta row (R127), by its place in the shard's reservation. -/
structure DRow where
  kind     : Nat
  base     : Nat
  first    : Nat
  last     : Nat
  /-- Insert MSN and local id of its entries, from the rebuild records (R220). -/
  ents     : List (Nat × Nat)
  /-- Set while the row awaits its rebuild; `asked`: another holder has been asked for what it needs (R127). -/
  bad      : Bool
  asked    : Bool
  /-- A COMPACTED row is released when every pass numbered below this has ended (R125). -/
  release  : Nat
  deriving DecidableEq, Repr

/-- Answer words of one sub-batch that wait for its step: sender, tag, words by record, and for DENIED_RATE etc. -/
structure WaitAns where
  dst     : Nat
  tag     : Nat
  msn     : Nat
  durable : Bool
  words   : List (BitVec 128)
  dup     : Bool
  fwd     : Bool
  deriving DecidableEq, Repr

/-- A commit step in progress at the primary (R157, R158). -/
structure PStep where
  step     : StepRec
  opened   : Nat
  closed   : Bool
  /-- Journaled and sent to the partner, and when (step 4). -/
  sent     : Bool
  sentAt   : Nat
  written  : Bool
  accepted : Bool
  /-- In flash here and at the partner (step 9). -/
  here     : Bool
  there    : Bool
  answers  : List WaitAns
  deriving DecidableEq, Repr

/-- A duplicate entry (R162). -/
structure DupEnt where
  key    : ShardKey
  tid    : Nat
  reqId  : Nat
  crc    : Nat
  words  : List (BitVec 128)
  /-- Tick of the commit; none while the step awaits it. -/
  at_    : Option Nat
  deriving DecidableEq, Repr

/-- What this node holds of a shard: the descriptor fields of R61 and the objects of R31. -/
structure Shard where
  key       : ShardKey
  slice     : Nat
  /-- 0 EMPTY, 1 SERVING, 2 AWAITING_CODEBOOK, 3 DRAINING, 4 REBUILDING (R62). -/
  state     : Nat
  /-- 0 PRIMARY, 1 PARTNER, 2 REPLICA. -/
  role      : Nat
  entryId   : Nat
  entryLvl  : Nat
  committed : Nat
  lastMsn   : Nat
  idHigh    : Nat
  /-- Local ids of deleted items that are not yet reused, with the tick at which the delete committed here (R40). -/
  reuse     : List (Nat × Nat)
  sweepAt   : Nat
  /-- CODE, ADJ, UPPER, ATTR, IDMAP, KEYIDX, FULL and DELTA base addresses. -/
  bases     : List Nat
  code      : Sparse Nat
  adj       : Sparse Nat
  upper     : Sparse Nat
  attr      : Sparse Nat
  idmap     : Sparse Nat
  keyidx    : Sparse Nat
  full      : Sparse Nat
  /-- Delta pages of the reservation in order: ((stack * 768 + unit) * 2048 + row group). -/
  pages     : List Nat
  drows     : List DRow
  /-- Steps in progress, oldest first; the last is the open one when it is not closed. -/
  steps     : List PStep
  /-- Committed steps that are not yet in flash at both nodes. -/
  doneSteps : List PStep
  /-- The journal, oldest first (R160). -/
  journal   : List StepRec
  /-- c of the last complete checkpoint (R248). -/
  ckpt      : Nat
  /-- Delta writes that wait for a free row at a holder that is not primary (R164). -/
  waiting   : List StepRec
  copyPoint : Option Nat
  forwarded : Nat
  /-- Forwarded records that wait for a local id or a row here, oldest first, and the keys forwarded so far: a fill record of one of
  them is older than what was forwarded (R168). -/
  fwdQ      : List JRec
  fwdKeys   : List Nat
  /-- Folding walks that have ended (R166): the entry's insert MSN and the items found, nearest first. -/
  foldWalks : List (Nat × List Nat)
  /-- FOLDED_TOTAL, LEVEL0_ONLY, REPAIRED_TOTAL (R167). -/
  folded    : Nat
  level0    : Nat
  repaired  : Nat
  /-- Insertion tick of unfolded entries: MSN and tick. -/
  ages      : List (Nat × Nat)
  /-- A seal in force (R278): since when; and whether SEAL has been sent. -/
  sealed    : Option Nat
  sealSent  : Bool
  deriving DecidableEq, Repr

/-! ### Query sub-requests at the shard holder (R20-R24, R131-R148) -/

/-- A gathered candidate (R131): local id, code sum, source flags, and what resolving it found. -/
structure Cand where
  lid    : Nat
  sum    : Nat
  walk   : Bool
  delta  : Bool
  key    : Nat
  exact  : Bool
  sat    : Bool
  dist   : F32
  /-- 0 not to be reranked, 1 read outstanding, 2 done. -/
  read   : Nat
  deriving DecidableEq, Repr

/-- What a walk hands to the Mace unit (R76): its status, its list of code sums and local ids, EXPANSIONS and EVALS. -/
structure WalkEnd where
  status     : Nat
  list       : List (Nat × Nat)
  expansions : Nat
  evals      : Nat
  deriving DecidableEq, Repr

structure SubReq where
  id       : Nat
  msg      : SubRequestMsg
  src      : Nat
  tag      : Nat
  arrive   : Nat
  budgetEnd : Nat
  width    : Nat
  /-- DEADLINE_TICK of its walks, set when the first one starts (R77). -/
  walkEnd  : Option Nat
  /-- The snapshot, once bound (R22, R165). -/
  snap     : Option Nat
  lutAddr  : Nat
  steps    : Nat
  /-- The walk's hand-off in the running round (R76). -/
  walk     : Option WalkEnd
  /-- Merged delta list of the running round (R116). -/
  delta    : Option (List (Nat × Nat))
  /-- Entries that survived step 5 of the previous round (R143). -/
  prev     : List Cand
  /-- Entries being reranked (R144). -/
  rerank   : List Cand
  reranking : Bool
  /-- The Mace unit it is given to; none while no active unit has room (R132). -/
  mce      : Option Nat
  energy   : Nat
  deriving DecidableEq, Repr

/-! ### Walk engines (R70-R94) -/

/-- Where a context stands in the walk of R70: the read that it issues or awaits next, or a boundary. -/
inductive WalkStage where
  /-- The code of the entry item. -/
  | entryCode
  /-- The level-0 block of the entry item. -/
  | entryBlock
  /-- The level-0 block of the item that the descent has moved to. -/
  | curBlock
  /-- The upper-level block of that item at LEVEL. -/
  | upper
  /-- The codes of that block's neighbours. -/
  | upperCodes
  /-- Before the next pop of the level-0 loop. -/
  | pop
  /-- The level-0 block of the item being expanded. -/
  | block
  /-- The codes of its new neighbours. -/
  | codes
  /-- A gang member that waits for the leader's descent, or for an expansion of another member. -/
  | idle
  deriving DecidableEq, Repr

structure Ctx where
  /-- 1 READY, 2 RUNNING, 3 MEM_WAIT, 4 TIER_WAIT, 5 SAVED; a FREE context is not listed. -/
  state   : Nat
  /-- 0 single, 1 gang leader, 2 gang member. -/
  role    : Nat
  fold    : Bool
  shadow  : Bool
  key     : ShardKey
  width   : Nat
  degree  : Nat
  level   : Nat
  /-- The upper-level descent is over (level-0 loop). -/
  base0   : Bool
  snap    : Nat
  deadline : Nat
  salt    : Nat
  lutAddr : Nat
  lut     : Lut
  expansions : Nat
  evals   : Nat
  tierFaults : Nat
  skips   : Nat
  /-- The item of the upper-level descent, then the item being expanded or none. -/
  curId   : Nat
  curSum  : Nat
  /-- TOP_LEVEL and UPPER_INDEX of the descent's item, as its level-0 block gave them. -/
  curTop  : Nat
  curUp   : Nat
  idHigh  : Nat
  sub     : Nat
  expandCap : Nat
  filter  : Nat
  cand    : List (Nat × Nat)
  res     : List (Nat × Nat)
  stage   : WalkStage
  /-- The awaited data has arrived; it is the LUT record that is awaited. -/
  arrived : Bool
  lutWait : Bool
  /-- The adjacency block buffer, and whether its read met an uncorrectable error. -/
  buf     : Nat
  bufBad  : Bool
  /-- Neighbours whose codes are awaited or staged, the staged codes (none where uncorrectable), and those still to be fetched (R82). -/
  asked   : List Nat
  codes   : List (Option Nat)
  todo    : List Nat
  /-- Neighbours of the running expansion evaluated so far, and those it entered in the visited filter. -/
  sums    : List (Nat × Nat)
  entered : List Nat
  /-- The flash-homed page waited for (R88). -/
  page    : Option Nat
  /-- Start order of the walk; the tick at which the running expansion's reads were issued, and the ticks it took before its last
  tier wait (R93). -/
  order   : Nat
  issued  : Nat
  spent   : Nat
  /-- The image holds a word with an uncorrectable error that the engine has not read yet (R86). -/
  bad     : Bool := false
  deriving DecidableEq, Repr

/-- A walk engine besides its register page: the READY queue, the LUT buffer in least recently used order, and the
windows of R93. -/
structure Eng where
  ready    : List Nat
  luts     : List Nat
  lutLoads : Nat
  drainAt  : Option Nat
  expNs    : List Nat
  fills    : List Nat
  deriving DecidableEq, Repr

/-- A pre-empted walk in the spill area (R89): its contexts, leader first. -/
structure SavedWalk where
  id   : Nat
  /-- The stack whose spill area holds the images. -/
  stack : Nat
  ctxs : List Ctx
  deriving DecidableEq, Repr

/-! ### Clove units (R95-R130) -/

/-- A result entry: code sum, slot, FOLDED, local id (R111), and the row that held its delta entry. -/
structure Emit where
  sum    : Nat
  slot   : Nat
  folded : Bool
  lid    : Nat
  row    : Bool × Nat
  deriving DecidableEq, Repr

structure Clv where
  off      : Bool
  /-- Unit states of R110. -/
  state    : Nat
  cmdErr   : Bool
  results  : List Emit
  /-- Entries of the row in progress that a full buffer holds back (R118). -/
  backlog  : List Emit
  cmd      : Option (BitVec 512)
  queued   : List (BitVec 512)
  /-- Rows of the running command still to read: odd bank, row. -/
  rows     : List (Bool × Nat)
  seqTag   : Nat
  badRows  : Nat
  rowsDone : Nat
  firstBad : Option (Bool × Nat)
  seen     : Nat
  /-- A refresh awaits the next row boundary; an ABORT awaits it (R108, R119). -/
  suspend  : Bool
  ending   : Bool
  /-- Postponed refreshes of the even and of the odd bank (R119), and activates counted since the last one (R121). -/
  postEven : Nat
  postOdd  : Nat
  actEven  : Nat
  actOdd   : Nat
  luts     : Sparse (BitVec 8192)
  params   : Sparse (BitVec 512)
  /-- Open region bounds loaded at mode entry (R101). -/
  first    : Nat
  last     : Nat
  /-- Ticks of its sampled mismatches (R117). -/
  differed : List Nat
  deriving DecidableEq, Repr

structure Batch where
  key    : ShardKey
  opened : Nat
  subs   : List Nat
  deriving DecidableEq, Repr

/-- A pass (R113-R116): its number, its sub-requests by slot, the units that hold its rows, and the delta lists by
stack * 16 + slot. -/
structure Pass where
  num    : Nat
  key    : ShardKey
  begun  : Nat
  subs   : List Nat
  started : Bool
  units  : List Nat
  /-- Runs still to be sent to a unit as a further SCAN: unit and rows. -/
  more   : List (Nat × List (Bool × Nat))
  ended  : List Nat
  lists  : Sparse (List (Nat × Nat))
  bad    : Bool
  failed : Bool
  deriving DecidableEq, Repr

/-- Clove state of one stack besides its units and register page: pseudo-channels out of Clove mode. -/
structure Stk where
  pcOff  : List Nat
  lost   : Bool
  scrubAt : Nat
  /-- Entries emitted since the last one that was recomputed (R117). -/
  emitted : Nat
  /-- Rows of a scrub still to be checked: unit, shard, rows (R126). -/
  scrubs  : List (Nat × ShardKey × List (Bool × Nat))
  /-- MSC_UNIT_SEL has been written since reset (log 154). -/
  selected : Bool
  deriving DecidableEq, Repr

/-! ### Tensor arrays (R174-R196) -/

/-- A tensor: format code, dimensions as they run, and the element codes in row-major order. -/
structure Ten where
  fmt  : Nat
  dims : List Nat
  vals : List Nat
  deriving DecidableEq, Repr

/-- A tensor descriptor (R184). -/
structure TDesc where
  fmt  : Nat
  role : Nat
  rank : Nat
  seq  : Nat
  dims : List Nat
  off  : Nat
  scale : Nat
  deriving DecidableEq, Repr

/-- An operator entry (R185). -/
structure TOp where
  code  : Nat
  flags : Nat
  in0   : Nat
  in1   : Nat
  in2   : Nat
  out   : Nat
  aux   : Nat
  a0    : Nat
  a1    : Nat
  a2    : Nat
  a3    : Nat
  deriving DecidableEq, Repr

/-- A program on an array group. Classes: 0 query encoder, 1 insert encoding, 2 codebook training. States: those of
TNS_PROG. -/
structure Prog where
  id       : Nat
  cls      : Nat
  state    : Nat
  handle   : Nat
  gen      : Nat
  need     : Nat
  /-- Its group while it runs, its last one while it waits. -/
  arrays   : List Nat
  ops      : List TOp
  descs    : List TDesc
  seqLen   : Nat
  tens     : Sparse Ten
  op       : Nat
  /-- The operator in progress has computed its output. -/
  ran      : Bool
  begun    : Nat
  deadline : Option Nat
  req      : Option Nat
  key      : Option ShardKey
  restarted : Bool
  saturated : Bool
  zeroNorm  : Bool
  /-- Tier pages that its operators use besides pinned weights, and where the pinned weights lie. -/
  pages    : List Nat
  base     : Nat
  /-- Arrays that it lost: it starts again on a group without them (R194). -/
  avoid    : List Nat
  deriving DecidableEq, Repr

/-- An encoder generation: its operator list, its tenant and where its pinned tensors lie (R183, R192). -/
structure Encoder where
  handle : Nat
  gen    : Nat
  list   : Blob
  owner  : Nat
  base   : Nat
  deriving DecidableEq, Repr

/-! ### Embedding tables (R197-R213) -/

/-- A row record and its RSEQ; a row never written is all zeros with RSEQ 0. -/
structure TRow where
  record : Nat
  rseq   : Nat
  deriving DecidableEq, Repr

/-- A row handed off (R210): its new home, the last FSEQ given, and when its installation was confirmed. -/
structure RowOut where
  row  : Nat
  towards   : BitVec 12
  fseq : Nat
  conf : Option Nat
  deriving DecidableEq, Repr

/-- A forwarded operation that waits for installation or for smaller forward sequences. -/
structure RowWait where
  h : MsgHdr
  m : Msg
  deriving DecidableEq, Repr

/-- An update whose answer waits until the partner holds it (R207): the tag of the update record, and the answer. -/
structure RowAck where
  tag  : Nat
  dst  : Nat
  rtag : Nat
  ans  : RowAnswerMsg
  deriving DecidableEq, Repr

/-- A table generation (R197), and what this node holds of it. -/
structure TabSt where
  handle    : Nat
  gen       : Nat
  desc      : Blob
  owner     : Nat
  /-- Node linear address that row id 0 would have (log 10). -/
  base      : Nat
  rows      : Sparse TRow
  /-- The partner's image of the rows of other homes (R207). -/
  image     : Sparse TRow
  /-- Flash units that hold the image's rows (R207). -/
  imgUas    : Sparse (List Nat)
  /-- Rows migrated in, and rows handed off whose forwarding window runs. -/
  here      : List Nat
  away      : List RowOut
  /-- Redirect entries of the default home: node + 1 by row. -/
  redirect  : Sparse Nat
  waits     : List RowWait
  /-- Last forward sequence served, by row. -/
  served    : Sparse Nat
  acks      : List RowAck
  /-- Table shards, and single rows, that await restoration (R207, R337). -/
  restoring : List Nat
  bad       : List Nat
  /-- Row reads and updates of the running window and of the last one, by table shard (R208, R211). -/
  reads     : Sparse Nat
  updates   : Sparse Nat
  lastReads : Sparse Nat
  lastUpd   : Sparse Nat
  /-- Reads counted since the table was created, by table shard, and the sampled reads of the window by row. -/
  total     : Sparse Nat
  hot       : Sparse Nat
  overLim      : Nat
  /-- Pages that its creation reserved here (R198). -/
  reserved  : Nat
  windowAt  : Nat
  outN      : Sparse Nat
  inN       : Sparse Nat
  fwdN      : Sparse Nat
  deriving DecidableEq, Repr

/-! ### Compute units (R93, R338) -/

/-- A compute unit: UNIT_STATE (0 ACTIVE, 1 SPARE, 2 DRAINING, 3 QUARANTINED, 4 OFF), its operating points, and the ticks
at which it was charged (R343, R344). -/
structure UnitSt where
  state   : Nat
  fused   : Nat
  aged    : Nat
  cur     : Nat
  charges : List Nat
  /-- Leaves service and empties (step 4 of R339): the UNIT_STATE it then takes. -/
  leaving : Option Nat
  deriving DecidableEq, Repr

/-! ### Memory tiers (R214-R234) -/

/-- A home map entry (R216) with what the MMU keeps beside it. Homes: 1 STACK, 2 DIMM, 3 FLASH. -/
structure PgEnt where
  allowed  : Nat
  home     : Nat
  pinned   : Bool
  open_    : Bool
  moving   : Bool
  heat     : Nat
  tid      : Nat
  internal : Bool
  frame    : Nat
  defHome  : Nat
  /-- Held under the promotion allowance, and the order of its promotion (R220). -/
  promoted : Bool
  order    : Nat
  /-- Target home and frame of a move, its dirty map, whether its copy pass is over, and since when it holds (R224). -/
  target   : Nat
  tframe   : Nat
  dirty    : Nat
  hold     : Bool
  heldN    : Nat
  /-- The move takes the page off a frame that is then retired (R232). -/
  retire   : Bool
  /-- A clean copy stands in flash: its frame (R222). -/
  clean    : Option Nat
  acc      : Nat
  idleAt   : Nat
  ceTicks  : List Nat
  /-- What waits for the page: a context (engine * 512 + context), a DMA channel (2^19 + channel), folding (2^20), a tensor
  program (2^21 + its number). -/
  waiters  : List Nat
  deriving DecidableEq, Repr

/-- A range of tier pages handed to an object (R214). `what`: shard object code of R31 order 0-8, 9 embedding rows,
10 operator list, 11 node-internal. -/
structure ObjRange where
  base     : Nat
  pages    : Nat
  allowed  : Nat
  defHome  : Nat
  open_    : Bool
  internal : Bool
  pinned   : Bool
  tid      : Nat
  what     : Nat
  key      : ShardKey
  deriving DecidableEq, Repr

/-- Quotas and reservations of a tenant, in tier pages (R219). -/
structure Quota where
  stack : Nat
  dimm  : Nat
  flash : Nat
  promo : Nat
  usedStack : Nat
  usedDimm  : Nat
  usedFlash : Nat
  deriving DecidableEq, Repr

/-- A segment of a tenant context (R218). -/
structure Segment where
  tid   : Nat
  addr  : Nat
  pages : Nat
  base  : Nat
  rw    : Bool
  deriving DecidableEq, Repr

/-- A DMA channel (R225-R227): STATE of R233, the transfer's tenant, class, chunks and progress, the request it serves,
what it writes or the bytes it has read, and the page it waits for. -/
structure Dma where
  state    : Nat
  tid      : Nat
  cls      : Nat
  total    : Nat
  progress : Nat
  deadline : Nat
  job      : Option Nat
  addr     : Nat
  write    : Bool
  data     : Blob
  page     : Option Nat
  deriving DecidableEq, Repr

structure MmuSt where
  ptab     : Sparse (Option PgEnt)
  /-- Valid entries of the home directory, in the order their leaves were allocated: bits [35:18] of the page numbers (R216). -/
  dir      : List Nat
  objs     : List ObjRange
  /-- The next page number to hand out (log 10). -/
  nextPage : Nat
  quotas   : Sparse Quota
  segments : List Segment
  /-- Installed frames by tier, and frames that tenants have reserved. -/
  capStack : Nat
  capDimm  : Nat
  capFlash : Nat
  /-- Retired frames as tier * 2^32 + frame. -/
  retired  : List Nat
  retiredN : Nat
  promos   : Nat
  /-- Tick of the window and moves made in it (MOVES_PER_MS). -/
  moveWin  : Nat
  moveN    : Nat
  decayAt  : Nat
  dmas     : Sparse Dma
  /-- Pages of shard objects written since the last checkpoint of their shard (R248). -/
  changed  : List Nat
  deriving DecidableEq, Repr

/-! ### Flash (R235-R256) -/

/-- A map entry (R238) with the unit's WRITE_SEQ, tenant and content. MSTATE: 0 UNWRITTEN (not listed), 1 MAPPED,
2 DISCARDED, 3 LOST. `blk` is the block's code; see `blkCode`. -/
structure FMap where
  mstate : Nat
  blk    : Nat
  page   : Nat
  slot   : Nat
  seq    : Nat
  tid    : Nat
  data   : Blob
  deriving DecidableEq, Repr

/-- A flash block: 0 erased, 1 open, 2 closed, 3 retired, 4 to be erased once its last valid unit has moved,
5 reserved to be opened next. -/
structure FBlk where
  state  : Nat
  stream : Nat
  next   : Nat
  reads  : Nat
  erases : Nat
  /-- When it was closed (WRITE_SEQ) and first written (tick). -/
  closed : Nat
  held   : Nat
  /-- A read of it met an uncorrectable slot; a refresh is due. -/
  uncorr : Nat
  due    : Bool
  /-- The scan after power-up has read it. -/
  scanned : Bool
  deriving DecidableEq, Repr

/-- A unit in the write buffer (R241). `what`: what its writer waits for. `stage`: 0 buffered, 1 program issued,
2 programmed, its word line not complete. -/
structure WUnit where
  ua     : Nat
  seq    : Nat
  stream : Nat
  tid    : Nat
  data   : Blob
  at_    : Nat
  blk    : Nat
  page   : Nat
  slot   : Nat
  stage  : Nat
  /-- The commit step whose journal unit it is. -/
  jour   : Option (ShardKey × Nat)
  /-- The shard whose checkpoint image it belongs to. -/
  ckpt   : Option ShardKey
  deriving DecidableEq, Repr

/-- A read that waits: unit, class of R243, since when, on the map page (true) or on its LUN, and the block against which it is
issued, code + 1, or 0 (R242). -/
structure FRead where
  ua    : Nat
  cls   : Nat
  at_   : Nat
  onMap : Bool
  blk   : Nat
  deriving DecidableEq, Repr

/-- A root (R249). -/
structure Root where
  ckptSeq : Nat
  seq     : Nat
  pool    : Nat
  reserve : Nat
  health  : Sparse Nat
  opens   : List (Nat × Nat)
  /-- The two reserved next blocks of each stream. -/
  resv    : Sparse (List Nat)
  /-- The map as its pages and directory were written. -/
  map     : Sparse (Option FMap)
  deriving DecidableEq, Repr

/-- A shard checkpoint under way or complete (R248): c, the image's units still to be in flash, and the copy of the
shard at the mark. -/
structure Ckpt where
  key   : ShardKey
  c     : Nat
  left  : Nat
  done  : Bool
  /-- The image's unit list. -/
  units : List Nat
  image : Shard
  /-- The delta rows at the mark, by place in the reservation. -/
  rows  : Sparse Nat
  deriving DecidableEq, Repr

structure Ftl where
  /-- POOL_STATE (R251). -/
  pool    : Nat
  reserve : Nat
  map     : Sparse (Option FMap)
  blocks  : Sparse (Option FBlk)
  buf     : List WUnit
  seq     : Nat
  /-- The open block of each stream, block code + 1. -/
  opens   : Sparse Nat
  /-- Reserved next blocks by stream (R249). -/
  resv    : Sparse (List Nat)
  /-- Units of journal steps in flash or on their way: shard, last MSN, unit addresses (R160). -/
  jours   : List (ShardKey × Nat × List Nat)
  reads   : List FRead
  /-- Cached map pages, least recently used first, and the dirty ones. -/
  cached  : List Nat
  dirty   : List Nat
  pkgs    : Sparse (Option Pkg)
  /-- LUNs taken out: (ch * 8 + ce) * 4 + lun. -/
  lunOut  : List Nat
  /-- Suspensions of the operation in progress, by LUN. -/
  susp    : Sparse Nat
  /-- MAP_CACHE_GIB as the last node reset took it, and erases of every block at formats. -/
  cacheGiB : Nat
  formats : Nat
  spareInit : Nat
  spareNow  : Nat
  /-- Blocks that were already retired when the pool was last formatted. -/
  oldRetired : Nat
  /-- Health log words counted live, by offset (R254); the log read by MGMT is that of the last root. -/
  health  : Sparse Nat
  roots   : List Root
  ckptSeq : Nat
  rootAt  : Nat
  ckpts   : List Ckpt
  /-- Tick of the last checkpoint mark of each shard, and marks postponed. -/
  marks   : List (ShardKey × Nat)
  postponed : Nat
  /-- The next unit address of the node's own journal and checkpoint units (log 10). -/
  nextUa  : Nat
  /-- The package temperatures last read, by channel, and the highest since reset. -/
  temps   : List Nat
  tempTop : List Nat
  deriving DecidableEq, Repr

/-! ### The fabric (R257-R288) -/

/-- A link: LINK_STATE of R287 (0 DOWN, 1 TRAINING, 2 UP, 3 DEGRADED), its cabled and active lanes in position order,
its spare lane, its peer, the last SEQ received in order, the highest SEQ that the peer has acknowledged, the replays of
one flit in a row, the flit buffers freed by class as the peer has returned them, and when anything was last heard. -/
structure Link where
  state  : Nat
  cabled : List Nat
  active : List Nat
  spare  : Option Nat
  peer   : Nat
  serial : BitVec 128
  compat : Nat
  rxSeq  : Nat
  acked  : Nat
  replays : Nat
  credits : Sparse Nat
  heard  : Nat
  deriving DecidableEq, Repr

/-- A lane: LANE_STATE of R287, its link, position, rate, and the peer's node and lane. -/
structure Lane where
  state : Nat
  link  : Option Nat
  pos   : Nat
  rate  : Nat
  peer  : Nat
  peerLane : Nat
  deriving DecidableEq, Repr

/-- An entry of the cabling table (R257, R389). -/
structure Cable where
  link   : Nat
  lanes  : List Nat
  serial : BitVec 128
  peers  : List Nat
  spare  : Option Nat
  peerSpare : Nat
  deriving DecidableEq, Repr

/-- A message held for a newer epoch (R273). -/
structure HeldMsg where
  h   : MsgHdr
  m   : Msg
  at_ : Nat
  deriving DecidableEq, Repr

/-- A message of this node that expects a reply. -/
structure Await where
  tag : Nat
  dst : Nat
  m   : Msg
  at_ : Nat
  deriving DecidableEq, Repr

/-- A forwarding entry (R276). -/
structure Fwd where
  key   : ShardKey
  table : Bool
  towards    : BitVec 12
  at_   : Nat
  deriving DecidableEq, Repr

/-- A sub-batch held by a sealed primary (R278). -/
structure HeldSub where
  h   : MsgHdr
  m   : SubBatchMsg
  at_ : Nat
  deriving DecidableEq, Repr

/-- A change of the composition map that a council member wants committed. -/
inductive MapChange where
  | member (m : Member)
  | memberState (node : BitVec 12) (s : MemberState)
  | remove (node : BitVec 12)
  | joined (m : Member) (trunks : List (BitVec 12 × BitVec 12))
  | council (l : List (BitVec 12)) (spares : Nat)
  | shardRoles (l : List ShardRole)
  | seals (l : List (ShardKey × Nat))
  | moved (node : BitVec 12)
  | create (g : GenRec) (shards : List ShardRole) (tables : List TableRole) (slices : List SliceRec)
  | makeCurrent (g : GenRec)
  | codebook (handle gen : Nat)
  | free (handle : Nat)
  | reform
  deriving DecidableEq, Repr

/-- A proposal under way (R272): phase 1 collects promises, phase 2 acceptances. -/
structure Proposal where
  epoch    : Nat
  ballot   : Ballot
  change   : MapChange
  own      : CMap
  map      : CMap
  phase    : Nat
  promises : List (Nat × Option (Ballot × CMap))
  accepts  : List Nat
  /-- When a higher ballot was met, the end of the back-off. -/
  backoff  : Option Nat
  deriving DecidableEq, Repr

/-- The council member's memory (R272): the ballot promised and the map accepted for an epoch, the highest ballot round
seen, its proposal, the changes it wants, the sealed shards it has been told of (R278), and the acceptances whose journal
writes are under way: epoch, ballot, proposer and tag. -/
structure Council where
  promised : List (Nat × Ballot)
  accepted : List (Nat × Ballot × CMap)
  round    : Nat
  prop     : Option Proposal
  wants    : List MapChange
  seals    : List (ShardKey × Nat)
  writes   : List (Nat × Ballot × Nat × Nat)
  deriving DecidableEq, Repr

/-- A suspicion that the council follows (R274): the node, since when, and the nonces of the probes sent. -/
structure Suspicion where
  node   : BitVec 12
  at_    : Nat
  nonces : List (BitVec 256)
  deriving DecidableEq, Repr

/-- A request whose answer waits for a map change to commit (R392), with the RESULT it will carry, and the codebook that the
change gives a generation (R60). -/
structure MapJob where
  req    : Nat
  change : MapChange
  result : Nat
  at_    : Nat
  data   : Blob
  deriving DecidableEq, Repr

/-- The fuses (R359). -/
structure Fuses where
  rootDigest : BitVec 512
  seed       : Blob
  serial     : BitVec 128
  /-- FUSE_COUNT -/
  rollback   : Nat
  revoke     : Nat
  deriving DecidableEq, Repr

/-! ### Ethernet (R289-R293) -/

/-- A logical port EPp.q: LINK_q (0 DOWN, 1 TRAINING, 2 UP, 3 FAULT), since when a PFC frame pauses it, and until when it
ignores PFC frames. -/
structure EthPort where
  link   : Nat
  paused : Option Nat
  ignore : Option Nat
  deriving DecidableEq, Repr

/-! ### Power and heat (R315-R331) -/

structure PwrSt where
  /-- Limits of the cap loop, the thermal loop and the alert ramp (R315). -/
  capLim   : Nat
  thmLim   : Nat
  alertLim : Nat
  /-- A deferred lowering (R322): the limit that still applies, and since when. -/
  capHeld  : Option (Nat × Nat)
  /-- Window of the deferral budget and ticks deferred in it. -/
  deferWin : Nat × Nat
  /-- Issue gating of the cap and thermal loops in percent. -/
  capGate  : Nat
  thmGate  : Nat
  /-- Means of the last decision in W. -/
  mean50   : Nat
  meanWin  : Nat
  capAt    : Nat
  thmAt    : Nat
  /-- Alert inputs acted on; the last deassertion; the last step of the ramp (R323). -/
  alerts   : List Nat
  holdAt   : Option Nat
  rampAt   : Option Nat
  /-- Droop detectors that gate issue, as die * 256 + detector (R326), and gating under CURRENT (R327). -/
  droops   : List Nat
  curGate  : Option Nat
  /-- Cumulative ticks of each throttle reason, as of `thrAt` (R319). -/
  thr      : Sparse Nat
  thrAt    : Nat
  /-- Junction sensors (CD0, CD1, BD0, BD1) and stacks in °C, hottest since reset, and since when every sensor is 3 °C below its
  threshold (R324). -/
  sensors  : List Int
  stackTemps   : List Int
  maxJ     : Int
  maxS     : Int
  coolAt   : Option Nat
  thermN   : Bool
  /-- Dies held at OP0 (R406), and REFCLK gaps (TMR_STAT). -/
  opHeld   : List Nat
  gaps     : Nat
  /-- Energy accounts in µJ: tenants, queue pairs, the node account, the package (R331, R332). -/
  tenE     : Sparse Nat
  qpE      : Sparse Nat
  nodeE    : Nat
  packE    : Nat
  /-- Tick, TID and µJ of the last 100 ms; budgets in W and tenants held (R330). -/
  recent   : List (Nat × Nat × Nat)
  budgets  : Sparse Nat
  held     : List Nat
  deriving DecidableEq, Repr

/-- A takeover waiting for or powering its spare (R339, R340): the old unit's page, the spare's page once chosen, whether the
cause is quarantine. -/
structure Takeover where
  old   : Nat
  spare : Option Nat
  quar  : Bool
  deriving DecidableEq, Repr

/-! ### Shadow recomputation (R341-R343) -/

/-- A sampled unit of work: the page of the unit that did it, when it ended, and the page its shadow runs on. -/
structure ShadowWork where
  id    : Nat
  page  : Nat
  ended : Nat
  on    : Option Nat
  differs : Bool
  /-- INFO words of its block's own report. -/
  lo    : Nat
  hi    : Nat
  deriving DecidableEq, Repr

/-! ### Boot, config flash, I3C and test port (R358-R373, R383, R404) -/

/-- A TFTP write in progress (R367): its block size, the next block, what has arrived, and the client. -/
structure Tftp where
  blk    : Nat
  next_  : Nat
  data   : Blob
  client : Blob
  deriving DecidableEq, Repr

/-- The recovery sources (R367, R385): MBOX_CHUNK, page 0x7FF, MBOX_STAT [31:28], the next chunk expected, the chunks accepted so
far, the TFTP transfer, and the image received whole. -/
structure RecovSt where
  chunk  : Nat
  page   : Blob
  stat   : Nat
  next_  : Nat
  image  : Blob
  tftp   : Option Tftp
  whole  : Blob
  deriving DecidableEq, Repr

def RecovSt.empty : RecovSt :=
  { chunk := 0, page := { len := 4096, bits := 0 }, stat := 0, next_ := 0, image := { len := 0, bits := 0 }, tftp := none,
    whole := { len := 0, bits := 0 } }

/-- What node reset takes or finds. -/
structure BootSt where
  /-- RESET_N is asserted: everything but the always-on logic is held (R412). -/
  inReset    : Bool
  /-- STRAP_RECOV_N low in bit 0, STRAP_I3C in bits 3..1, as last sampled (R403). -/
  straps     : Nat
  /-- TOP_RESET_CAUSE.CAUSE: 0 POWER_ON, 1 RESET_N, 2 TOP_RESET, 3 RECOVERY. -/
  cause      : Nat
  /-- RECOVER was written before the last reset. -/
  toRecovery : Bool
  /-- DEVICE_SEED is locked (R359). -/
  seedLocked : Bool
  /-- DIMM population as training found it (R397). -/
  dimms      : List DimmInfo
  /-- MAX_MTS of the DIMM and of the flash channels as the last node reset took them; what is not listed is as at reset. -/
  dchMax     : List Nat
  fchMax     : List Nat
  /-- MTS_NOW by flash channel (R255). -/
  fchMts     : Sparse Nat
  deriving DecidableEq, Repr

def BootSt.empty : BootSt :=
  { inReset := false, straps := 0, cause := 0, toRecovery := false, seedLocked := false, dimms := [], dchMax := [], fchMax := [],
    fchMts := [] }

/-- The I3C target: register address of the last private write, dynamic address, tick of the last in-band interrupt. -/
structure I3cSt where
  reg   : Nat
  dyn   : Option Nat
  ibiAt : Nat
  deriving DecidableEq, Repr

/-- A write of config flash in progress: to the calibration region or the image region, the new contents, the request that it
answers, the RESULT of its answer, and since when. -/
structure FlashJob where
  cal    : Bool
  data   : Blob
  req    : Nat
  at_    : Nat
  deriving DecidableEq, Repr

/-- A chunked MGMT sequence (R388) of a queue pair and operation: queue pair * 65536 + operation, what has arrived, and when it
began. -/
structure ChunkOp where
  id     : Nat
  data   : Blob
  at_    : Nat
  deriving DecidableEq, Repr

/-- The test access port: the instruction in force (1 BYPASS, 2 IDCODE, 3 SAMPLE/PRELOAD, 4 EXTEST, 5 CLAMP, 6 HIGHZ), the boundary
scan register, and what the pins do: 0 as the node drives them, 1 as the register says, 2 released. -/
structure Tap where
  ir    : Nat
  bsr   : Nat
  drive : Nat
  deriving DecidableEq, Repr

/-- What the SCH page shows (R396): ticks of the folds of the last second, and the waits in ticks of the last 1,024 closed batches. -/
structure SchSt where
  folds : List Nat
  waits : List Nat
  deriving DecidableEq, Repr

/-! ### The node -/

/-- One LK3-9600 node. -/
structure Node where
  /-- the local interval timer (R313) -/
  tick : Nat
  /-- the model's own counter of free values (log 4) -/
  free : Nat
  /-- everything sent, oldest first -/
  out : List Out
  /-- stored values of the RW registers, by address; an unlisted one reads as its reset value -/
  regs : Sparse Word
  /-- every counter register, by its (low) address -/
  cnts : Sparse Nat
  /-- page headers and recorder rings, by page number -/
  pages : Sparse PageSt
  /-- _HI latches (R377), by path code * 2^24 + address of _HI -/
  latches : Sparse Word
  /-- the node journal, oldest first (R353) -/
  jnl : List JnlCopy
  /-- the next journal sequence (R395) -/
  jnext : Nat
  mram : Mram
  /-- TOP_STATE.STATE: 0 ROM, 1 RECOVERY, 2 STARTING, 3 RUNNING, 4 STOPPED (R394) -/
  topState : Nat
  /-- TOP_STATE.STOP_CAUSE (R394) -/
  stopCause : Nat
  /-- tenant contexts; TID 0 of R294 -/
  tenants : List Tenant
  /-- RDMA_TEN_DENIED by TID -/
  tenDenied : Sparse Nat
  /-- the last calendar entry granted, counted from timer value 0 (R302) -/
  calEntry : Nat
  /-- queue pairs that are not FREE -/
  qps : List Qp
  /-- the next queue pair number to assign (log 8) -/
  nextQp : Nat
  /-- requests admitted and in progress -/
  reqs : List Req
  nextReq : Nat
  /-- the next MSG_TAG of this node (log 8) -/
  nextTag : Nat
  /-- rights to an object besides its owner's: TID, handle, and whether to write as well (R200; log 9) -/
  granted : List (Nat × Nat × Bool)
  /-- PSN of the latest acknowledgement by queue pair -/
  lastAck : Sparse Nat
  /-- index generations of the composition -/
  gens : List IdxGen
  /-- IDX_DEDUP_S by index handle; 30 when unlisted (R162) -/
  idxDedup : Sparse Nat
  /-- shards held in any role -/
  shards : List Shard
  /-- delta rows by ((stack * 768 + unit) * 2 + odd) * 65536 + row; an unlisted row is EMPTY -/
  openRows : Sparse Nat
  /-- open tier pages allocated, with the shard they serve -/
  openPages : List (Nat × ShardKey)
  /-- the duplicate table -/
  dups : List DupEnt
  /-- entries dropped because the table was full (R162) -/
  dupLost : Nat
  /-- query sub-requests being served here -/
  subReqs : List SubReq
  nextSub : Nat
  /-- walks waiting for a context (R91) -/
  walkQ : List Nat
  /-- walk contexts by engine * 512 + context -/
  ctxs : Sparse (Option Ctx)
  /-- walk engines by number -/
  engs : Sparse Eng
  /-- node-internal tier pages that hold the LUT records of sub-requests and folding walks (R84, log 151) -/
  lutPages : List Nat
  /-- replaced generations of indexes and tables, with the tick since which their successor is current (R17, log 150) -/
  replaced : List (Nat × Nat × Nat)
  /-- pre-empted walks in the spill area -/
  saved : List SavedWalk
  /-- start order of walks, and numbers of saved walks -/
  nextWalk : Nat
  /-- Clove units by stack * 768 + u -/
  clvs : Sparse Clv
  /-- open batches -/
  batches : List Batch
  /-- passes in the order their batches closed -/
  passes : List Pass
  nextPass : Nat
  /-- stacks besides their units -/
  stks : Sparse Stk
  /-- poisoned 32-bit words by node linear address / 4 (R232) -/
  poison : List Nat
  /-- the node's id in the applied map (R270) -/
  nodeId : BitVec 12
  /-- the applied composition map -/
  map : CMap
  /-- compute units by register page; an unlisted one is as fused (log 3) -/
  units : Sparse UnitSt
  /-- pages of the units fused as spares (log 3) -/
  fusedSpare : List Nat
  mmu : MmuSt
  /-- context slots in a lost SRAM bank (R338), engine * 512 + context -/
  ctxDead : List Nat
  /-- sampled work awaiting or running its shadow (R341) -/
  shadows : List ShadowWork
  nextWork : Nat
  /-- the flash translation layer and its media -/
  ftl : Ftl
  /-- links by link id (R257) -/
  links : Sparse (Option Link)
  /-- lanes PL0-PL135; an unlisted one reads DOWN -/
  lanes : Sparse (Option Lane)
  /-- the cabling table (R257) -/
  cabling : List Cable
  /-- FRT_MEMBER.QUORUM (R275) -/
  quorum : Bool
  /-- when a council majority was last reachable -/
  quorumLostAt : Nat
  /-- source, tag and tick of the messages of the last 10 ms (R269) -/
  seen : List (Nat × Nat × Nat)
  /-- source and tick of the messages that failed R266 within the last 1 ms (R285) -/
  bad : List (Nat × Nat)
  /-- nodes fenced for bad messages (R285) -/
  fenced : List Nat
  /-- messages held for a newer epoch -/
  heldMsgs : List HeldMsg
  /-- messages of this node that expect a reply -/
  awaits : List Await
  /-- forwarding entries -/
  fwds : List Fwd
  /-- sub-batches held by a sealed primary -/
  heldSubs : List HeldSub
  /-- maps this member has applied, for EPOCH_FETCH -/
  oldMaps : List CMap
  council : Council
  suspicions : List Suspicion
  /-- tick of the last MAP-class message from each node (R274) -/
  mapHeard : Sparse Nat
  /-- MAP timeouts in a row by destination (R274) -/
  mapTimeouts : Sparse Nat
  /-- holder and send-to-partial time of the running second (R282) -/
  partialTimes : List (Nat × Nat)
  /-- reports in a row in which a holder exceeded the median (R282) -/
  slowRuns : Sparse Nat
  /-- tick of the last LOAD_REPORT -/
  loadAt : Nat
  /-- tensor programs -/
  progs : List Prog
  nextProg : Nat
  /-- encoder generations -/
  encoders : List Encoder
  /-- times of the last 1,024 operators by array, in ticks (R195) -/
  tnsTimes : Sparse (List Nat)
  /-- table generations -/
  tabs : List TabSt
  /-- route cache, least recently used first: table, row, node (R209) -/
  routes : List (Nat × Nat × Nat)
  /-- requests that wait for a map change -/
  mapJobs : List MapJob
  /-- the fuses (R359; values of this part, log 3) -/
  fuses : Fuses
  /-- probe nonces given to joining nodes (R369) -/
  nonces : List (BitVec 256)
  /-- the image region of config flash (R360; contents of a part, log 3) -/
  image : Blob
  /-- the calibration region of config flash -/
  calFlash : Blob
  /-- MANUFACTURING and DEVICE certificates (R360) -/
  identity : Blob
  /-- the image that the ROM started -/
  running : Blob
  /-- the calibration set in use; empty for the built-in defaults (R372) -/
  calSet : Blob
  /-- the ATTESTATION certificate issued at boot (R364) -/
  attCert : Blob
  /-- BOOT_STATE.STATE (R373): 0 ROM, 1 RECOVERY, 2 FIRMWARE, 3 IDENTITY_FAILED -/
  bootState : Nat
  /-- BOOT_STATE.RECOVERED -/
  recovered : Bool
  /-- BOOT_STATE.SOURCE: 0 none, 1 EP0, 2 I3C -/
  recSource : Nat
  /-- BOOT_CTRL.RECOVER: enter recovery at the next reset -/
  recoverNext : Bool
  /-- the set failed its CRC at boot (R372) -/
  calInvalid : Bool
  /-- CAL_STAT.PENDING -/
  calPending : Bool
  /-- BREAKOUT in effect, by port (R289) -/
  ethMode : List Nat
  /-- logical ports by 4p + q; an unlisted one is DOWN -/
  ethPorts : Sparse EthPort
  /-- millisecond of the last discovery answers, and their number in it (R301) -/
  discWin : Nat × Nat
  /-- tick of the last queue pair sample (R307) -/
  sampleAt : Nat
  /-- operating points, throttling, temperatures, energy -/
  pwr : PwrSt
  takeovers : List Takeover
  /-- PWRFAIL_N was asserted: the node serves nothing until RESET_N (R413) -/
  pwrfail : Bool
  /-- TOP_RESET_CAUSE.AFTER_FATAL: the previous run ended in a fatal stop -/
  afterFatal : Bool
  /-- units under requalification: page and since when (R345) -/
  requal : List (Nat × Nat)
  /-- SRAM rows corrected within the last 60 s, with the tick (R338) -/
  sramCor : List (Nat × Nat)
  /-- SRAM rows that a spare row has taken the place of, in rising order (R338) -/
  sramFixed : List Nat
  /-- home slices that failed (R338) -/
  hsLost : List Nat
  /-- reset, straps, population (R364, R378, R397, R403) -/
  boot : BootSt
  /-- the recovery transfers (R367, R385) -/
  rcv : RecovSt
  /-- what flash holds of the shards of the last run: last checkpoint and journal (R173) -/
  parked : List Shard
  /-- the staging window (R375) -/
  staging : Blob
  /-- a write to config flash in progress (R368, R371) -/
  flashJob : Option FlashJob
  /-- chunked MGMT sequences (R388) -/
  chunkOps : List ChunkOp
  /-- the I3C target (R383, R384) -/
  i3c : I3cSt
  /-- the test access port (R404) -/
  tap : Tap
  /-- scheduler figures (R396) -/
  sched : SchSt
  deriving DecidableEq, Repr

/-- The block: the commands waiting, first in first out, and the node. -/
structure State where
  pending : List Instr
  node    : Node
  deriving DecidableEq, Repr

/-- Why the block stops with a fault. -/
inductive Fault where
  /-- Raised by no command: the manual gives every command of the table an effect. Safe. -/
  | none
  deriving DecidableEq, Repr

/-- Why a command has no meaning. -/
inductive Refusal where
  /-- Raised by `exec` alone, on a command whose meaning is not written yet. Safe. -/
  | notModelled (mnemonic : String)
  deriving DecidableEq, Repr

/-- The node right after the release of RESET_N (R378); the values the manual does not give are those of log 3. -/
def Node.reset : Node :=
  { tick := 0,
    free := 0,
    out := [],
    regs := [],
    cnts := [],
    pages := [],
    latches := [],
    jnl := [],
    jnext := 0,
    mram := { powerTab := [], power := [], security := [], fatal := [], staged := [], waiting := [], stopped := false },
    topState := 0,
    stopCause := 0,
    tenants := [{ tid := 0, cfg := { mode := 0, rate := 1000, burst := 16, cir := 1000, cbs := 16, pir := 1000, pbs := 16, admitMax := 64, qpMax := 16 }, next := none, started := true, balance := 16, peak := 0, held := 0, holds := [] }],
    tenDenied := [],
    calEntry := 0,
    qps := [],
    nextQp := 0x000101,
    reqs := [],
    nextReq := 0,
    nextTag := 1,
    granted := [],
    lastAck := [],
    gens := [],
    idxDedup := [],
    shards := [],
    openRows := [],
    openPages := [],
    dups := [],
    dupLost := 0,
    subReqs := [],
    nextSub := 0,
    walkQ := [],
    ctxs := [],
    engs := [],
    lutPages := [],
    replaced := [],
    saved := [],
    nextWalk := 0,
    clvs := [],
    batches := [],
    passes := [],
    nextPass := 0,
    stks := [],
    poison := [],
    nodeId := 0,
    map := { epoch := 0, prevDigest := 0, minCompat := 3, council := [], spareTarget := 0, members := [], slices := [], shards := [], tables := [], gens := [], trunks := [], descs := [] },
    units := [],
    fusedSpare := [0x140, 0x141, 0x142, 0x143, 0x144, 0x145, 0x146, 0x147, 0x190, 0x191, 0x260, 0x261, 0x262, 0x263, 0x264, 0x265, 0x266, 0x267, 0x80, 0x81, 0x82, 0x83, 0x84, 0x85, 0x86, 0x87],
    mmu := { ptab := [], dir := [], objs := [], nextPage := 1, quotas := [], segments := [], capStack := 12576768, capDimm := 67108864, capFlash := 0, retired := [], retiredN := 0, promos := 0, moveWin := 0, moveN := 0, decayAt := 0, dmas := [], changed := [] },
    ctxDead := [],
    shadows := [],
    nextWork := 0,
    ftl := { pool := 0, reserve := 12, map := [], blocks := [], buf := [], seq := 0, opens := [], resv := [], jours := [], reads := [], cached := [], dirty := [], pkgs := [], lunOut := [], susp := [], cacheGiB := 32, formats := 0, spareInit := 0, spareNow := 0, oldRetired := 0, health := [], roots := [], ckptSeq := 0, rootAt := 0, ckpts := [], marks := [], postponed := 0, nextUa := 0, temps := [], tempTop := [] },
    links := [],
    lanes := [],
    cabling := [],
    quorum := false,
    quorumLostAt := 0,
    seen := [],
    bad := [],
    fenced := [],
    heldMsgs := [],
    awaits := [],
    fwds := [],
    heldSubs := [],
    oldMaps := [],
    council := { promised := [], accepted := [], round := 0, prop := none, wants := [], seals := [], writes := [] },
    suspicions := [],
    mapHeard := [],
    mapTimeouts := [],
    partialTimes := [],
    slowRuns := [],
    loadAt := 0,
    progs := [],
    nextProg := 0,
    encoders := [],
    tnsTimes := [],
    tabs := [],
    routes := [],
    mapJobs := [],
    fuses := { rootDigest := 0, seed := { len := 32, bits := 0 }, serial := 0, rollback := 0, revoke := 0 },
    nonces := [],
    image := { len := 0, bits := 0 },
    calFlash := { len := 0, bits := 0 },
    identity := { len := 0, bits := 0 },
    running := { len := 0, bits := 0 },
    calSet := { len := 0, bits := 0 },
    attCert := { len := 0, bits := 0 },
    bootState := 0,
    recovered := false,
    recSource := 0,
    recoverNext := false,
    calInvalid := false,
    calPending := false,
    ethMode := [0, 0, 0, 0],
    ethPorts := [],
    discWin := (0, 0),
    sampleAt := 0,
    pwr := { capLim := 7, thmLim := 7, alertLim := 7, capHeld := none, deferWin := (0, 0), capGate := 0, thmGate := 0, mean50 := 0, meanWin := 0, capAt := 0, thmAt := 0, alerts := [], holdAt := none, rampAt := none, droops := [], curGate := none, thr := [], thrAt := 0, sensors := [], stackTemps := [], maxJ := 0, maxS := 0, coolAt := none, thermN := false, opHeld := [], gaps := 0, tenE := [], qpE := [], nodeE := 0, packE := 0, recent := [], budgets := [], held := [] },
    takeovers := [],
    pwrfail := false,
    afterFatal := false,
    requal := [],
    sramCor := [],
    sramFixed := [],
    hsLost := [],
    boot := BootSt.empty,
    rcv := RecovSt.empty,
    parked := [],
    staging := { len := 8388608, bits := 0 },
    flashJob := none,
    chunkOps := [],
    i3c := { reg := 0, dyn := none, ibiAt := 0 },
    tap := { ir := 2, bsr := 0, drive := 0 },
    sched := { folds := [], waits := [] } }

def State.reset : State := { pending := [], node := Node.reset }

end Sys2Proof.Machine
end

