-- ==== Sys2Proof/Machine/Ops.lean ====
section
/-!
DEFINITION. Sys2Proof/Machine/Ops.lean: the named operations every meaning uses: sparse arrays, byte strings, bit
fields, free values, counters, and running an effect on the node.
-/
namespace Sys2Proof.Machine

/-! ### Sparse arrays: keys strictly rising, no entry equal to the default of its key -/

def sget {α : Type} (d : α) : Sparse α → Nat → α
  | [], _ => d
  | (a, v) :: m, k => if a = k then v else sget d m k

/-- Insert without regard to the default. -/
def sins {α : Type} : Sparse α → Nat → α → Sparse α
  | [], k, v => [(k, v)]
  | (a, w) :: m, k, v =>
    if k < a then (k, v) :: (a, w) :: m
    else if k = a then (k, v) :: m
    else (a, w) :: sins m k v

def sdel {α : Type} : Sparse α → Nat → Sparse α
  | [], _ => []
  | (a, w) :: m, k => if a = k then sdel m k else (a, w) :: sdel m k

/-- Store `v` at `k`; storing what an unlisted key reads as removes the entry. -/
def sset {α : Type} [DecidableEq α] (d : α) (m : Sparse α) (k : Nat) (v : α) : Sparse α :=
  if v = d then sdel m k else sins m k v

def sfind {α : Type} : Sparse α → Nat → Option α
  | [], _ => none
  | (a, v) :: m, k => if a = k then some v else sfind m k

/-! ### Lists -/

/-- Replace every element that meets `p`. -/
def lmodify {α : Type} (p : α → Bool) (f : α → α) (l : List α) : List α :=
  l.map (fun x => if p x then f x else x)

/-- Replace the first element that meets `p`. -/
def lmodifyFirst {α : Type} (p : α → Bool) (f : α → α) : List α → List α
  | [] => []
  | x :: l => if p x then f x :: l else x :: lmodifyFirst p f l

/-- Remove the first element that meets `p`. -/
def lremoveFirst {α : Type} (p : α → Bool) : List α → List α
  | [] => []
  | x :: l => if p x then l else x :: lremoveFirst p l

/-- Append keeping at most the newest `k` elements. -/
def lpushMax {α : Type} (k : Nat) (l : List α) (x : α) : List α :=
  let l' := l ++ [x]
  if l'.length ≤ k then l' else l'.drop (l'.length - k)

/-- Insert in order: before the first element that is strictly greater. -/
def linsert {α : Type} (lt : α → α → Bool) (x : α) : List α → List α
  | [] => [x]
  | y :: l => if lt x y then x :: y :: l else y :: linsert lt x l

/-- Sort, equal elements in their order of arrival. -/
def lsort {α : Type} (lt : α → α → Bool) (l : List α) : List α :=
  l.foldl (fun acc x => linsert lt x acc) []

/-- Insert a number into an ascending list once. -/
def ninsert (x : Nat) : List Nat → List Nat
  | [] => [x]
  | y :: l => if x < y then x :: y :: l else if x = y then y :: l else y :: ninsert x l

def nsum (l : List Nat) : Nat := l.foldl (· + ·) 0

def nmaxl (l : List Nat) : Nat := l.foldl Nat.max 0

/-- The least element of a list by `lt`, the first of equals. -/
def lleast {α : Type} (lt : α → α → Bool) : List α → Option α
  | [] => none
  | x :: l => some (l.foldl (fun b y => if lt y b then y else b) x)

/-- Cut a list into runs of `k` (at most `fuel` of them). -/
def lchunks {α : Type} (k : Nat) : Nat → List α → List (List α)
  | 0, _ => []
  | fuel + 1, l => if l.isEmpty then [] else l.take k :: lchunks k fuel (l.drop k)

/-! ### Bits and bytes -/

/-- Bits `hi .. lo` of a number. -/
def nbits (x hi lo : Nat) : Nat := (x >>> lo) % 2 ^ (hi + 1 - lo)

def nbit (x i : Nat) : Bool := x.testBit i

/-- Write bits `hi .. lo` of a number. -/
def nput (x hi lo v : Nat) : Nat :=
  let w := 2 ^ (hi + 1 - lo)
  (x >>> (hi + 1)) <<< (hi + 1) + (v % w) <<< lo + x % 2 ^ lo

/-- Write bits `hi .. lo` of a register. -/
def wput (x : Word) (hi lo v : Nat) : Word := BitVec.ofNat 32 (nput x.toNat hi lo v)

def wbits (x : Word) (hi lo : Nat) : Nat := nbits x.toNat hi lo

def b2n (b : Bool) : Nat := if b then 1 else 0

/-- A number held to 32 bits at its greatest value. -/
def sat32 (n : Nat) : Nat := Nat.min n 0xFFFFFFFF

def w32 (n : Nat) : Word := BitVec.ofNat 32 n

/-! ### Byte strings (R7) -/

def bempty : Blob := { len := 0, bits := 0 }

/-- Byte `i`; 0 beyond the end. -/
def bbyte (b : Blob) (i : Nat) : Nat := if i < b.len then (b.bits >>> (8 * i)) % 256 else 0

/-- The `n` bytes from `off`, little-endian; bytes beyond the end read 0. -/
def bnum (b : Blob) (off n : Nat) : Nat := (b.bits >>> (8 * off)) % 2 ^ (8 * Nat.min n (b.len - off))

/-- The 32-bit word at byte `off`. -/
def bword (b : Blob) (off : Nat) : Nat := bnum b off 4

/-- The byte string of `len` bytes from `off`. -/
def bslice (b : Blob) (off len : Nat) : Blob := { len := len, bits := bnum b off len }

/-- A number as `len` bytes. -/
def bofNat (len v : Nat) : Blob := { len := len, bits := v % 2 ^ (8 * len) }

def bappend (a b : Blob) : Blob :=
  { len := a.len + b.len, bits := a.bits % 2 ^ (8 * a.len) + (b.bits % 2 ^ (8 * b.len)) <<< (8 * a.len) }

def bconcat (l : List Blob) : Blob := l.foldl bappend bempty

def blist (b : Blob) : List (BitVec 8) := (List.range b.len).map (fun i => BitVec.ofNat 8 (bbyte b i))

def bofList (l : List Nat) : Blob := { len := l.length, bits := l.foldr (fun x acc => x % 256 + acc * 256) 0 }

/-- Overwrite the bytes from `off` (the string grows where `d` reaches beyond its end). -/
def bpatch (b : Blob) (off : Nat) (d : Blob) : Blob :=
  let len := Nat.max b.len (off + d.len)
  let low := bnum b 0 off
  let high := if off + d.len < b.len then bnum b (off + d.len) (b.len - (off + d.len)) else 0
  { len := len, bits := low + (d.bits % 2 ^ (8 * d.len)) <<< (8 * off) + high <<< (8 * (off + d.len)) }

/-! ### Running an effect -/

/-- A node stopped by a fatal event, or warned of a power failure, answers nothing until RESET_N (R356, R413). -/
def nodeStopped (n : Node) : Bool := n.topState = 4 || n.pwrfail || n.boot.inReset

/-- The outcome of a command whose effect on the node is `f`; a stopped node does nothing (R356). -/
def run (s : State) (f : Node → Node) : Host.Outcome State Fault Refusal :=
  .next { s with node := if nodeStopped s.node then s.node else f s.node }

/-- The outcome of a command that acts on a stopped node too. -/
def runAlways (s : State) (f : Node → Node) : Host.Outcome State Fault Refusal :=
  .next { s with node := f s.node }

/-! ### Free values (log 4) -/

/-- The next free value. -/
def fresh (n : Node) : Nat × Node := (Config.choose n.free, { n with free := n.free + 1 })

/-- One of `l` that the manual leaves open; nothing is left open where there is one only. -/
def pick {α : Type} (d : α) (l : List α) (n : Node) : α × Node :=
  match l with
  | [] => (d, n)
  | [x] => (x, n)
  | x :: y :: r => ((x :: y :: r).getD (Config.choose n.free % (r.length + 2)) x, { n with free := n.free + 1 })

/-! ### Output, time, counters -/

def emit (o : Out) (n : Node) : Node := { n with out := n.out ++ [o] }

/-- The interval timer stands at `t` or later (log 2). -/
def reach (t : Nat) (n : Node) : Node := if n.tick < t then { n with tick := t } else n

/-- An empty queue: one tick of the interval timer, 64 bits wide (R313; log 2). -/
def idleTick (n : Node) : Node := { n with tick := (n.tick + 1) % 2 ^ 64 }

/-- Raise the counter register at an address. -/
def bump (addr k : Nat) (n : Node) : Node := { n with cnts := sset 0 n.cnts addr (sget 0 n.cnts addr + k) }

/-- Raise a counter register to at least `k`. -/
def cntMax (addr k : Nat) (n : Node) : Node := { n with cnts := sset 0 n.cnts addr (Nat.max (sget 0 n.cnts addr) k) }

/-- Ticks of the interval timer (10 ns each, R6). -/
def ticksUs (us : Nat) : Nat := us * 100
def ticksMs (ms : Nat) : Nat := ms * 100000
def ticksS (s : Nat) : Nat := s * 100000000

end Sys2Proof.Machine
end

