-- ==== Sys2Proof/Machine/Float.lean ====
section
/-!
DEFINITION. Sys2Proof/Machine/Float.lean: FP32 and the narrower formats as exact dyadic numbers, rounded to nearest with
ties away from zero (R174, R176, R425). Sums of signed zeros follow the formats' own rule.
-/
namespace Sys2Proof.Machine

/-- The number (-1)^neg * man * 2^exp. -/
structure Dy where
  neg : Bool
  man : Nat
  exp : Int
  deriving DecidableEq, Repr

def dyZero : Dy := { neg := false, man := 0, exp := 0 }

/-- A binary format: mantissa field bits, exponent of the least subnormal, and the bits of the largest finite value. -/
structure Fmt where
  mb   : Nat
  emin : Int
  max  : Nat
  deriving DecidableEq, Repr

def fmtF32 : Fmt := { mb := 23, emin := -149, max := 0x7F7FFFFF }
def fmtF16 : Fmt := { mb := 10, emin := -24, max := 0x7BFF }
def fmtBF16 : Fmt := { mb := 7, emin := -133, max := 0x7F7F }
def fmtE4M3 : Fmt := { mb := 3, emin := -9, max := 0x7E }
def fmtE5M2 : Fmt := { mb := 2, emin := -16, max := 0x7B }

/-- The value of finite magnitude bits of a format. -/
def fmtDecode (f : Fmt) (neg : Bool) (mag : Nat) : Dy :=
  let e := mag / 2 ^ f.mb
  let m := mag % 2 ^ f.mb
  if e = 0 then { neg := neg, man := m, exp := f.emin }
  else { neg := neg, man := m + 2 ^ f.mb, exp := f.emin + (e : Int) - 1 }

/-- Magnitude bits of |x| in a format, rounded to nearest with ties away from zero, not bounded. -/
def fmtRound (f : Fmt) (x : Dy) : Nat :=
  if x.man = 0 then 0
  else
    let l : Int := (Nat.log2 x.man : Int) + 1
    let e := max (x.exp + l - ((f.mb : Int) + 1)) f.emin
    let q := if e ≤ x.exp then x.man <<< (x.exp - e).toNat
      else ((x.man >>> ((e - x.exp).toNat - 1)) + 1) >>> 1
    (e - f.emin).toNat * 2 ^ f.mb + q

/-- Magnitude bits and whether the rounded value exceeds the largest finite one, which then stands in its place. -/
def fmtSat (f : Fmt) (x : Dy) : Nat × Bool :=
  let r := fmtRound f x
  if f.max < r then (f.max, true) else (r, false)

def f32Neg (x : F32) : Bool := x.toNat.testBit 31
def f32Mag (x : F32) : Nat := x.toNat % 2 ^ 31

/-- Neither a NaN nor an infinity (R13). -/
def f32Finite (x : F32) : Bool := f32Mag x ≤ 0x7F7FFFFF

def f32Zero (x : F32) : Bool := f32Mag x = 0

def f32Dy (x : F32) : Dy := fmtDecode fmtF32 (f32Neg x) (f32Mag x)

/-- Round to FP32; the flag says that the largest finite value took the place of a greater one. -/
def f32RoundS (x : Dy) : F32 × Bool :=
  let r := fmtSat fmtF32 x
  (BitVec.ofNat 32 (r.1 + if x.neg then 2 ^ 31 else 0), r.2)

def f32Round (x : Dy) : F32 := (f32RoundS x).1

def dyInt (x : Dy) (e : Int) : Int :=
  let m : Int := (x.man <<< (x.exp - e).toNat : Nat)
  if x.neg then -m else m

/-- Exact sum. -/
def dyAdd (a b : Dy) : Dy :=
  let e := min a.exp b.exp
  let s := dyInt a e + dyInt b e
  if s = 0 then { neg := a.neg && b.neg, man := 0, exp := e }
  else { neg := decide (s < 0), man := s.natAbs, exp := e }

def dyNeg (a : Dy) : Dy := { a with neg := !a.neg }

def dyMul (a b : Dy) : Dy := { neg := a.neg != b.neg, man := a.man * b.man, exp := a.exp + b.exp }

/-- Quotient with 64 bits beyond the divisor, enough for one rounding with ties away from zero. -/
def dyDiv (a b : Dy) : Dy :=
  { neg := a.neg != b.neg, man := (a.man <<< 64) / b.man, exp := a.exp - b.exp - 64 }

/-- Integer square root, bit by bit from bit `k - 1`. -/
def isqrtFrom : Nat → Nat → Nat → Nat
  | 0, _, r => r
  | k + 1, x, r => let t := r + 2 ^ k; if t * t ≤ x then isqrtFrom k x t else isqrtFrom k x r

def isqrt (x : Nat) : Nat := isqrtFrom (Nat.log2 x / 2 + 1) x 0

/-- Square root of a number that is not negative, with 64 extra bits. -/
def dySqrt (a : Dy) : Dy :=
  let e2 := if a.exp % 2 = 0 then a.exp else a.exp - 1
  let m := (if a.exp % 2 = 0 then a.man else 2 * a.man) <<< 128
  { neg := a.neg, man := isqrt m, exp := e2 / 2 - 64 }

def f32Add (a b : F32) : F32 := f32Round (dyAdd (f32Dy a) (f32Dy b))
def f32Sub (a b : F32) : F32 := f32Round (dyAdd (f32Dy a) (dyNeg (f32Dy b)))
def f32Mul (a b : F32) : F32 := f32Round (dyMul (f32Dy a) (f32Dy b))
def f32Div (a b : F32) : F32 := f32Round (dyDiv (f32Dy a) (f32Dy b))
def f32Sqrt (a : F32) : F32 := f32Round (dySqrt (f32Dy a))
def f32Abs (a : F32) : F32 := BitVec.ofNat 32 (f32Mag a)
def f32Flip (a : F32) : F32 := a ^^^ 0x80000000#32
def f32OfNat (n : Nat) : F32 := f32Round { neg := false, man := n, exp := 0 }

/-- The order of finite FP32 values as integers; +0 and -0 are equal (R34). -/
def f32Key (x : F32) : Int := if f32Neg x then -(f32Mag x : Int) else (f32Mag x : Int)

def f32Lt (a b : F32) : Bool := decide (f32Key a < f32Key b)

/-- Nearest integer of an exact value, ties away from zero. -/
def dyRoundInt (x : Dy) : Int :=
  let m : Nat := if 0 ≤ x.exp then x.man <<< x.exp.toNat
    else ((x.man >>> ((-x.exp).toNat - 1)) + 1) >>> 1
  if x.neg then -(m : Int) else (m : Int)

/-- Element formats of VEC_FMT: 0 FP32, 1 FP16, 2 BF16, 3 INT8 (R14, R33). -/
def vecBytes (fmt : Nat) : Nat := if fmt = 0 then 4 else if fmt = 3 then 1 else 2

/-- FP32 value of element bits in a floating format, exactly; none for a NaN or an infinity. -/
def elemF32 (fmt bits : Nat) : Option F32 :=
  if fmt = 0 then
    let x : F32 := BitVec.ofNat 32 bits
    if f32Finite x then some x else none
  else
    let f := if fmt = 1 then fmtF16 else fmtBF16
    let mag := bits % 2 ^ 15
    if f.max < mag then none else some (f32Round (fmtDecode f (decide (2 ^ 15 ≤ bits % 2 ^ 16)) mag))

/-- An INT8 element times an FP32 scale, in FP32; the flag says that it exceeds the FP32 range (R34). -/
def int8Scaled (scale : F32) (b : Nat) : F32 × Bool :=
  let s := if b % 256 < 128 then b % 256 else 256 - b % 256
  f32RoundS (dyMul { neg := decide (128 ≤ b % 256), man := s, exp := 0 } (f32Dy scale))

/-- Largest magnitude of a vector. -/
def f32MaxAbs (v : List F32) : F32 := BitVec.ofNat 32 (nmaxl (v.map f32Mag))

/-- A vector has norm 0 exactly when every element is +0 or -0 (R425). -/
def normZero (v : List F32) : Bool := v.all f32Zero

/-- The sum in ascending index, one rounding per step. -/
def f32Sum (v : List F32) : F32 := v.foldl f32Add 0

/-- The normalisation of R425. -/
def normalise (x : List F32) : List F32 :=
  let m := f32Dy (f32MaxAbs x)
  let k : Int := m.exp + (Nat.log2 m.man : Int)
  let y := x.map (fun v => let d := f32Dy v; f32Round { d with exp := d.exp - k })
  let s := y.foldl (fun s v => f32Add s (f32Mul v v)) 0
  let r := f32Sqrt s
  y.map (fun v => f32Div v r)

/-- Σ (a_i - b_i)² in ascending index, FP32 at each step. -/
def sqDist : List F32 → List F32 → F32 → F32
  | a :: as, b :: bs, acc => let d := f32Sub a b; sqDist as bs (f32Add acc (f32Mul d d))
  | _, _, acc => acc

/-- Σ a_i b_i in ascending index, FP32 at each step. -/
def dotProd : List F32 → List F32 → F32 → F32
  | a :: as, b :: bs, acc => dotProd as bs (f32Add acc (f32Mul a b))
  | _, _, acc => acc

/-- Index of the first least element (R37). -/
def argminFrom : List F32 → Nat → Nat → F32 → Nat
  | [], _, best, _ => best
  | x :: l, i, best, bv => if f32Lt x bv then argminFrom l (i + 1) i x else argminFrom l (i + 1) best bv

def argmin : List F32 → Nat
  | [] => 0
  | x :: l => argminFrom l 1 0 x

/-! ### The functions of R177 in fixed point -/

/-- Bits after the binary point: enough that the exact result shows to far below an FP32 unit in the last place. -/
def fxBits : Nat := 1200

def fxOne : Nat := 2 ^ fxBits

/-- Magnitude of an FP32 value in fixed point, exactly. -/
def fxMag (x : F32) : Nat := (f32Dy x).man <<< ((f32Dy x).exp + (fxBits : Int)).toNat

/-- The sum of `k` further terms of the exponential series from term `i`, which is `t`. -/
def expSeries (y : Nat) : Nat → Nat → Nat → Nat
  | 0, _, _ => 0
  | k + 1, i, t => t + expSeries y k (i + 1) (((t * y) >>> fxBits) / (i + 1))

def fxSquares : Nat → Nat → Nat
  | 0, e => e
  | k + 1, e => fxSquares k ((e * e) >>> fxBits)

/-- e to the power of a magnitude; from 512 on every FP32 result is at its limit. -/
def fxExp (a : Nat) : Nat := fxSquares 10 (expSeries (Nat.min a (512 * fxOne) >>> 10) 200 0 fxOne)

/-- 1 / (1 + e^-u). -/
def fxSigmoid (neg : Bool) (u : Nat) : Nat :=
  let e := fxExp u
  (if neg then fxOne * fxOne else e * fxOne) / (fxOne + e)

/-- The exact result of a function to 1,200 bits: 0 exp, 1 GELU in its tanh form, 2 SiLU, 3 tanh, 4 sigmoid, 5 rsqrt (R177, R186). The
constants of the tanh form, the square root of 2/π and 0.044715, are the usual ones (PRESUMED, log 7). -/
def fnExact (c : Nat) (x : F32) : Dy :=
  let a := fxMag x
  let neg := f32Neg x
  let pt := fun (s : Bool) (v : Nat) => ({ neg := s, man := v, exp := -(fxBits : Int) } : Dy)
  match c with
  | 0 => pt false (if neg then fxOne * fxOne / fxExp a else fxExp a)
  | 1 =>
    let cube := (((a * a) >>> fxBits) * a) >>> fxBits
    let u := (a + cube * 44715 / 1000000) * 159576912160573071175978423973752747390 / 10 ^ 38
    pt neg ((a * fxSigmoid neg u) >>> fxBits)
  | 2 => pt neg ((a * fxSigmoid neg a) >>> fxBits)
  | 3 => let e := fxExp (2 * a); pt neg ((e - fxOne) * fxOne / (e + fxOne))
  | 4 => pt false (fxSigmoid neg a)
  | _ => pt false (if a = 0 then 2 ^ 2400 else isqrt (fxOne * fxOne * fxOne / a))

def f32OfKey (k : Int) : F32 := BitVec.ofNat 32 (k.natAbs + if k < 0 then 2 ^ 31 else 0)

/-- A finite FP32 value in units of the least subnormal. -/
def f32Units (x : F32) : Int := dyInt (f32Dy x) (-149)

/-- The finite FP32 values within 2 units in the last place of `x`. -/
def ulpNear (x : F32) : List F32 :=
  let u : Int := 2 ^ ((f32Dy x).exp + 149).toNat
  (((List.range 9).map (fun i => f32Key x + (i : Int) - 4)).filter (fun k => decide (k.natAbs ≤ 0x7F7FFFFF))).map f32OfKey
    |>.filter (fun y => decide ((f32Units y - f32Units x).natAbs ≤ (2 * u).natAbs))

/-- A non-rational function of R177: any value within 2 units in the last place of the exact result, the same on every array. -/
def tensorFn (c : Nat) (x : F32) : F32 :=
  let r := f32Round (fnExact c x)
  let l := ulpNear r
  l.getD (Config.ulpChoice c x % l.length) r

end Sys2Proof.Machine
end

