-- ==== Sys2Proof/Machine/Crc.lean ====
section
/-!
DEFINITION. Sys2Proof/Machine/Crc.lean: CRC-32C (R423) and the CRC-16 of R53.
-/
namespace Sys2Proof.Machine

/-- One bit of the reflected CRC-32C. -/
def crc32cBit (c : Nat) : Nat := if c % 2 = 1 then (c / 2) ^^^ 0x82F63B78 else c / 2

def crc32cByte (c b : Nat) : Nat :=
  crc32cBit (crc32cBit (crc32cBit (crc32cBit (crc32cBit (crc32cBit (crc32cBit (crc32cBit (c ^^^ b))))))))

def crc32cRun : Nat → Nat → Nat → Nat
  | 0, _, c => c
  | k + 1, bits, c => crc32cRun k (bits / 256) (crc32cByte c (bits % 256))

/-- CRC-32C of a byte string (R423). -/
def crc32c (b : Blob) : Nat := crc32cRun b.len b.bits 0xFFFFFFFF ^^^ 0xFFFFFFFF

/-- One bit of the CRC-16 with polynomial 0x1021, most significant bit first (R53). -/
def crc16Bit (c : Nat) : Nat := if c / 0x8000 % 2 = 1 then (c * 2 % 0x10000) ^^^ 0x1021 else c * 2 % 0x10000

def crc16Byte (c b : Nat) : Nat :=
  crc16Bit (crc16Bit (crc16Bit (crc16Bit (crc16Bit (crc16Bit (crc16Bit (crc16Bit (c ^^^ (b * 256)))))))))

def crc16Run : Nat → Nat → Nat → Nat
  | 0, _, c => c
  | k + 1, bits, c => crc16Run k (bits / 256) (crc16Byte c (bits % 256))

/-- CRC-16 of a byte string (R53). -/
def crc16 (b : Blob) : Nat := crc16Run b.len b.bits 0xFFFF

end Sys2Proof.Machine
end

