-- ==== Sys2Proof/Machine/RegMap.lean ====
section
/-!
DEFINITION. Sys2Proof/Machine/RegMap.lean: the page index (R379), every block's registers with their access, reset
value and writable bits (R9, R380, R93 and the other register tables), and the stored value of a register.
-/
namespace Sys2Proof.Machine

/-- Block types of the page index (R379). -/
inductive Blk where
  | top
  | pwr
  | thm
  | recb
  | sec
  | boot
  | cal
  | tmr
  | cmp
  | frt
  | sch
  | mmu
  | ftl
  | eth
  | rdma
  | svc
  | gwe
  | mce
  | tns
  | msc
  | dch
  | fch
  | pl
  | hs
  deriving DecidableEq, Repr

/-- How an access to a register behaves: read-write with its reset value and its writable bits; the low and the high
word of a 64-bit counter; a read-clear counter; read-only or write-only with a rule of its own. -/
inductive RegKind where
  | rw (reset mask : Nat)
  | lo64
  | hi64
  | rc
  | ro
  | act
  deriving DecidableEq, Repr

/-- First page, instances, TYPE code and summary bit of a block (R379). -/
def blkInfo : Blk → Nat × Nat × Nat × Nat
  | .top => (0x0, 1, 0x01, 0)
  | .pwr => (0x1, 1, 0x02, 1)
  | .thm => (0x2, 1, 0x03, 2)
  | .recb => (0x3, 1, 0x04, 3)
  | .sec => (0x4, 1, 0x05, 4)
  | .boot => (0x5, 1, 0x06, 5)
  | .cal => (0x6, 1, 0x07, 6)
  | .tmr => (0x7, 1, 0x08, 7)
  | .cmp => (0x10, 1, 0x10, 8)
  | .frt => (0x11, 1, 0x11, 9)
  | .sch => (0x12, 1, 0x12, 10)
  | .mmu => (0x13, 1, 0x13, 11)
  | .ftl => (0x14, 1, 0x14, 12)
  | .eth => (0x20, 4, 0x20, 13)
  | .rdma => (0x24, 1, 0x24, 14)
  | .svc => (0x40, 72, 0x40, 15)
  | .gwe => (0x100, 72, 0x41, 16)
  | .mce => (0x180, 18, 0x42, 17)
  | .tns => (0x200, 104, 0x43, 18)
  | .msc => (0x300, 8, 0x30, 19)
  | .dch => (0x310, 8, 0x31, 20)
  | .fch => (0x320, 32, 0x32, 21)
  | .pl => (0x400, 136, 0x50, 22)
  | .hs => (0x500, 64, 0x51, 23)

def allBlks : List Blk :=
  [.top, .pwr, .thm, .recb, .sec, .boot, .cal, .tmr, .cmp, .frt, .sch, .mmu, .ftl, .eth, .rdma, .svc, .gwe, .mce, .tns, .msc, .dch, .fch, .pl, .hs]

/-- The page of instance `i` of a block (R379). -/
def pageOf (b : Blk) (i : Nat) : Nat := (blkInfo b).1 + i

/-- The block and instance of a page (R379). -/
def blkOfPage (p : Nat) : Option (Blk × Nat) :=
  (allBlks.find? (fun b => decide ((blkInfo b).1 ≤ p) && decide (p < (blkInfo b).1 + (blkInfo b).2.1))).map
    (fun b => (b, p - (blkInfo b).1))

/-- The block's own registers, by offset. -/
def blkRegs : Blk → List (Nat × RegKind)
  | .top => [(0x100, .ro), (0x104, .ro), (0x108, .ro), (0x10C, .ro), (0x110, (.rw 0x16 0xFFFFFF)),
      (0x114, .act), (0x118, .ro), (0x11C, .rc), (0x120, .ro), (0x124, .ro),
      (0x128, .ro), (0x12C, .ro), (0x130, .ro), (0x134, .ro), (0x138, .ro)]
  | .pwr => [(0x100, (.rw 0x705 0x707)), (0x104, (.rw 0x578000A 0x7FF03FF)), (0x108, (.rw 0x1F4 0x7FF)), (0x10C, (.rw 0xFF0503E8 0xFFFFFFFF)), (0x110, (.rw 0x32 0x7F)),
      (0x114, .ro), (0x118, .ro), (0x11C, (.rw 0x0 0x7)), (0x120, .ro), (0x124, .ro),
      (0x128, .rc), (0x12C, .rc), (0x130, (.rw 0x0 0xFFF)), (0x134, .act), (0x138, (.rw 0x0 0xC0FFFFFF)),
      (0x13C, .ro), (0x140, .ro)]
  | .thm => [(0x100, (.rw 0x5F5F64 0xFFFFFF)), (0x104, .ro), (0x108, .ro), (0x10C, .ro), (0x110, .ro),
      (0x114, (.rw 0x0 0xFF)), (0x118, .ro), (0x11C, .rc)]
  | .recb => [(0x100, (.rw 0xF030C 0xFFFCF1F)), (0x104, (.rw 0x3C0018 0x7FF00FF)), (0x108, (.rw 0x0 0xFFFFFFFF)), (0x10C, .ro), (0x110, .rc),
      (0x114, .rc), (0x118, .rc), (0x11C, .ro), (0x120, .ro), (0x140, .ro),
      (0x144, .ro), (0x148, .ro), (0x14C, .ro), (0x150, .ro), (0x154, .ro),
      (0x158, .ro), (0x15C, .ro)]
  | .sec => [(0x100, .ro), (0x104, .ro), (0x108, .ro), (0x140, .ro), (0x144, .ro),
      (0x148, .ro), (0x14C, .ro), (0x150, .ro), (0x154, .ro), (0x158, .ro),
      (0x15C, .ro), (0x160, .ro), (0x164, .ro), (0x168, .ro), (0x16C, .ro),
      (0x170, .ro), (0x174, .ro), (0x178, .ro), (0x17C, .ro)]
  | .boot => [(0x100, .ro), (0x104, .ro), (0x108, .act), (0x140, .ro), (0x144, .ro),
      (0x148, .ro), (0x14C, .ro), (0x150, .ro), (0x154, .ro), (0x158, .ro),
      (0x15C, .ro), (0x160, .ro), (0x164, .ro), (0x168, .ro), (0x16C, .ro),
      (0x170, .ro), (0x174, .ro), (0x178, .ro), (0x17C, .ro)]
  | .cal => [(0x100, .ro), (0x140, .ro), (0x144, .ro), (0x148, .ro), (0x14C, .ro),
      (0x150, .ro), (0x154, .ro), (0x158, .ro), (0x15C, .ro), (0x160, .ro),
      (0x164, .ro), (0x168, .ro), (0x16C, .ro), (0x170, .ro), (0x174, .ro),
      (0x178, .ro), (0x17C, .ro)]
  | .tmr => [(0x100, .ro), (0x104, .ro), (0x108, .ro)]
  | .cmp => [(0x100, .ro), (0x104, .ro), (0x108, .rc), (0x10C, .rc)]
  | .frt => [(0x100, .ro), (0x104, .ro), (0x108, .ro), (0x10C, (.rw 0x32020064 0xFFFFFFFF)), (0x110, .ro),
      (0x114, .rc), (0x118, .rc), (0x11C, .rc), (0x120, .rc), (0x124, .rc),
      (0x128, .rc), (0x12C, .ro)]
  | .sch => [(0x100, .ro), (0x104, .ro), (0x108, .ro), (0x10C, .ro)]
  | .mmu => [(0x100, (.rw 0xC0000010 0xC00000FF)), (0x104, (.rw 0x61000064 0x7700FFFF)), (0x108, (.rw 0x100003C 0xFFFFFFFF)), (0x10C, (.rw 0x0 0xFFF)), (0x110, .act),
      (0x114, .act), (0x118, .act), (0x11C, .act), (0x120, .ro), (0x124, .ro),
      (0x128, .ro), (0x12C, .ro), (0x130, .ro), (0x134, .ro), (0x138, .ro),
      (0x13C, .rc), (0x140, .rc), (0x144, .rc), (0x148, .rc), (0x14C, .rc),
      (0x150, .rc), (0x154, .rc), (0x158, .rc), (0x15C, .rc), (0x160, .ro),
      (0x164, (.rw 0x0 0x3F)), (0x168, .ro), (0x16C, .ro)]
  | .ftl => [(0x100, .ro), (0x104, (.rw 0x10003205 0xFF80FFFF)), (0x108, (.rw 0x643C1E 0xFFFFFFFF)), (0x10C, (.rw 0x3C4005 0xFFFFFFFF)), (0x110, (.rw 0x1403E8 0xFFFFFF)),
      (0x114, .act), (0x118, .lo64), (0x11C, .hi64), (0x120, .rc), (0x124, .lo64),
      (0x128, .hi64), (0x12C, .lo64), (0x130, .hi64), (0x134, .rc), (0x138, .rc),
      (0x13C, .ro), (0x140, .rc), (0x144, .rc), (0x148, .ro)]
  | .eth => [(0x100, (.rw 0x8000000 0xF8000000)), (0x104, .ro), (0x108, (.rw 0xB0002018 0xF000FFFF)), (0x10C, (.rw 0x30000032 0x3F00FFFF)), (0x110, .lo64),
      (0x114, .hi64), (0x118, .lo64), (0x11C, .hi64), (0x120, .rc), (0x124, .rc),
      (0x128, .rc), (0x12C, .rc), (0x130, .rc), (0x134, .rc), (0x138, .rc),
      (0x13C, .rc), (0x140, .rc)]
  | .rdma => [(0x100, (.rw 0x64000A 0xFFFFFFFF)), (0x104, .ro), (0x108, (.rw 0x0 0xFFF)), (0x10C, .ro), (0x110, .ro),
      (0x114, .rc), (0x118, (.rw 0x0 0xFFFFFF)), (0x11C, .ro), (0x120, .ro), (0x124, .ro),
      (0x128, (.rw 0x0 0xFFFFFFFF)), (0x12C, .rc), (0x130, .rc), (0x134, .rc), (0x138, .rc),
      (0x13C, .rc), (0x140, .rc)]
  | .svc => [(0x100, .ro), (0x104, (.rw 0x0 0x80000000)), (0x108, .ro)]
  | .gwe => [(0x100, .ro), (0x104, (.rw 0x401000 0x80FFFF00)), (0x108, .ro), (0x10C, .ro), (0x110, .ro),
      (0x114, .ro), (0x118, .ro), (0x11C, .ro), (0x120, .lo64), (0x124, .hi64),
      (0x128, .lo64), (0x12C, .hi64), (0x130, .lo64), (0x134, .hi64), (0x138, .rc),
      (0x13C, .rc), (0x140, .rc), (0x144, .rc), (0x148, .rc), (0x14C, .rc)]
  | .mce => [(0x100, .ro), (0x104, (.rw 0x5 0x8000007F)), (0x108, .ro), (0x110, .lo64), (0x114, .hi64),
      (0x118, .lo64), (0x11C, .hi64), (0x120, .lo64), (0x124, .hi64), (0x128, .rc),
      (0x12C, .rc), (0x130, .rc), (0x134, .rc), (0x138, .rc), (0x13C, .rc),
      (0x140, .rc), (0x144, .rc), (0x148, .rc)]
  | .tns => [(0x100, .ro), (0x104, (.rw 0x3 0x80000003)), (0x108, .ro), (0x10C, .ro), (0x110, .lo64),
      (0x114, .hi64), (0x118, .lo64), (0x11C, .hi64), (0x120, .rc), (0x124, .rc),
      (0x128, .rc), (0x12C, .rc), (0x130, .rc), (0x134, .rc)]
  | .msc => [(0x100, .ro), (0x104, .ro), (0x108, .act), (0x10C, (.rw 0xFCFE 0xFFFF)), (0x110, (.rw 0x0 0x7)),
      (0x114, (.rw 0xC8000A 0xFFFF003F)), (0x118, (.rw 0x3E8 0xFFFF)), (0x11C, (.rw 0x32 0x7F)), (0x120, (.rw 0x4 0xF)), (0x124, .ro),
      (0x128, (.rw 0x0 0x3FF)), (0x12C, .ro), (0x130, .lo64), (0x134, .hi64), (0x138, .lo64),
      (0x13C, .hi64), (0x140, .rc), (0x144, .rc), (0x148, .rc), (0x14C, .rc),
      (0x150, .rc), (0x154, .rc), (0x158, .rc)]
  | .dch => [(0x100, .ro), (0x104, .ro), (0x108, (.rw 0x1900 0xFFFF)), (0x10C, .ro), (0x110, .rc),
      (0x114, .rc)]
  | .fch => [(0x100, .ro), (0x104, (.rw 0xE10 0xFF00FFFF)), (0x108, .ro), (0x10C, .lo64), (0x110, .hi64),
      (0x114, .rc), (0x118, .rc), (0x11C, .rc), (0x120, .rc), (0x124, .rc)]
  | .pl => [(0x100, .ro), (0x104, (.rw 0x64 0x8000FFFF)), (0x108, .ro), (0x10C, .ro), (0x110, .lo64),
      (0x114, .hi64), (0x118, .rc), (0x11C, .rc), (0x120, .rc), (0x124, .rc),
      (0x128, .rc)]
  | .hs => [(0x100, .ro), (0x104, .lo64), (0x108, .hi64), (0x10C, .rc), (0x110, .rc)]

/-- Low bits of a register that show what the node measures and the model does not: they are left free (log 33). 64: a whole pair. -/
def freeBits (b : Blk) (off : Nat) : Nat :=
  match b with
  | .cmp => if off = 0x100 ∨ off = 0x104 then 16 else 0
  | .svc => if off = 0x108 then 7 else 0
  | .hs => if off = 0x100 then 24 else if off = 0x104 then 64 else if off = 0x10C ∨ off = 0x110 then 32 else 0
  | .dch => if off = 0x10C then 16 else 0
  | .eth => if off = 0x110 ∨ off = 0x118 then 64 else if off = 0x120 ∨ off = 0x124 then 32 else 0
  | .pl => if off = 0x110 then 64 else if off = 0x118 ∨ off = 0x11C then 32 else 0
  | _ => 0

/-- The kind of a register of a page; none for an unlisted offset or page (R376). Offsets below 0x100 are the common
header of R380. -/
def regKind (addr : Nat) : Option RegKind :=
  match blkOfPage (addr / 0x1000) with
  | none => none
  | some (b, _) =>
    let off := addr % 0x1000
    if off < 0x100 then
      if off = 0x14 then some (.rw 0 7)
      else if off = 0x30 then some (.rw 0 0xFFFF)
      else if off = 0x28 then some .rc
      else if off = 0x08 ∨ off = 0x10 ∨ off = 0x18 ∨ off = 0x2C ∨ off = 0x38 then some .act
      else some .ro
    else sfind (blkRegs b) off

/-- The register address of an offset of a block's page. -/
def regAddr (b : Blk) (i off : Nat) : Nat := pageOf b i * 0x1000 + off

/-- The reset value of a stored register. -/
def regReset (addr : Nat) : Nat :=
  match regKind addr with
  | some (.rw r _) => r
  | _ => 0

/-- The stored value of a read-write register (R9). -/
def regStored (n : Node) (addr : Nat) : Word := sget (w32 (regReset addr)) n.regs addr

/-- Bits `hi .. lo` of a stored register. -/
def rfield (n : Node) (b : Blk) (i off hi lo : Nat) : Nat := wbits (regStored n (regAddr b i off)) hi lo

/-- Store a register value as it stands. -/
def regPut (addr : Nat) (v : Word) (n : Node) : Node :=
  { n with regs := sset (w32 (regReset addr)) n.regs addr v }

end Sys2Proof.Machine
end

