-- ==== Sys2Proof/Machine/Recorder.lean ====
section
/-!
DEFINITION. Sys2Proof/Machine/Recorder.lean: error reports, the event recorder rings, the node journal, the MRAM
staging buffer and the in-band interrupt (R349-R356, R380-R384, R426).
-/
namespace Sys2Proof.Machine

def pageGet (n : Node) (p : Nat) : PageSt := sget PageSt.empty n.pages p

def pageSet (p : Nat) (v : PageSt) (n : Node) : Node := { n with pages := sset PageSt.empty n.pages p v }

/-- SEVERITY of a cause code (R426): 0 INFO, 1 CORRECTED, 2 DEGRADED, 3 FATAL. -/
def severityOf (b : Blk) (code : Nat) : Nat :=
  match b with
  | .msc => if code = 0x07 ∨ code = 0x08 then 0 else 2
  | .mce => if code = 0x05 then 0 else 2
  | .tns => if code = 0x03 then 0 else 2
  | .mmu => if code = 0x04 then 0 else if code = 0x02 then 1 else 2
  | .ftl | .fch => if code = 0x06 ∨ code = 0x0A then 0 else 2
  | .frt => if code = 0x01 ∨ code = 0x02 then 0 else 2
  | .pl => if code = 0x02 then 1 else 2
  | .rdma => 0
  | .pwr | .thm => if code = 0x04 ∨ code = 0x05 ∨ code = 0x06 then 3 else 2
  | .recb => if code = 0x07 then 0 else if code = 0x03 then 1 else if code = 0x06 then 3 else 2
  | .sec =>
    if code = 0x01 ∨ code = 0x08 ∨ code = 0x09 ∨ code = 0x0A ∨ code = 0x0B then 0
    else if code = 0x06 then 3 else 2
  | .dch => if code = 0x01 then 3 else 2
  | _ => 2

/-- The MRAM channel of a record beside its ring (R354): 0 POWER, 1 SECURITY, 2 FATAL. SECURITY holds every SEC
record (R374). -/
def mramChannels (b : Blk) (code sev : Nat) : List Nat :=
  (if sev = 3 then [2] else []) ++
  (match b with
    | .sec => [1]
    | .pwr => if code = 0x01 ∨ code = 0x02 ∨ code = 0x03 then [0] else []
    | _ => [])

/-- The 32 bytes of a record, REC_CRC last computed (R349). -/
def evBytes (r : EvRec) : Blob :=
  let b := bconcat [bofNat 8 r.tick,
    bofNat 4 (r.code % 256 * 2 ^ 24 + r.sev % 4 * 2 ^ 22 + r.page % 4096 * 2 ^ 8),
    bofNat 4 r.lo.toNat, bofNat 4 r.hi.toNat, bofNat 4 r.lastDelta, bofNat 4 r.rep, bofNat 2 r.seq]
  bappend b (bofNat 2 (crc16 b))

/-- A repeat merged into a record (R350). -/
def evRepeat (tick : Nat) (r : EvRec) : EvRec :=
  { r with rep := sat32 (r.rep + 1), lastDelta := sat32 (tick - r.tick) }

/-- Whether a report repeats a record (R350). -/
def evSame (r : EvRec) (code : Nat) (lo hi : Word) : Bool := r.code = code && r.lo = lo && r.hi = hi

/-- The journal holds 1,048,576 copies, the oldest overwritten (R353), numbered by a 32-bit sequence (R395). -/
def jnlAdd (e : EvRec) (n : Node) : Node :=
  { n with jnl := lpushMax 1048576 n.jnl { jseq := n.jnext, ev := e }, jnext := (n.jnext + 1) % 2 ^ 32 }

/-- The copy of a record that is the newest of its ring follows it (R353). -/
def jnlUpdate (e : EvRec) (n : Node) : Node :=
  { n with
    jnl := lmodify (fun c => c.ev.page = e.page && c.ev.seq = e.seq && c.ev.tick = e.tick)
      (fun c => { c with ev := e }) n.jnl }

/-- Bytes that staged records take (R355). -/
def stageBytes (l : List (Nat × EvRec)) : Nat := 32 * l.length

/-- A record bound for MRAM enters the 8 KiB staging buffer, or waits in its ring while the buffer is full (R355). -/
def stage (ch : Nat) (e : EvRec) (n : Node) : Node :=
  if n.mram.waiting.isEmpty ∧ stageBytes n.mram.staged + 32 ≤ 8192 then
    { n with mram := { n.mram with staged := n.mram.staged ++ [(ch, e)] } }
  else { n with mram := { n.mram with waiting := n.mram.waiting ++ [(ch, e)] } }

/-- A record enters its block's ring, or the holding buffer of 32 while the ring is frozen (R350, R352). -/
def ringAdd (p : Nat) (e : EvRec) (n : Node) : Node :=
  let g := pageGet n p
  let e' := { e with seq := g.nextSeq }
  let next := (g.nextSeq + 1) % 65536
  if g.frozen then
    match g.held.getLast? with
    | some h =>
      if evSame h e.code e.lo e.hi then
        let h' := evRepeat n.tick h
        jnlUpdate h' (pageSet p { g with held := g.held.dropLast ++ [h'] } n)
      else if g.held.length < 32 then jnlAdd e' (pageSet p { g with held := g.held ++ [e'], nextSeq := next } n)
      else pageSet p { g with lost := g.lost + 1 } n
    | none => jnlAdd e' (pageSet p { g with held := [e'], nextSeq := next } n)
  else
    let put := jnlAdd e' (pageSet p { g with
      ring := lpushMax 128 g.ring e', nextSeq := next, newest := g.nextSeq, intStat := g.intStat ||| 2 } n)
    match g.ring.getLast? with
    | some h =>
      if evSame h e.code e.lo e.hi then
        let h' := evRepeat n.tick h
        jnlUpdate h' (pageSet p { g with ring := g.ring.dropLast ++ [h'] } n)
      else put
    | none => put

/-- A page has an enabled interrupt cause (INT_PENDING of R380). -/
def pagePending (n : Node) (p : Nat) : Bool :=
  ((pageGet n p).intStat &&& regStored n (p * 0x1000 + 0x14)) ≠ 0

/-- The pages with an interrupt pending, lowest first. -/
def pendingPages (n : Node) : List Nat := (n.pages.map (·.1)).filter (pagePending n)

/-- The summary bit of a page (R379). -/
def sumBitOf (p : Nat) : Nat := match blkOfPage p with | some (b, _) => (blkInfo b).2.2.2 | none => 31

/-- TOP_INT_SUM (R394). -/
def intSum (n : Node) : Nat := (pendingPages n).foldl (fun a p => a ||| 2 ^ sumBitOf p) 0

/-- TOP_INT_SUM & TOP_IBI_EN is not 0 (R384). -/
def ibiCond (n : Node) : Bool := (intSum n &&& (regStored n 0x110).toNat) ≠ 0

/-- TYPE of the lowest-numbered pending page (R384). -/
def ibiByte (n : Node) : Nat :=
  match pendingPages n with
  | p :: _ => (match blkOfPage p with | some (b, _) => (blkInfo b).2.2.1 | none => 0)
  | [] => 0

/-- An effect on interrupt causes or enables; the in-band interrupt is raised when its condition rises (R384). -/
def withIbi (f : Node → Node) (n : Node) : Node :=
  let n' := f n
  if ibiCond n' && !ibiCond n then emit (.ibi (ibiByte n')) { n' with i3c := { n'.i3c with ibiAt := n'.tick } } else n'

/-- The capture, the count and the interrupt cause of a report (R381). -/
def captureReport (p code : Nat) (lo hi : Word) (n : Node) : Node :=
  let g := pageGet n p
  let g1 := if g.cause = 0 then { g with cause := code, lo := lo, hi := hi } else g
  let c := p * 0x1000 + 0x28
  { pageSet p { g1 with intStat := g1.intStat ||| 1 } n with
    cnts := sset 0 n.cnts c (sat32 (sget 0 n.cnts c + 1)) }

/-- A block reports a cause (R349, R350, R354, R381, R426). -/
def reportSev (b : Blk) (i code sev : Nat) (lo hi : Word) (n : Node) : Node :=
  withIbi (fun n =>
    let p := pageOf b i
    let e : EvRec := { tick := n.tick, code := code, sev := sev, page := p, lo := lo, hi := hi, lastDelta := 0, rep := 0, seq := 0 }
    let n1 := captureReport p code lo hi n
    let n2 := if sev < (pageGet n p).minSev then n1 else ringAdd p e n1
    (mramChannels b code sev).foldl (fun m ch => stage ch { e with seq := (pageGet n p).nextSeq } m) n2) n

def report (b : Blk) (i code : Nat) (lo hi : Nat) (n : Node) : Node :=
  reportSev b i code (severityOf b code) (w32 lo) (w32 hi) n

/-- The 8 newest records of every block ring follow the records of a fatal event (R354). -/
def stageRings (n : Node) : Node :=
  n.pages.foldl (fun n (_, g) => (g.ring.drop (g.ring.length - 8)).foldl (fun n e => stage 2 e n) n) n

/-- BLK_ERR_CLR (R380). -/
def errClear (p : Nat) (n : Node) : Node := pageSet p { pageGet n p with cause := 0, lo := 0, hi := 0 } n

/-- A W1C write of BLK_INT_STAT (R9). -/
def intClear (p : Nat) (v : Word) (n : Node) : Node :=
  let g := pageGet n p
  pageSet p { g with intStat := g.intStat &&& ~~~ v } n

/-- BLK_INT_SET (R380). -/
def intSet (p : Nat) (v : Word) (n : Node) : Node :=
  withIbi (fun n => let g := pageGet n p; pageSet p { g with intStat := g.intStat ||| (v &&& 7) } n) n

/-- CLEAR of REC_CTRL: at once, or when the freeze ends (R351, R352). -/
def recClear (p : Nat) (n : Node) : Node :=
  let g := pageGet n p
  if g.frozen then pageSet p { g with clearReq := true } n else pageSet p { g with ring := [], dropped := 0 } n

/-- FREEZE written with 1 (R352). -/
def recFreeze (p : Nat) (n : Node) : Node :=
  let g := pageGet n p
  if g.frozen then n else pageSet p { g with frozen := true, frozeAt := n.tick } n

/-- The end of a freeze: the pending CLEAR, the held records in order, the lost reports (R352). -/
def recUnfreeze (p : Nat) (n : Node) : Node :=
  let g := pageGet n p
  if g.frozen then
    let ring0 := if g.clearReq then [] else g.ring
    let drop0 := if g.clearReq then 0 else g.dropped
    let drop1 := Nat.min 255 (drop0 + g.lost)
    let ring1 := g.held.foldl (fun r e => lpushMax 128 r e) ring0
    let i1 := if g.held.isEmpty then g.intStat else g.intStat ||| 2
    let i2 := if drop1 ≤ drop0 then i1 else i1 ||| 4
    withIbi (pageSet p { g with
      frozen := false, clearReq := false, ring := ring1, held := [], lost := 0,
      dropped := drop1, newest := (match g.held.getLast? with | some e => e.seq | none => g.newest),
      intStat := i2 }) n
  else n

/-- The offset of the first 64-bit counter of a block's own map (R382). -/
def firstCounter (b : Blk) : Option Nat :=
  ((blkRegs b).find? (fun r => r.2 = .lo64)).map (·.1)

/-- Issue can be gated in the block: a compute unit's page. -/
def isUnitBlk : Blk → Bool
  | .gwe => true
  | .mce => true
  | .tns => true
  | .svc => true
  | _ => false

/-- A counter snapshot, ten words from 0x080 (R382). Busy time, gated time and energy are measured, and so are some first counters
(log 33): free values. -/
def snapPage (n0 : Node) (p : Nat) (n : Node) : Node :=
  let (busy, n) := fresh n
  let (gated, n) := fresh n
  let (energy, n) := fresh n
  let (x, n) := fresh n
  let unit : Bool := match blkOfPage p with | some (b, _) => isUnitBlk b | none => false
  let ops := match blkOfPage p with
    | some (b, _) => (match firstCounter b with
      | some o => if freeBits b o = 0 then sget 0 n0.cnts (p * 0x1000 + o) else x
      | none => 0)
    | none => 0
  pageSet p { pageGet n p with
    snap := [n0.tick, busy, if unit then gated else 0, energy, ops].flatMap (fun v => [w32 v, w32 (v / 2 ^ 32)]) } n

/-- Every page of the node (R379). -/
def allPages : List Nat := allBlks.flatMap (fun b => (List.range (blkInfo b).2.1).map (pageOf b))

/-- BLK_CTRL.SNAP; TOP's snaps every page in the same access (R382). -/
def snap (p : Nat) (n : Node) : Node :=
  if p = 0 then allPages.foldl (fun m q => snapPage n q m) n else snapPage n p n

end Sys2Proof.Machine
end

