-- ==== Sys2Proof/Machine/Index.lean ====
section
/-!
DEFINITION. Sys2Proof/Machine/Index.lean: index generations and the stored formats of a shard (R31-R63): codes and
codebooks, key routing, blocks, delta rows, full vectors, and the checks of a mutation record's vector.
-/
namespace Sys2Proof.Machine

/-! ### The index generation descriptor (R57) -/

def gDim (g : IdxGen) : Nat := bnum g.desc 0x0A 2
def gM (g : IdxGen) : Nat := bnum g.desc 0x09 1
def gDegree (g : IdxGen) : Nat := bnum g.desc 0x08 1
def gMetric (g : IdxGen) : Nat := bnum g.desc 0x05 1
def gFullFmt (g : IdxGen) : Nat := bnum g.desc 0x04 1
def gShards (g : IdxGen) : Nat := bnum g.desc 0x0E 2
def gReplicas (g : IdxGen) : Nat := bnum g.desc 0x0D 1
def gFieldTypes (g : IdxGen) : Nat := bnum g.desc 0x0C 1 % 16
def gDefEf (g : IdxGen) : Nat := bnum g.desc 0x12 2
def gDefDeadline (g : IdxGen) : Nat := bnum g.desc 0x10 2
def gDeltaCap (g : IdxGen) : Nat := bword g.desc 0x14
def gCapacity (g : IdxGen) : Nat := bword g.desc 0x18 % 2 ^ 14 * 1048576
def gColdOk (g : IdxGen) : Bool := nbit (bword g.desc 0x24) 0
def gFullInDimm (g : IdxGen) : Bool := nbit (bword g.desc 0x24) 1

/-- Subspace width w = ceil(D / M) (R35). -/
def gWidth (g : IdxGen) : Nat := (gDim g + gM g - 1) / gM g

def genFind (n : Node) (h g : Nat) : Option IdxGen := n.gens.find? (fun x => x.handle = h && x.gen = g)

def shardFind (n : Node) (k : ShardKey) : Option Shard := n.shards.find? (fun s => s.key = k)

/-- Change the shard of a key. -/
def shardMod (k : ShardKey) (f : Shard → Shard) (n : Node) : Node :=
  { n with shards := lmodify (fun s => s.key = k) f n.shards }

/-! ### Keys (R41) -/

def mix64 (x : Nat) : Nat :=
  let x := x ^^^ (x >>> 30)
  let x := x * 0xBF58476D1CE4E5B9 % 2 ^ 64
  let x := x ^^^ (x >>> 27)
  let x := x * 0x94D049BB133111EB % 2 ^ 64
  x ^^^ (x >>> 31)

def shardOf (key count : Nat) : Nat := (mix64 key * count) >>> 64

/-! ### Product codes (R35-R38) -/

/-- Code of subspace s in a packed code. -/
def codeAt (code s : Nat) : Nat := nbits code (4 * s + 3) (4 * s)

/-- Subspace 2i in bits [3:0] of byte i, 2i + 1 in bits [7:4] (R38). -/
def packCode : List Nat → Nat
  | [] => 0
  | c :: l => c % 16 + 16 * packCode l

/-- Centroid c of subspace s (R36). -/
def centroid (book : Blob) (w s c : Nat) : List F32 :=
  (List.range w).map (fun j => BitVec.ofNat 32 (bword book ((s * 16 + c) * w * 4 + 4 * j)))

/-- The subspace part of a vector; padding positions count as 0.0 (R35). -/
def subPart (v : List F32) (w s : Nat) : List F32 :=
  (List.range w).map (fun j => v.getD (s * w + j) 0)

/-- The product code of a vector over the codebook: per subspace the nearest centroid, the lowest index among equals
(R37). -/
def encodePQVec (book : Blob) (m w : Nat) (v : List F32) : Nat :=
  packCode ((List.range m).map (fun s =>
    argmin ((List.range 16).map (fun c => sqDist (subPart v w s) (centroid book w s c) 0))))

/-- A padding position or a whole empty subspace (R35): position p of the codebook's subspace s. -/
def isPad (d w s p : Nat) : Bool := d ≤ s * w + p

/-- The first 4-byte value of a codebook that R36 refuses, as its offset. -/
def bookBad (book : Blob) (d m w : Nat) : Option Nat :=
  ((List.range (m * 16 * w)).find? (fun i =>
    let x : F32 := BitVec.ofNat 32 (bword book (4 * i))
    !f32Finite x || (isPad d w (i / (16 * w)) (i % w) && !f32Zero x))).map (4 * ·)

/-! ### Id map, attributes, key index, blocks (R42-R49) -/

def lidNone : Nat := 0x3FFFFFFFF

def idmapKey (e : Nat) : Nat := e % 2 ^ 64
def idmapDel (e : Nat) : Nat := nbits e 127 64
def idmapMk (key del : Nat) : Nat := key % 2 ^ 64 + (del % 2 ^ 64) * 2 ^ 64

/-- A level-0 or upper-level block (R44). -/
def blkMsn (b : Nat) : Nat := b % 2 ^ 64
def blkUsed (b : Nat) : Nat := nbits b 105 100
def blkTop (b : Nat) : Nat := nbits b 108 106
def blkLinked (b : Nat) : Bool := nbit b 109
def blkRepair (b : Nat) : Bool := nbit b 110
def blkUpper (b : Nat) : Nat := nbits b 99 64
def blkOwner (b : Nat) : Nat := nbits b 97 64
def blkSlot (b j : Nat) : Nat := nbits b (128 + 40 * j + 33) (128 + 40 * j)

/-- The 48 neighbour slots: `ns`, then none (R45). -/
def slotBits (ns : List Nat) : Nat :=
  (List.range 48).foldl (fun acc j => acc + (ns.getD j lidNone % 2 ^ 34) <<< (40 * j)) 0

def blk0Mk (msn : Nat) (repair linked : Bool) (top upper : Nat) (ns : List Nat) : Nat :=
  msn % 2 ^ 64 + (upper % 2 ^ 36) <<< 64 + ns.length <<< 100 + top <<< 106 + b2n linked <<< 109 + b2n repair <<< 110
    + slotBits ns <<< 128

def blkUpMk (msn level owner : Nat) (ns : List Nat) : Nat :=
  msn % 2 ^ 64 + (owner % 2 ^ 34) <<< 64 + ns.length <<< 100 + level <<< 106 + slotBits ns <<< 128

/-- The used slots of a block, in order. -/
def blkNbrs (b : Nat) : List Nat := (List.range (Nat.min (blkUsed b) 48)).map (blkSlot b)

/-- A block never written holds no neighbour. -/
def adjGet (s : Shard) (lid : Nat) : Nat := sget 0 s.adj lid
def upperGet (s : Shard) (b : Nat) : Nat := sget 0 s.upper b

/-- KEYIDX_LOG2 (R43). -/
def keyLog2From : Nat → Nat → Nat → Nat
  | 0, _, l => l
  | k + 1, need, l => if need ≤ 2 ^ l then l else keyLog2From k need (l + 1)

def keyLog2 (cap : Nat) : Nat := keyLog2From 64 ((cap + 2) / 3) 10

def slotUsed (e : Nat) : Bool := nbit e 98
def slotLid (e : Nat) : Nat := nbits e 97 64
def slotKey (e : Nat) : Nat := e % 2 ^ 64
def slotMk (key lid : Nat) : Nat := key % 2 ^ 64 + (lid % 2 ^ 34) <<< 64 + 2 ^ 98

/-- The slot that holds a key (at most one, R43). -/
def keyFind (s : Shard) (key : Nat) : Option (Nat × Nat) :=
  s.keyidx.find? (fun e => slotUsed e.2 && slotKey e.2 = key)

/-- The slot that a new key takes: from the home bucket on, wrapping at the end (R43), the lowest slot without USED, one that a
delete has freed included. Which free slot of a bucket is taken is the model's choice (DESIGN CHOICE, log 153). -/
def keyFreeFrom (s : Shard) (total : Nat) : Nat → Nat → Nat
  | 0, i => i % total
  | k + 1, i => if slotUsed (sget 0 s.keyidx (i % total)) then keyFreeFrom s total k (i + 1) else i % total

/-- Point a key's slot at a local id. -/
def keyPut (log2 key lid : Nat) (s : Shard) : Shard :=
  match keyFind s key with
  | some (i, _) => { s with keyidx := sset 0 s.keyidx i (slotMk key lid) }
  | none =>
    let i := keyFreeFrom s (4 * 2 ^ log2) s.keyidx.length (4 * (mix64 key % 2 ^ log2))
    { s with keyidx := sset 0 s.keyidx i (slotMk key lid) }

/-- Clear USED of a key's slot (R154). -/
def keyClear (key : Nat) (s : Shard) : Shard :=
  match keyFind s key with
  | some (i, e) => { s with keyidx := sset 0 s.keyidx i (e - 2 ^ 98) }
  | none => s

/-! ### Delta rows (R51-R53) -/

def rowBase (r : Nat) : Nat := r % 2 ^ 64
def rowKind (r : Nat) : Nat := nbits r 91 88
def rowCount (r : Nat) : Nat := nbits r 87 80
def rowShard (r : Nat) : Nat := nbits r 79 64
def rowEB (r : Nat) : Nat := nbits r 111 104
def rowCB (r : Nat) : Nat := nbits r 103 96
def rowCrc (r : Nat) : Nat := nbits r 8191 8176

def rowEntry (r eb e : Nat) : Nat := nbits r (128 + 8 * eb * (e + 1) - 1) (128 + 8 * eb * e)
def entCode (cb ent : Nat) : Nat := ent % 2 ^ (8 * cb)
def entTail (cb ent : Nat) : Nat := ent >>> (8 * cb)
def tailFolded (t : Nat) : Bool := nbit t 58
def tailLid (t : Nat) : Nat := nbits t 57 24
def tailOff (t : Nat) : Nat := t % 2 ^ 24
def tailMk (folded : Bool) (lid off : Nat) : Nat := b2n folded <<< 58 + (lid % 2 ^ 34) <<< 24 + off % 2 ^ 24

/-- Entries of a row of capacity floor(1006 / ENTRY_BYTES) (R52). -/
def rowCap (eb : Nat) : Nat := 1006 / eb

/-- One entry of a delta row as the node reasons about it. -/
structure DEnt where
  code   : Nat
  folded : Bool
  lid    : Nat
  msn    : Nat
  deriving DecidableEq, Repr

def withCrc (body : Nat) : Nat := body + crc16 { len := 1022, bits := body } <<< 8176

/-- The whole row with its CRC. -/
def rowMk (shard m base kind : Nat) (es : List DEnt) : Nat :=
  let cb := m / 2
  let eb := cb + 8
  withCrc (base % 2 ^ 64 + shard <<< 64 + es.length <<< 80 + kind <<< 88 + cb <<< 96 + eb <<< 104
    + (es.foldr (fun e acc => e.code % 2 ^ (8 * cb) + tailMk e.folded e.lid (e.msn - base) <<< (8 * cb)
        + acc <<< (8 * eb)) 0) <<< 128)

/-- CRC-16 of the 1,022 zero bytes of an EMPTY row, and the EMPTY row (R51). -/
def emptyRow : Nat := 0x9FF5 <<< 8176

def rowEnts (r : Nat) : List DEnt :=
  (List.range (rowCount r)).map (fun e =>
    let t := entTail (rowCB r) (rowEntry r (rowEB r) e)
    { code := entCode (rowCB r) (rowEntry r (rowEB r) e), folded := tailFolded t, lid := tailLid t, msn := rowBase r + tailOff t })

/-- A row is bad: its CRC, its kind, or its layout against the shard's (R53, R112). -/
def rowBad (r shard cb eb : Nat) : Bool :=
  crc16 { len := 1022, bits := r % 2 ^ 8176 } ≠ rowCrc r || 3 < rowKind r ||
  (rowKind r ≠ 0 && (rowShard r ≠ shard || rowEB r ≠ eb || rowCB r ≠ cb || 1006 / eb < rowCount r))

/-- Physical row of row i of a delta page (R98): page code (stack * 768 + unit) * 2048 + f / 32. -/
def pageRow (page i : Nat) : Nat :=
  (page / 2048 * 2 + i % 2) * 65536 + page % 2048 * 32 + i / 2

/-- The physical row of the shard's delta row at a place of its reservation. -/
def physRow (s : Shard) (i : Nat) : Nat := pageRow (s.pages.getD (i / 64) 0) (i % 64)

/-- The unit (stack * 768 + u) that reads a physical row, its bank and its row number. -/
def physUnit (p : Nat) : Nat := p / 131072
def physOdd (p : Nat) : Bool := p / 65536 % 2 = 1
def physNum (p : Nat) : Nat := p % 65536

def openRow (n : Node) (p : Nat) : Nat := sget emptyRow n.openRows p

def putRow (p r : Nat) (n : Node) : Node := { n with openRows := sset emptyRow n.openRows p r }

/-! ### Full vectors (R54-R56) -/

/-- Record size S. -/
def fullSize (fmt d : Nat) : Nat :=
  if fmt = 0 then 4 * d else if fmt = 3 then (d + 8 + 7) / 8 * 8 else 2 * d

/-- Byte offset of a record within the full-vector area (R55). -/
def fullOff (lid s : Nat) : Nat :=
  if s ≤ 4096 then lid / (4096 / s) * 4096 + lid % (4096 / s) * s
  else lid * ((s + 4095) / 4096) * 4096

/-- Round to FP16 or BF16 with sign; none where the magnitude rounds above the largest finite value (R34). -/
def narrow (f : Fmt) (x : F32) : Option Nat :=
  let r := fmtRound f (f32Dy x)
  if f.max < r then none else some (r + if f32Neg x then 2 ^ 15 else 0)

/-- Symmetric INT8 quantisation of one stored vector (R56): scale and elements as bytes. Where the scale of a vector that is not
zero rounds to 0, the quotients are free values in the range of the format (log 148). -/
def quantInt8 (v : List F32) : F32 × List Nat :=
  let m := f32MaxAbs v
  let s := if f32Zero m then 0x3F800000#32 else f32Div m 0x42FE0000#32
  (s, v.map (fun x =>
    let q := if f32Zero s then Int.ofNat (Config.overZeroScale x % 255) - 127 else dyRoundInt (f32Dy (f32Div x s))
    let c := max (-127) (min 127 q)
    (c % 256).toNat))

/-- The stored record of a vector. -/
def fullRecord (fmt : Nat) (v : List F32) : Nat :=
  if fmt = 0 then v.foldr (fun x acc => x.toNat + acc <<< 32) 0
  else if fmt = 3 then
    let q := quantInt8 v
    q.1.toNat + (q.2.foldr (fun b acc => b + acc <<< 8) 0) <<< 64
  else
    let f := if fmt = 1 then fmtF16 else fmtBF16
    v.foldr (fun x acc => (narrow f x).getD 0 + acc <<< 16) 0

/-- The values a stored record holds. -/
def fullValues (fmt d rec_ : Nat) : List F32 :=
  if fmt = 0 then (List.range d).map (fun i => BitVec.ofNat 32 (rec_ >>> (32 * i)))
  else if fmt = 3 then
    let s : F32 := BitVec.ofNat 32 rec_
    (List.range d).map (fun i => (int8Scaled s (nbits rec_ (64 + 8 * i + 7) (64 + 8 * i))).1)
  else (List.range d).map (fun i => (elemF32 fmt (nbits rec_ (16 * i + 15) (16 * i))).getD 0)

/-! ### The vector of an inserted record (R33, R34, R63, R155) -/

/-- Element i of a record's or payload's element area as FP32; none for a NaN, an infinity, or an INT8 product beyond
the FP32 range. -/
def elemAt (b : Blob) (off fmt : Nat) (scale : F32) (i : Nat) : Option F32 :=
  let w := vecBytes fmt
  if fmt = 3 then
    let r := int8Scaled scale (bnum b (off + i) 1)
    if r.2 then none else some r.1
  else elemF32 fmt (bnum b (off + i * w) w)

/-- The index of the first element that gives no value. -/
def elemsBad (b : Blob) (off fmt : Nat) (scale : F32) (d : Nat) : Option Nat :=
  (List.range d).find? (fun i => (elemAt b off fmt scale i).isNone)

def elemsGet (b : Blob) (off fmt : Nat) (scale : F32) (d : Nat) : List F32 :=
  (List.range d).map (fun i => (elemAt b off fmt scale i).getD 0)

/-- The word that holds an element. -/
def elemWord (off fmt i : Nat) : Nat := (off + i * vecBytes fmt) / 4 * 4

/-- The vector as stored: normalised under COSINE (R32). -/
def storedVec (g : IdxGen) (v : List F32) : List F32 := if gMetric g = 2 then normalise v else v

/-- Checks 1 to 3 of an INSERT or UPSERT record (R63, R155): the offset within the record of the failing word, or the
FP32 vector as stored. -/
def insertCheck (g : IdxGen) (r : Blob) : Nat ⊕ List F32 :=
  let w8 := bword r 0x08
  let kind := nbits w8 31 28
  let fmt := nbits w8 27 24
  let d := gDim g
  let scale : F32 := BitVec.ofNat 32 (bword r 0x0C)
  if kind ≠ 1 ∧ kind ≠ 3 then .inl 0x08
  else if 3 < fmt then .inl 0x08
  else if nbits w8 23 16 ≠ 0 then .inl 0x08
  else if nbits w8 15 0 ≠ 4 + (d * vecBytes fmt + 7) / 8 then .inl 0x08
  else if fmt ≠ 3 ∧ !f32Zero scale then .inl 0x0C
  else if fmt = 3 ∧ (!f32Finite scale || f32Neg scale || f32Zero scale) then .inl 0x0C
  else if fmt ≠ 3 ∧ (elemsBad r 0x20 fmt scale d).isSome then
    .inl (elemWord 0x20 fmt ((elemsBad r 0x20 fmt scale d).getD 0))
  else
    let v := (List.range d).map (fun i => if fmt = 3 then (int8Scaled scale (bnum r (0x20 + i) 1)).1
      else (elemAt r 0x20 fmt scale i).getD 0)
    if gMetric g = 2 ∧ normZero v then .inl 0x20
    else
      let u := storedVec g v
      let f := if gFullFmt g = 1 then fmtF16 else fmtBF16
      let narrows := decide (gFullFmt g = 1) || decide (gFullFmt g = 2)
      match (List.range d).find? (fun i => (decide (fmt = 3) && (elemAt r 0x20 fmt scale i).isNone) ||
          (narrows && (narrow f (u.getD i 0)).isNone)) with
      | some i => .inl (elemWord 0x20 fmt i)
      | none => .inr u

/-- The checks of a DELETE record (R155): the offset of the failing word. -/
def deleteCheck (r : Blob) : Option Nat :=
  let w8 := bword r 0x08
  if nbits w8 15 0 ≠ 4 ∨ nbits w8 27 24 ≠ 0 ∨ nbits w8 23 16 ≠ 0 then some 0x08
  else if !f32Zero (BitVec.ofNat 32 (bword r 0x0C)) then some 0x0C
  else ([0x10, 0x14, 0x18, 0x1C].find? (fun o => bword r o ≠ 0))

/-! ### Addresses and poisoned words -/

/-- A poisoned word lies in the `len` bytes from a node linear address (R232). -/
def poisoned (n : Node) (addr len : Nat) : Bool := n.poison.any (fun w => w * 4 < addr + len && addr < w * 4 + 4)

def baseOf (s : Shard) (i : Nat) : Nat := s.bases.getD i 0
def codeAddr (g : IdxGen) (s : Shard) (lid : Nat) : Nat := baseOf s 0 + gM g / 2 * lid
def adjAddr (s : Shard) (lid : Nat) : Nat := baseOf s 1 + 256 * lid
def upperAddr (s : Shard) (b : Nat) : Nat := baseOf s 2 + 256 * b
def attrAddr (s : Shard) (lid : Nat) : Nat := baseOf s 3 + 16 * lid
def idmapAddr (s : Shard) (lid : Nat) : Nat := baseOf s 4 + 16 * lid
def fullAddr (g : IdxGen) (s : Shard) (lid : Nat) : Nat := baseOf s 6 + fullOff lid (fullSize (gFullFmt g) (gDim g))

end Sys2Proof.Machine
end

