-- ==== Sys2Proof/Machine/Fabric.lean ====
section
/-!
DEFINITION. Sys2Proof/Machine/Fabric.lean: sending a fabric message (R262-R265): its class and type, the level it is
formed at, and the roles of the applied map that a sender looks up.
-/
namespace Sys2Proof.Machine

/-- CLASS and TYPE of a message (R263, R264). -/
def msgClass : Msg → Nat × Nat
  | .prepare _ => (0, 0x01)
  | .promise _ => (0, 0x02)
  | .accept _ => (0, 0x03)
  | .accepted _ => (0, 0x04)
  | .commit _ => (0, 0x05)
  | .epochFetch _ => (0, 0x06)
  | .epochData _ => (0, 0x07)
  | .probe _ _ => (0, 0x08)
  | .probeAnswer _ => (0, 0x09)
  | .suspect _ _ => (0, 0x0A)
  | .join _ => (0, 0x0B)
  | .joinAnswer _ _ _ => (0, 0x0C)
  | .loadReport _ => (0, 0x0D)
  | .nodeWithdraw _ => (0, 0x0E)
  | .subBatch _ => (1, 0x01)
  | .subBatchAnswer _ => (1, 0x02)
  | .step _ => (1, 0x03)
  | .stepAccept _ _ => (1, 0x04)
  | .seal _ _ => (1, 0x05)
  | .stepForward _ => (1, 0x06)
  | .partialMsg _ => (2, 0x01)
  | .pooled _ => (2, 0x02)
  | .misroute _ => (2, 0x03)
  | .rowAnswer _ => (2, 0x04)
  | .subRequest _ => (3, 0x01)
  | .subBag _ => (3, 0x02)
  | .rowOp _ => (4, 0x01)
  | .rowMove _ => (4, 0x02)
  | .rowInstalled _ => (4, 0x03)
  | .redirectSet _ => (4, 0x04)
  | .copy _ => (5, 0x01)
  | .rebuildRead _ => (5, 0x02)
  | .rebuildData _ => (5, 0x03)
  | .fill _ => (5, 0x04)

def memberFind (m : CMap) (id : Nat) : Option Member := m.members.find? (fun x => x.node.toNat = id)

/-- Compat level of another node: as the map records it; of a node that the map does not hold, as link training or its JOIN told
it (R258, R284). -/
def levelOf (n : Node) (dst : Nat) : Nat :=
  match memberFind n.map dst with
  | some m => m.compat
  | none =>
    match n.links.findSome? (fun l => match l.2 with | some x => if x.peer = dst ∧ x.compat ≠ 0 then some x.compat else none | none => none),
          n.council.wants.findSome? (fun w => match w with | .joined m _ => if m.node.toNat = dst then some m.compat else none | _ => none) with
    | some c, _ => c
    | none, some c => c
    | none, none => 3

/-- Compat level between this node (level 3) and another (R2, R265). -/
def levelWith (n : Node) (dst : Nat) : Nat := Nat.min 3 (levelOf n dst)

/-- The level that a message is formed at: of the two ends, and for the map protocol the lowest of the composition (R279). -/
def msgLevel (n : Node) (dst : Nat) (m : Msg) : Nat :=
  if (msgClass m).1 = 0 then Nat.min n.map.minCompat (levelWith n dst) else levelWith n dst

/-- An FRT report: the other node and the class in INFO_LO, the epoch in INFO_HI (R288). -/
def frtReport (code node cls epoch : Nat) (n : Node) : Node :=
  report .frt 0 code (node % 4096 + cls % 16 * 2 ^ 12) (epoch % 2 ^ 32) n

def frtCnt (off : Nat) (n : Node) : Node := bump (regAddr .frt 0 off) 1 n

/-! ### Routing (R267, R268) -/

/-- GROUP of a node id. -/
def nodeGroup (id : Nat) : Nat := id / 64

/-- Trunks in both directions, without those that this node, a failed node or a node to avoid ends. -/
def otherTrunks (n : Node) (avoid : Option Nat) : List (Nat × Nat) :=
  let dead := fun i => i = n.nodeId.toNat || avoid = some i || n.fenced.contains i ||
    (match memberFind n.map i with | some m => m.state = .failed || m.state = .retired | none => false)
  (n.map.trunks.flatMap (fun t => [(t.1.toNat, t.2.toNat), (t.2.toNat, t.1.toNat)])).filter (fun t => !dead t.1 && !dead t.2)

/-- Hops from one node to another over at most `k` trunks, every link but this node's own taken as up; 7 for no route. -/
def hopsBetween (trunks : List (Nat × Nat)) : Nat → Nat → Nat → Nat
  | k, x, y =>
    if x = y then 0
    else if nodeGroup x = nodeGroup y then 1
    else match k with
      | 0 => 7
      | k + 1 => (trunks.filter (fun t => nodeGroup t.1 = nodeGroup x)).foldl
          (fun b t => Nat.min b ((if t.1 = x then 0 else 1) + 1 + hopsBetween trunks k t.2 y)) 7

/-- The running links with the hops of the shortest route over each that avoids a node; a node without a map knows its neighbours
only, and any of them may lead on (log 152). -/
def routeLens (n : Node) (dst : Nat) (avoid : Option Nat) : List (Nat × Nat) :=
  let trunks := otherTrunks n avoid
  n.links.filterMap (fun l => match l.2 with
    | some x =>
      if (x.state = 2 ∨ x.state = 3) ∧ avoid ≠ some x.peer then
        let k := if x.peer = dst then 1 else 1 + hopsBetween trunks 3 x.peer dst
        some (l.1, if n.map.epoch = 0 then Nat.min k 6 else k)
      else none
    | none => none)

/-- The first link of a minimal route of at most 6 hops: among equals the one with the most credits of the class, then any (R268). -/
def routeLink (dst cls : Nat) (avoid : Option Nat) (n : Node) : Option Nat × Node :=
  let ls := (routeLens n dst avoid).filter (fun l => l.2 ≤ 6)
  match lleast (fun (a b : Nat × Nat) => decide (a.2 < b.2)) ls with
  | none => (none, n)
  | some b =>
    let best := (ls.filter (fun l => l.2 = b.2)).map (·.1)
    let cr := fun i => match sget none n.links i with | some x => sget 0 x.credits cls | none => 0
    let top := nmaxl (best.map cr)
    let (x, n) := pick b.1 (best.filter (fun i => cr i = top)) n
    (some x, n)

/-- A route of at most 6 hops exists as far as this node can see. -/
def hasRoute (n : Node) (dst : Nat) : Bool := dst = n.nodeId.toNat || (routeLens n dst none).any (fun l => l.2 ≤ 6)

/-- Put a message with its header on the fabric, over routes that avoid a node; without a route TTL_EXCEEDED is reported (R268). -/
def sendOver (avoid : Option Nat) (src dst level epoch hops tag : Nat) (m : Msg) (n : Node) : Node :=
  if dst = n.nodeId.toNat then emit (.msg none src dst level epoch hops tag m) n
  else match routeLink dst (msgClass m).1 avoid n with
    | (some l, n) => emit (.msg (some l) src dst level epoch hops tag m) n
    | (none, n) => frtReport 0x03 dst (msgClass m).1 n.map.epoch n

def sendHdr (src dst level epoch hops tag : Nat) (m : Msg) (n : Node) : Node := sendOver none src dst level epoch hops tag m n

/-- Put a message of this node on the fabric under a given tag. -/
def sendTag (dst tag : Nat) (m : Msg) (n : Node) : Node :=
  sendHdr n.nodeId.toNat dst (msgLevel n dst m) n.map.epoch 0 tag m n

/-- Put a message on the fabric under a new tag; the tag is returned. -/
def sendNew (dst : Nat) (m : Msg) (n : Node) : Nat × Node :=
  (n.nextTag, sendTag dst n.nextTag m { n with nextTag := (n.nextTag + 1) % 2 ^ 32 })

def send (dst : Nat) (m : Msg) (n : Node) : Node := (sendNew dst m n).2

/-- A message under a new tag over routes that avoid a node (R274). -/
def sendAvoiding (avoid dst : Nat) (m : Msg) (n : Node) : Node :=
  sendOver (some avoid) n.nodeId.toNat dst (msgLevel n dst m) n.map.epoch 0 n.nextTag m { n with nextTag := (n.nextTag + 1) % 2 ^ 32 }

/-! ### Roles in a map (R270) -/

def shardRole (m : CMap) (k : ShardKey) : Option ShardRole := m.shards.find? (fun r => r.key = k)

/-- The nodes that hold a shard's objects and serve its queries: primary, replicas, and the partner with REPLICAS of 2
or more (R57). -/
def servingPlaces (n : Node) (r : ShardRole) : List Place :=
  let reps := match genFind n r.key.handle r.key.gen with | some g => gReplicas g | none => 1
  r.primary.toList ++ (if 2 ≤ reps then r.partner.toList else []) ++ r.replicas

/-- This node holds a role for the shard in a map. -/
def holdsRole (id : BitVec 12) (r : ShardRole) : Bool :=
  (r.primary.toList ++ r.partner.toList ++ r.replicas).any (fun p => p.node = id)

/-- The current generation of a handle (R17). -/
def currentGen (m : CMap) (h : Nat) : Option Nat := (m.gens.find? (fun g => g.handle = h)).map (·.gen)

end Sys2Proof.Machine
end

