-- ==== Sys2Proof/Machine/Receive.lean ====
section
/-!
DEFINITION. Sys2Proof/Machine/Receive.lean: what a node does with a message before it acts on it: the checks of R266,
forwarding along the route (R268), duplicates (R269), fencing (R285), messages of a newer epoch (R273); forwarding
entries (R276) and MISROUTE (R21); messages that expect a reply.
-/
namespace Sys2Proof.Machine

/-- A node the applied map names FAILED or RETIRED, or one fenced for bad messages (R285). -/
def isFenced (n : Node) (id : Nat) : Bool :=
  n.fenced.contains id ||
  (match memberFind n.map id with | some m => m.state = .failed || m.state = .retired | none => false)

def isMember (n : Node) (id : Nat) : Bool :=
  match memberFind n.map id with | some m => m.state ≠ .absent | none => false

/-- Nodes fenced now (FRT_FENCED). -/
def fencedCount (n : Node) : Nat :=
  ((n.map.members.filter (fun m => m.state = .failed || m.state = .retired)).map (fun m => m.node.toNat) ++
    n.fenced.filter (fun i => !(match memberFind n.map i with | some m => m.state = .failed || m.state = .retired | none => false))).length

/-- A message fails R266: dropped, counted, reported; more than 64 from one node within 1 ms fence it (R285). -/
def dropMsg (code : Nat) (h : MsgHdr) (n : Node) : Node :=
  let src := h.src.toNat
  let n := frtReport code src h.cls.toNat n.map.epoch (frtCnt 0x128 n)
  let bad := (n.bad.filter (fun b => n.tick ≤ b.2 + ticksMs 1)) ++ [(src, n.tick)]
  let n := { n with bad := bad }
  if 64 < (bad.filter (fun b => b.1 = src)).length ∧ !isFenced n src then
    frtReport 0x06 src h.cls.toNat n.map.epoch { n with fenced := n.fenced ++ [src] }
  else n

/-- A header field out of range, a reserved field that is not 0, a wrong length, or a type that is not the payload's
(R264, R266). -/
def malformed (h : MsgHdr) (m : Msg) : Bool :=
  (h.cls.toNat, h.typ.toNat) ≠ msgClass m || h.compat.toNat < 1 || 3 < h.compat.toNat || h.reserved ||
  h.len.toNat ≠ h.flits || h.flits = 0

/-- A node entitled to send commit steps and acceptances of a shard (R266). -/
def entitled (n : Node) (key : ShardKey) (src : BitVec 12) : Bool :=
  match shardRole n.map key with
  | some r => r.primary.any (fun p => p.node = src) || r.partner.any (fun p => p.node = src) || r.incoming = some src
  | none => false

/-- R266's check of the sender. A node that holds no map yet has no members to check against: it takes the MAP messages
that its JOIN leads to (DEDUCED from R284, log 21). -/
def foreign (n : Node) (h : MsgHdr) (m : Msg) : Bool :=
  if n.map.epoch = 0 ∧ h.cls.toNat = 0 then n.fenced.contains h.src.toNat else
  match m with
  | .join _ => false
  | .step s => !isMember n h.src.toNat || isFenced n h.src.toNat || !entitled n s.key h.src
  | .stepAccept k _ => !isMember n h.src.toNat || isFenced n h.src.toNat || !entitled n k h.src
  | _ => !isMember n h.src.toNat || isFenced n h.src.toNat

/-- A member of the council other than this node, to fetch epochs from (R273): any of them. -/
def councilOther (n : Node) : Option (BitVec 12) × Node :=
  match n.map.council.filter (fun c => c ≠ n.nodeId) with
  | [] => (none, n)
  | c :: l => let (x, n) := pick c (c :: l) n; (some x, n)

/-- Send a message that expects a reply. -/
def sendAwait (dst : Nat) (m : Msg) (n : Node) : Node :=
  let (tag, n) := sendNew dst m n
  { n with awaits := n.awaits ++ [{ tag := tag, dst := dst, m := m, at_ := n.tick }] }

/-- The reply to an awaited message arrives. -/
def awaitTake (tag : Nat) (n : Node) : Option Await × Node :=
  (n.awaits.find? (fun a => a.tag = tag), { n with awaits := n.awaits.filter (fun a => a.tag ≠ tag) })

/-- The other holders of a shard, in the order of their roles, to restore from (R127, R337). -/
def otherHolders (n : Node) (key : ShardKey) : List Nat :=
  match shardRole n.map key with
  | none => []
  | some r => (((r.primary.toList ++ r.partner.toList ++ r.replicas).map (fun p => p.node.toNat)).filter (fun x =>
      x ≠ n.nodeId.toNat && !isFenced n x)).foldl (fun acc x => if acc.contains x then acc else acc ++ [x]) []

/-- Fetch the next missing epoch (R273), unless that fetch is under way. -/
def fetchEpoch (e : Nat) (n : Node) : Node :=
  if n.awaits.any (fun a => a.m = .epochFetch e) then n
  else
    let (c, n) := councilOther n
    match c with
    | some c => sendAwait c.toNat (.epochFetch e) n
    | none => n

/-- A council majority is heard again after a loss (R275): the members heard since, this node among them. -/
def quorumCheck (n : Node) : Node :=
  let heard := n.map.council.filter (fun c => c = n.nodeId || decide (n.quorumLostAt < sget 0 n.mapHeard c.toNat))
  if !n.quorum ∧ isMember n n.nodeId.toNat ∧ n.map.council.length < 2 * heard.length then { n with quorum := true } else n

/-- Answers: messages that carry the tag of the message they answer (R264, R263). -/
def isAnswer : Msg → Bool
  | .partialMsg _ => true
  | .misroute _ => true
  | .subBatchAnswer _ => true
  | .stepAccept _ _ => true
  | .pooled _ => true
  | .rowAnswer _ => true
  | .rowInstalled _ => true
  | .promise _ => true
  | .accepted _ => true
  | .epochData _ => true
  | .probeAnswer _ => true
  | .joinAnswer _ _ _ => true
  | .rebuildData _ => true
  | _ => false

/-- The tag under which a message counts as received (R269). An answer carries another node's tag, so it is kept apart
from the messages its sender numbers itself (DEDUCED, log 35). The partials of one sub-bag share a tag, one for each
bag: their bag and first position tell them apart (log 20). -/
def seenTag (h : MsgHdr) (m : Msg) : Nat :=
  match m with
  | .pooled p => h.tag.toNat + 2 ^ 33 * (1 + p.bag + 2 ^ 16 * p.firstPos) + 2 ^ 32
  | _ => if isAnswer m then h.tag.toNat + 2 ^ 32 else h.tag.toNat

/-- The checks and bookkeeping common to every received message; `act` is what the message does (R266-R269, R273).
MAP messages carry the epochs they concern in their payload and are not held (DEDUCED, log 14). -/
def fabricIn (h : MsgHdr) (m : Msg) (act : Node → Node) (n : Node) : Node :=
  if malformed h m then dropMsg 0x01 h n
  else if 6 < h.hops.toNat then dropMsg 0x03 h n
  else if foreign n h m then dropMsg 0x02 h n
  else if h.dst ≠ n.nodeId then
    sendHdr h.src.toNat h.dst.toNat h.compat.toNat h.epoch.toNat (h.hops.toNat + 1) h.tag.toNat m n
  else
    let seen := n.seen.filter (fun x => n.tick ≤ x.2.2 + ticksMs 10)
    if seen.any (fun x => x.1 = h.src.toNat && x.2.1 = seenTag h m) then frtCnt 0x124 { n with seen := seen }
    else
      let n := { n with seen := seen ++ [(h.src.toNat, seenTag h m, n.tick)] }
      let n := if h.cls.toNat = 0 then
          quorumCheck { n with
            mapHeard := sset 0 n.mapHeard h.src.toNat (n.tick + 1), mapTimeouts := sset 0 n.mapTimeouts h.src.toNat 0 }
        else n
      let n := { n with suspicions := n.suspicions.filter (fun s => s.node ≠ h.src) }
      if n.map.epoch < h.epoch.toNat ∧ h.cls.toNat ≠ 0 then
        fetchEpoch (n.map.epoch + 1) (frtCnt 0x120 { n with heldMsgs := n.heldMsgs ++ [{ h := h, m := m, at_ := n.tick }] })
      else act n

/-! ### Forwarding entries and MISROUTE (R21, R276) -/

/-- The forwarding entry of a shard or table shard within its 2 ms. -/
def fwdFind (n : Node) (key : ShardKey) (table : Bool) : Option Fwd :=
  n.fwds.find? (fun f => f.key = key && f.table = table && n.tick ≤ f.at_ + ticksMs 2)

/-- A forwarded message keeps its class, type and tag, and is answered to its original sender (R264). -/
def forwardMsg (h : MsgHdr) (dst : BitVec 12) (m : Msg) (n : Node) : Node :=
  frtCnt 0x11C (sendHdr h.src.toNat dst.toNat (msgLevel n dst.toNat m) n.map.epoch 0 h.tag.toNat m n)

/-- MISROUTE with this node's epoch and the new holder where it knows it (R21, R276). -/
def sendMisroute (h : MsgHdr) (holder : Option (BitVec 12)) (n : Node) : Node :=
  frtCnt 0x114 (sendTag h.src.toNat h.tag.toNat (.misroute { epoch := n.map.epoch, newHolder := holder }) n)

end Sys2Proof.Machine
end

