-- ==== Sys2Proof/Machine/Admission.lean ====
section
/-!
DEFINITION. Sys2Proof/Machine/Admission.lean: tenant contexts and shapers (R294, R302-R306), queue pairs and request
rings (R295-R299), and writing a response (R26-R29).
-/
namespace Sys2Proof.Machine

/-! ### Shapers -/

/-- Credits granted by the calendar entries 0 .. k - 1 counted from timer value 0. -/
def grantTotal (rate k : Nat) : Nat := k / 1000 * rate + k % 1000 * rate / 1000

/-- grant(rate, i) of R302. -/
def grant (rate i : Nat) : Nat := (i + 1) * rate / 1000 - i * rate / 1000

/-- The carry-over when a written record takes effect (R294, R304). -/
def applyCfg (c : TenantCfg) (t : Tenant) : Tenant :=
  let t' := { t with cfg := c, next := none, started := true }
  if !t.started then
    if c.mode = 0 then { t' with balance := c.burst, peak := 0 } else { t' with balance := c.cbs, peak := c.pbs }
  else if c.mode = 0 then { t' with balance := Nat.min t.balance c.burst, peak := 0 }
  else if t.cfg.mode = 0 then { t' with balance := Nat.min t.balance c.cbs, peak := c.pbs }
  else { t' with balance := Nat.min t.balance c.cbs, peak := Nat.min t.peak c.pbs }

/-- The grants of entries e0 + 1 .. e1; a written record takes effect at the first of them (R302-R304). -/
def tenantEntries (e0 e1 : Nat) (t : Tenant) : Tenant :=
  let t := match t.next with | some c => applyCfg c t | none => t
  let g := fun rate => grantTotal rate (e1 + 1) - grantTotal rate (e0 + 1)
  if !t.started then t
  else if t.cfg.mode = 0 then { t with balance := Nat.min t.cfg.burst (t.balance + g t.cfg.rate) }
  else { t with
    balance := Nat.min t.cfg.cbs (t.balance + g t.cfg.cir),
    peak := Nat.min t.cfg.pbs (t.peak + g t.cfg.pir) }

/-- Every calendar entry that has started by now is granted. -/
def catchUp (n : Node) : Node :=
  let e := n.tick / 100
  if n.calEntry < e then { n with tenants := n.tenants.map (tenantEntries n.calEntry e), calEntry := e } else n

def tenantFind (n : Node) (tid : Nat) : Option Tenant := n.tenants.find? (fun t => t.tid = tid)

def tenantMod (tid : Nat) (f : Tenant → Tenant) (n : Node) : Node :=
  { n with tenants := lmodify (fun t => t.tid = tid) f n.tenants }

/-- A credit is there for a descriptor of the tenant (R302, R303). -/
def hasCredit (t : Tenant) : Bool :=
  t.started && (if t.cfg.mode = 0 then 1 ≤ t.balance else (1 ≤ t.balance) && (1 ≤ t.peak))

def takeCredit (t : Tenant) : Tenant :=
  if t.cfg.mode = 0 then { t with balance := t.balance - 1 } else { t with balance := t.balance - 1, peak := t.peak - 1 }

/-- Step 1 of R12: whether a credit was taken, and the node after it. -/
def police (tid : Nat) (n : Node) : Bool × Node :=
  let n := catchUp n
  match tenantFind n tid with
  | some t => if hasCredit t then (true, tenantMod tid takeCredit n) else (false, n)
  | none => (false, n)

/-- Step 4 of R12: an admission queue entry, or the suggested wait in µs (R306); none for a tenant held over its energy
budget (R330). -/
def admitEntry (tid : Nat) (n : Node) : Option Nat × Node :=
  match tenantFind n tid with
  | some t =>
    if n.pwr.held.contains tid then (some 1000, bump (regAddr .rdma 0 0x130) 1 n)
    else if t.held < t.cfg.admitMax then (none, tenantMod tid (fun t => { t with held := t.held + 1 }) n)
    else
      let mean := if t.holds.isEmpty then 0 else nsum t.holds / (100 * t.holds.length)
      (some (Nat.max 10 mean), bump (regAddr .rdma 0 0x130) 1 n)
  | none => (some 10, n)

/-- This node admits client requests: it is ACTIVE, or SLOW until its swap (R271, R284). -/
def admitsClients (n : Node) : Bool :=
  match memberFind n.map n.nodeId.toNat with | some m => m.state = .active || m.state = .slow | none => false

/-- Step 4 of R12 for a QUERY, MUTATE or LOOKUP. R271 and R284 have no other member admit one and name no answer: it is RETRY_LATER with a
free wait (DESIGN CHOICE, log 182). -/
def clientEntry (tid : Nat) (n : Node) : Option Nat × Node :=
  if admitsClients n then admitEntry tid n
  else let (x, n) := fresh n; (some (x % 2 ^ 32), bump (regAddr .rdma 0 0x130) 1 n)

/-- A request leaves the admission queue after being held for `ticks`. -/
def admitLeave (tid ticks : Nat) (n : Node) : Node :=
  tenantMod tid (fun t => { t with held := t.held - 1, holds := lpushMax 64 t.holds ticks }) n

/-! ### Queue pairs -/

def qpFind (n : Node) (q : Nat) : Option Qp := n.qps.find? (fun x => x.num = q)

def qpMod (q : Nat) (f : Qp → Qp) (n : Node) : Node := { n with qps := lmodify (fun x => x.num = q) f n.qps }

/-- A queue pair enters ERROR (R296). -/
def qpError (q : Nat) (n : Node) : Node :=
  qpMod q (fun x => { x with state := 2, unacked := [], errQueue := [], slots := [] }) n

/-- An RDMA block report: the queue pair in INFO_LO [23:0], the TID in INFO_HI [11:0] (R309). -/
def rdmaReport (code : Nat) (x : Qp) (n : Node) : Node := report .rdma 0 code (x.num % 2 ^ 24) (x.cfg.tid % 4096) n

def mtuBytes (x : Qp) : Nat := if x.cfg.mtu = 1 then 1024 else if x.cfg.mtu = 2 then 2048 else 4096

/-- Packets that a write of `len` bytes takes. -/
def packets (x : Qp) (len : Nat) : Nat := Nat.max 1 ((len + mtuBytes x - 1) / mtuBytes x)

/-- One RDMA write leaves on a queue pair; its PSNs are taken and it waits for the acknowledgement. -/
def qpSend (q : Nat) (err : Bool) (len : Nat) (o : Out) (n : Node) : Node :=
  emit o (qpMod q (fun x =>
    let p := (x.sqPsn + packets x len) % 2 ^ 24
    { x with sqPsn := p, unacked := x.unacked ++ [{ psn := (p + 2 ^ 24 - 1) % 2 ^ 24, err := err }] }) n)

/-- ADMIT_TICKS (R29). -/
def admitTicks (n : Node) (arrive : Nat) : Nat := sat32 (n.tick - arrive)

/-- An error-slot write starts: ADMIT_TICKS counts up to this moment (R29). -/
def errSlotSend (x : Qp) (e : ErrHdr) (n : Node) : Node :=
  let hdr := match e.arrive with | some t => bpatch e.hdr 0x1C (bofNat 4 (admitTicks n t)) | none => e.hdr
  qpSend x.num true 64 (.rdmaWriteImm x.num x.cfg.errAddr x.cfg.errRkey hdr e.imm) n

/-- A header for the error slot: at once, or after the previous error-slot write is acknowledged (R299). -/
def errSlotWrite (x : Qp) (e : ErrHdr) (n : Node) : Node :=
  if x.unacked.any (·.err) || !x.errQueue.isEmpty then
    qpMod x.num (fun y => { y with errQueue := y.errQueue ++ [e] }) n
  else errSlotSend x e n

/-- The fields of a response header (R29). -/
structure Resp where
  op       : Nat
  status   : Nat
  flags    : Nat
  count    : Nat
  k        : Nat
  tag      : Nat
  epoch    : Nat
  gen      : Nat
  widen    : Nat
  total    : Nat
  answered : Nat
  ticks    : Nat
  err      : Nat
  cls      : Nat
  deriving DecidableEq, Repr

def respZero : Resp :=
  { op := 0, status := 0, flags := 0, count := 0, k := 0, tag := 0, epoch := 0, gen := 0, widen := 0, total := 0,
    answered := 0, ticks := 0, err := 0, cls := 0 }

/-- The 64-byte response header (R29). -/
def respHeader (r : Resp) : Blob :=
  bconcat [bofNat 4 (r.op * 2 ^ 24 + r.status * 2 ^ 16 + r.flags), bofNat 4 (r.count * 2 ^ 16 + r.k), bofNat 8 r.tag,
    bofNat 4 r.epoch, bofNat 4 (r.gen * 2 ^ 16 + r.widen * 2 ^ 14), bofNat 4 (r.total * 2 ^ 16 + r.answered),
    bofNat 4 r.ticks, bofNat 4 r.err, bofNat 4 0, bofNat 24 r.cls]

/-- Where an answer goes: the response words of R298. -/
structure RespTo where
  qp     : Nat
  addr   : Nat
  rkey   : Nat
  len    : Nat
  tag    : Nat
  arrive : Nat
  deriving DecidableEq, Repr

/-- The response words of a descriptor (R298). -/
def respTo (qp arrive : Nat) (d : Blob) : RespTo :=
  { qp := qp, addr := bnum d 0x18 8, rkey := bword d 0x20, len := bword d 0x24, tag := bnum d 0x10 8, arrive := arrive }

/-- Write a response: the records, then the header with immediate data REQ_TAG[31:0] (R26); in the error slot when
RESP_LEN is below 64 (R27); discarded on a queue pair in ERROR (R296). -/
def writeResponse (t : RespTo) (records : Blob) (r : Resp) (n : Node) : Node :=
  match qpFind n t.qp with
  | none => bump (regAddr .rdma 0 0x138) 1 n
  | some x =>
    if x.state = 2 then bump (regAddr .rdma 0 0x138) 1 n
    else
      let hdr := respHeader r
      let imm := r.tag % 2 ^ 32
      if t.len < 64 then errSlotWrite x { hdr := hdr, imm := imm, arrive := if r.status = 3 then none else some t.arrive } n
      else
        let n := if records.len = 0 then n
          else qpSend x.num false records.len (.rdmaWrite x.num (t.addr + 64) t.rkey records) n
        qpSend x.num false 64 (.rdmaWriteImm x.num t.addr t.rkey hdr imm) n

/-- An answer of a status alone, for a descriptor whose OPCODE and tag were read; K is echoed for a QUERY. -/
def answerStatus (t : RespTo) (op k status err : Nat) (n : Node) : Node :=
  writeResponse t bempty { respZero with
    op := op, k := k, status := status, tag := t.tag, ticks := admitTicks n t.arrive, err := err } n

/-- K of a QUERY descriptor; 0 for every other class. -/
def echoK (d : Blob) : Nat := if bnum d 3 1 = 1 then bnum d 6 2 else 0

/-- A SEND on a queue pair, up to check step 2 of R12: the ring, the slot size, policing, and the descriptors shorter
than 64 bytes (R296-R298). What passes goes on to `next`. -/
def receive (q : Nat) (d : Blob) (next : Qp → RespTo → Node → Node) (n : Node) : Node :=
  match qpFind n q with
  | none => n
  | some x =>
    if x.state ≠ 1 then n
    else if x.cfg.ringDepth ≤ x.slots.length then bump (regAddr .rdma 0 0x134) 1 (emit (.rnrNak q) n)
    else if 2 ^ x.cfg.slotLog2 < d.len then
      rdmaReport 0x04 x (bump (regAddr .rdma 0 0x13C) 1 (qpError q (emit (.nak q 2) n)))
    else
      let t := respTo q n.tick d
      let (ok, n) := police x.cfg.tid n
      if d.len < 64 then
        let n := if ok then n
          else { bump (regAddr .rdma 0 0x12C) 1 n with
            tenDenied := sset 0 n.tenDenied x.cfg.tid (sget 0 n.tenDenied x.cfg.tid + 1) }
        errSlotWrite x { hdr := respHeader { respZero with status := if ok then 1 else 3 }, imm := 0, arrive := if ok then some n.tick else none } n
      else if ok then next x t n
      else
        let n := { bump (regAddr .rdma 0 0x12C) 1 n with
          tenDenied := sset 0 n.tenDenied x.cfg.tid (sget 0 n.tenDenied x.cfg.tid + 1) }
        writeResponse t bempty { respZero with op := bnum d 3 1, status := 3, tag := t.tag } n

/-- Step 3 of R12: the owner of an object has rights to it, another tenant where they were granted, to read or to write as well (R200,
R217). No operation of the manual grants them (log 9). -/
def hasRights (n : Node) (write : Bool) (tid handle : Nat) : Bool :=
  n.granted.any (fun g => g.1 = tid && g.2.1 = handle && (g.2.2 || !write)) || n.gens.any (fun g => g.handle = handle && g.owner = tid) ||
  n.tabs.any (fun t => t.handle = handle && t.owner = tid) || n.encoders.any (fun e => e.handle = handle && e.owner = tid)

/-! ### Requests in progress -/

def reqFind (n : Node) (id : Nat) : Option Req := n.reqs.find? (fun r => r.id = id)

def reqMod (id : Nat) (f : Req → Req) (n : Node) : Node := { n with reqs := lmodify (fun r => r.id = id) f n.reqs }

/-- A new request after check step 4. -/
def reqNew (x : Qp) (t : RespTo) (d : Blob) (handle gen auxGen deadline : Nat) (n : Node) : Nat × Node :=
  let r : Req := { id := n.nextReq, qp := x.num, tid := x.cfg.tid, op := bnum d 3 1, d := d, arrive := t.arrive,
                   deadline := deadline, epoch := n.map.epoch, handle := handle, gen := gen, auxGen := auxGen,
                   rebound := false, rerouted := false, vec := none, fanned := false, subs := [], records := [],
                   widened := false, widenUsed := 0, fullShard := false, energy := 0, words := [], duplicate := false,
                   tabHandle := 0, tabGen := 0, pooled := [],
                   sats := 0, detail := 0, mce := none, prog := none }
  (r.id, { n with reqs := n.reqs ++ [r], nextReq := n.nextReq + 1 })

/-- The response of a request in progress, after which the request is over; the energy that its answers carried goes to its
queue pair's account (R332). -/
def finish (r : Req) (records : Blob) (resp : Resp) (n : Node) : Node :=
  let t := respTo r.qp r.arrive r.d
  let n := writeResponse t records { resp with op := r.op, tag := t.tag, ticks := admitTicks n r.arrive } n
  let n := admitLeave r.tid (n.tick - r.arrive) n
  let n := { n with pwr := { n.pwr with qpE := sset 0 n.pwr.qpE r.qp ((sget 0 n.pwr.qpE r.qp + r.energy) % 2 ^ 64) } }
  { n with reqs := n.reqs.filter (fun x => x.id ≠ r.id) }

/-- CLASS_WORDS of an MGMT response. -/
def mgmtWords (result len epoch : Nat) (inPayload : Bool) : Nat :=
  result % 2 ^ 32 + (len % 2 ^ 32) <<< 32 + (epoch % 2 ^ 32) <<< 64 + b2n inPayload <<< 96

/-- Response words that depend on the binding alone. -/
def boundResp (r : Req) : Resp :=
  { respZero with
    k := echoK r.d, epoch := r.epoch, gen := r.gen,
    flags := b2n r.rebound * 16 + b2n r.rerouted * 8 }

end Sys2Proof.Machine
end

