-- ==== Sys2Proof/Machine/Tiers.lean ====
section
/-!
DEFINITION. Sys2Proof/Machine/Tiers.lean: compute units' states, tier pages and their homes, reservations, tier faults
and promotions (R214-R222), and reading and writing a node linear address.
-/
namespace Sys2Proof.Machine

/-! ### The flash map (R238, R247) -/

def ftlMod (f : Ftl → Ftl) (n : Node) : Node := { n with ftl := f n.ftl }

def ftlCnt (off k : Nat) (n : Node) : Node := bump (regAddr .ftl 0 off) k n

/-- The unit that holds map page p; its map entry is the directory's entry for that page (R238). -/
def mapUa (p : Nat) : Nat := 2 ^ 34 + 2 ^ 33 + p % 2 ^ 33

def fmapGet (n : Node) (ua : Nat) : Option FMap := sget none n.ftl.map ua

/-- Switch a unit's map entry; its map page is dirty. -/
def fmapSet (ua : Nat) (v : Option FMap) (n : Node) : Node :=
  ftlMod (fun f => { f with
    map := sset none f.map ua v, dirty := if ua < mapUa 0 then ninsert (ua / 512) f.dirty else f.dirty }) n

/-- The 16 units of a flash frame are UNWRITTEN when the frame is allocated (R238). -/
def frameClear (f : Nat) (n : Node) : Node :=
  (List.range 16).foldl (fun n i => if (fmapGet n (f * 16 + i)).isSome then fmapSet (f * 16 + i) none n else n) n

/-- Discard of units (R247): a hint; the model sets them DISCARDED or leaves them, at the FTL's choice. -/
def discardUnit (ua : Nat) (n : Node) : Node :=
  match fmapGet n ua with
  | some m =>
    if m.mstate = 1 then
      let (x, n) := fresh n
      if x % 2 = 0 then ftlCnt 0x140 1 (fmapSet ua (some { m with mstate := 2 }) n) else n
    else n
  | none => n

/-- The units of a flash frame are discarded. -/
def frameDiscard (f : Nat) (n : Node) : Node := (List.range 16).foldl (fun n i => discardUnit (f * 16 + i) n) n

/-! ### Compute units -/

/-- A unit as fused: operating points up to OP7 (log 3). -/
def unitFused (n : Node) (p : Nat) : UnitSt :=
  { state := if n.fusedSpare.contains p then 1 else 0, fused := 7, aged := 7, cur := 0, charges := [], leaving := none }

def unitGet (n : Node) (p : Nat) : UnitSt := sget (unitFused n p) n.units p

def unitSet (p : Nat) (v : UnitSt) (n : Node) : Node := { n with units := sset (unitFused n p) n.units p v }

/-- The unit takes new work: it reads ACTIVE. -/
def unitActive (n : Node) (p : Nat) : Bool := (unitGet n p).state = 0

/-- The instances of a compute unit type that read ACTIVE. -/
def activeUnits (n : Node) (b : Blk) : List Nat :=
  (List.range (blkInfo b).2.1).filter (fun i => unitActive n (pageOf b i))

/-- DRAIN written to a unit's control register (R90, R132, R193): DRAINING until 0 is written. -/
def unitDrain (b : Blk) (i : Nat) (on : Bool) (n : Node) : Node :=
  let p := pageOf b i
  let u := unitGet n p
  if on ∧ u.state = 0 then unitSet p { u with state := 2 } n
  else if !on ∧ u.state = 2 ∧ u.leaving.isNone then unitSet p { u with state := 0 } n
  else n

/-! ### Tier pages -/

def tpage (addr : Nat) : Nat := addr / 65536

def objOf (n : Node) (p : Nat) : Option ObjRange := n.mmu.objs.find? (fun o => o.base ≤ p && p < o.base + o.pages)

def ptGet (n : Node) (p : Nat) : Option PgEnt := sget none n.mmu.ptab p

def ptSet (p : Nat) (e : Option PgEnt) (n : Node) : Node :=
  { n with mmu := { n.mmu with ptab := sset none n.mmu.ptab p e } }

def mmuCnt (off k : Nat) (n : Node) : Node := bump (regAddr .mmu 0 off) k n

/-- An MMU report: the node linear address and the TID (R234). -/
def mmuReport (code addr tid : Nat) (n : Node) : Node :=
  report .mmu 0 code (addr % 2 ^ 32) (addr / 2 ^ 32 % 2 ^ 20 + tid % 4096 * 2 ^ 20) n

def stkEmpty : Stk := { pcOff := [], lost := false, scrubAt := 0, emitted := 0, scrubs := [], selected := false }

def stkGet (n : Node) (s : Nat) : Stk := sget stkEmpty n.stks s

def stkSet (s : Nat) (v : Stk) (n : Node) : Node := { n with stks := sset stkEmpty n.stks s v }

/-- The open region of a stack: first and last row (R99). -/
def openBounds (n : Node) (s : Nat) : Nat × Nat :=
  (rfield n .msc s 0x10C 15 8 * 256, rfield n .msc s 0x10C 7 0 * 256 + 255)

/-- The k-th row group of a stack that holds protected frames: the open region and the group of the command window are left out
(R97, R99, R215). -/
def protGroup (n : Node) (s k : Nat) : Nat :=
  let b := openBounds n s
  if k < b.1 / 32 then k else k + (b.2 / 32 + 1 - b.1 / 32)

/-- The c-th protected frame of the stacks still there, over the stacks first, then their bank pairs (R215). -/
def stackFrame (n : Node) (c : Nat) : Option Nat :=
  let ss := (List.range 8).filter (fun s => !(stkGet n s).lost)
  let st := ss.getD (c % ss.length) 0
  let g := protGroup n st (c / ss.length / 768)
  if ss.isEmpty ∨ 2046 < g then none else some (st * 2 ^ 21 + c / ss.length % 768 * 2 ^ 11 + g)

/-- DIMM frames of the node reserve that hold the home map leaves, two copies of 32 frames each, from the top of the population down
(R216, R348; log 10). -/
def leafFrames (n : Node) : Nat := 64 * n.mmu.dir.length

/-- The c-th frame of a tier that a page can take. -/
def frameAt (n : Node) (tier c : Nat) : Option Nat :=
  if tier = 1 then stackFrame n c
  else if tier = 2 then (if c + leafFrames n < n.mmu.capDimm then some c else none)
  else if c < n.mmu.capFlash then some c else none

/-- Frames of a tier in use: homes, targets of moves under way, clean copies, and retired frames. -/
def framesUsed (n : Node) (tier : Nat) : List Nat :=
  n.mmu.ptab.flatMap (fun x => match x.2 with
    | some e => (if e.home = tier then [e.frame] else []) ++ (if e.moving && e.target = tier then [e.tframe] else []) ++
        (if tier = 3 then e.clean.toList else [])
    | none => []) ++ (n.mmu.retired.filter (fun r => r / 2 ^ 32 = tier)).map (· % 2 ^ 32)

def frameFrom (n : Node) (tier : Nat) (used : List Nat) : Nat → Nat → Option Nat
  | 0, _ => none
  | k + 1, c =>
    match frameAt n tier c with
    | some f => if used.contains f then frameFrom n tier used k (c + 1) else some f
    | none => if tier = 1 then frameFrom n tier used k (c + 1) else none

/-- A frame of a tier that is free: the lowest (log 10); none where the tier is full. -/
def takeFrame (tier : Nat) (n : Node) : Option Nat :=
  let used := framesUsed n tier
  frameFrom n tier used (8 * (used.length + 1)) 0

def pgNew (o : ObjRange) (frame : Nat) (tick : Nat) : PgEnt :=
  { allowed := o.allowed, home := o.defHome, pinned := o.pinned, open_ := o.open_, moving := false, heat := 0, tid := o.tid,
    internal := o.internal, frame := frame, defHome := o.defHome, promoted := false, order := 0, target := 0, tframe := 0,
    dirty := 0, hold := false, heldN := 0, retire := false, clean := none, acc := 0, idleAt := tick, ceTicks := [], waiters := [] }

/-- The 8-byte home map entry of a mapped page (R216). -/
def pgWord (e : PgEnt) : Nat :=
  e.frame % 2 ^ 32 + b2n e.internal <<< 39 + (e.tid % 2 ^ 12) <<< 40 + (e.heat % 8) <<< 52 + b2n e.moving <<< 55 + b2n e.open_ <<< 56 +
    b2n e.pinned <<< 57 + (e.home % 4) <<< 58 + (e.allowed % 8) <<< 60 + 1 <<< 63

/-- The home directory entry of a page's range gets its leaf when the first page of the range is mapped (R216). -/
def leafFor (p : Nat) (n : Node) : Node :=
  if n.mmu.dir.contains (p / 2 ^ 18) then n else { n with mmu := { n.mmu with dir := n.mmu.dir ++ [p / 2 ^ 18] } }

/-- Begin a move: MOVING set, the dirty map cleared, the target frame allocated (R224); a page with a clean copy in flash needs no new
frame there, and no demotion is written while the pool takes no writes (R251, R252). -/
def moveBegin (page tier : Nat) (n : Node) : Node :=
  match ptGet n page with
  | none => n
  | some e =>
    let go := fun (f : Nat) (n : Node) =>
      ptSet page (some { e with moving := true, target := tier, tframe := f, dirty := 0, hold := false, heldN := 0 }) n
    match (if tier = 3 then e.clean else none), takeFrame tier n with
    | some f, _ => go f n
    | none, some f => if tier = 3 then (if n.ftl.pool = 2 ∨ n.ftl.pool = 3 then go f (frameClear f n) else n) else go f n
    | none, none => n

/-- Frames of a tier that a tenant has taken, or is taking by a move, for pages that are not promoted. -/
def takenIn (n : Node) (tid tier : Nat) : Nat :=
  (n.mmu.ptab.filter (fun x => match x.2 with
    | some e => e.tid = tid && !e.promoted && (if e.moving && e.home ≠ 3 then e.target = tier else e.home = tier)
    | none => false)).length

/-- The coldest of a tenant's pages in a tier that are away from their default tier (R220). -/
def coldestAway (n : Node) (tid tier : Nat) : Option (Nat × PgEnt) :=
  lleast (fun a b => decide (a.2.heat < b.2.heat)) (n.mmu.ptab.filterMap (fun x => match x.2 with
    | some e => if e.tid = tid && e.home = tier && e.defHome ≠ tier && !e.promoted && !e.moving && !e.pinned && !e.open_ then some (x.1, e)
        else none
    | none => none))

/-- Pages that a tenant has reserved in a tier. -/
def reservedBy (n : Node) (tid tier : Nat) : Nat :=
  let q := sget { stack := 0, dimm := 0, flash := 0, promo := 0, usedStack := 0, usedDimm := 0, usedFlash := 0 } n.mmu.quotas tid
  if tier = 1 then q.usedStack else if tier = 2 then q.usedDimm else q.usedFlash

/-- A page's first write takes a frame in its object's default tier (R219); where pages away from their own tier fill the tenant's
reservation there, the coldest of them first moves back (R220). -/
def mapPage (p : Nat) (n : Node) : Node :=
  match ptGet n p, objOf n p with
  | none, some o =>
    let n := if o.internal ∨ takenIn n o.tid o.defHome < reservedBy n o.tid o.defHome then n
      else match coldestAway n o.tid o.defHome with | some (c, e) => moveBegin c e.defHome n | none => n
    let n := leafFor p n
    match takeFrame o.defHome n with
    | some f => ptSet p (some (pgNew o f n.tick)) (if o.defHome = 3 then frameClear f n else n)
    | none => n
  | _, _ => n

/-- One in 16 accesses raises HEAT, up to 7 (R223). -/
def heatUp (tick : Nat) (e : PgEnt) : PgEnt :=
  if (e.acc + 1) % 16 = 0 then { e with acc := e.acc + 1, heat := Nat.min 7 (e.heat + 1), idleAt := tick }
  else { e with acc := e.acc + 1 }

/-- An access waits at the MMU while the page is held (R224). -/
def holdCount (e : PgEnt) (n : Node) : Node := if e.hold then mmuCnt 0x150 1 n else n

/-- Read `len` bytes at a node linear address: whether the data is whole (R217, R232). -/
def memRead (addr len : Nat) (n : Node) : Bool × Node :=
  let p := tpage addr
  match ptGet n p with
  | none => (false, mmuReport 0x03 addr 0 n)
  | some e => (!poisoned n addr len, holdCount e (ptSet p (some (heatUp n.tick e)) n))

/-- An access made for a request of a tenant may touch a page: one of the tenant's own, or of the owner of an object that the tenant
has been granted rights to, and none that is node-internal (R217). -/
def mayTouch (n : Node) (tid : Nat) (e : PgEnt) : Bool :=
  !e.internal && (e.tid = tid || n.granted.any (fun g => g.1 = tid && (n.gens.any (fun x => x.handle = g.2.1 && x.owner = e.tid) ||
    n.tabs.any (fun x => x.handle = g.2.1 && x.owner = e.tid) || n.encoders.any (fun x => x.handle = g.2.1 && x.owner = e.tid))))

/-- An access for a request is refused: reported, counted, and to its reader an uncorrectable read (R217). -/
def mmuRefused (addr tid : Nat) (n : Node) : Node := mmuReport 0x04 addr tid (mmuCnt 0x13C 1 n)

/-- Read for a request of a tenant, or for the node's own work (none). -/
def memReadFor (tid : Option Nat) (addr len : Nat) (n : Node) : Bool × Node :=
  match tid, ptGet n (tpage addr) with
  | some t, some e => if mayTouch n t e then memRead addr len n else (false, mmuRefused addr t n)
  | _, _ => memRead addr len n

/-- Write `len` bytes: the page is mapped, a whole word written loses its poison, a move's granules turn dirty, the
clean copy in flash is discarded (R219, R222, R224, R232). -/
def memWrite (addr len : Nat) (n : Node) : Node :=
  let p := tpage addr
  let n := mapPage p n
  let n := { n with poison := n.poison.filter (fun w => !(addr ≤ w * 4 && w * 4 + 4 ≤ addr + len)) }
  match ptGet n p with
  | none => n
  | some e =>
    let g := addr % 65536 / 256
    let e := heatUp n.tick e
    let e := if e.moving && !e.hold && e.home ≠ 3 then { e with dirty := e.dirty ||| 2 ^ g } else e
    let n := match e.clean with | some f => if e.home = 3 then n else frameDiscard f n | none => n
    let e := if e.home = 3 then e else { e with clean := none }
    let n := { n with mmu := { n.mmu with changed := ninsert p n.mmu.changed } }
    holdCount e (ptSet p (some e) n)

/-- The page of an address is homed in flash. -/
def inFlash (n : Node) (addr : Nat) : Bool :=
  match ptGet n (tpage addr) with | some e => e.home = 3 | none => false

/-! ### Reservations (R219) -/

def quotaGet (n : Node) (tid : Nat) : Quota :=
  sget { stack := 0, dimm := 0, flash := 0, promo := 0, usedStack := 0, usedDimm := 0, usedFlash := 0 } n.mmu.quotas tid

def quotaSet (tid : Nat) (q : Quota) (n : Node) : Node :=
  { n with mmu := { n.mmu with quotas := sset { stack := 0, dimm := 0, flash := 0, promo := 0, usedStack := 0, usedDimm := 0, usedFlash := 0 } n.mmu.quotas tid q } }

/-- Pages reserved in a tier by every tenant. -/
def reservedIn (n : Node) (tier : Nat) : Nat :=
  nsum (n.mmu.quotas.map (fun q => if tier = 1 then q.2.usedStack else if tier = 2 then q.2.usedDimm else q.2.usedFlash))

def freeIn (n : Node) (tier : Nat) : Nat :=
  (if tier = 1 then n.mmu.capStack else if tier = 2 then n.mmu.capDimm else n.mmu.capFlash) - reservedIn n tier

/-- Reserve pages for a tenant; none where a quota or a tier does not hold them (R219). -/
def reserve (tid s d f : Nat) (n : Node) : Option Node :=
  let q := quotaGet n tid
  if q.usedStack + s ≤ q.stack ∧ q.usedDimm + d ≤ q.dimm ∧ q.usedFlash + f ≤ q.flash ∧
      s ≤ freeIn n 1 ∧ d ≤ freeIn n 2 ∧ f ≤ freeIn n 3 then
    some (quotaSet tid { q with
      usedStack := q.usedStack + s, usedDimm := q.usedDimm + d, usedFlash := q.usedFlash + f } n)
  else none

/-- Pages of a role that a map gives this node count against its tenant; at creation `reserve` has held them against the quota
(R59). -/
def reserveMore (tid s d f : Nat) (n : Node) : Node :=
  let q := quotaGet n tid
  quotaSet tid { q with usedStack := q.usedStack + s, usedDimm := q.usedDimm + d, usedFlash := q.usedFlash + f } n

def unreserve (tid s d f : Nat) (n : Node) : Node :=
  let q := quotaGet n tid
  quotaSet tid { q with usedStack := q.usedStack - s, usedDimm := q.usedDimm - d, usedFlash := q.usedFlash - f } n

/-- A segment of the object's tenant (R218): its tenant address and its rights are the node's choice (log 10); a tenant that has
256 gets none. -/
def segmentNew (o : ObjRange) (n : Node) : Node :=
  let mine := n.mmu.segments.filter (fun s => s.tid = o.tid)
  if o.internal ∨ 256 ≤ mine.length then n
  else
    let (x, n) := fresh n
    let (r, n) := fresh n
    let last := nmaxl (mine.map (fun s => s.addr + s.pages * 65536))
    { n with
      mmu := { n.mmu with
        segments := n.mmu.segments ++ [{ tid := o.tid, addr := last + (1 + x % 65535) * 65536, pages := o.pages, base := o.base, rw := r % 2 = 1 }] } }

/-- Hand a range of tier pages to an object; its first address is returned (R214; log 10). -/
def allocRange (o : ObjRange) (n : Node) : Nat × Node :=
  let b := n.mmu.nextPage
  let o : ObjRange := { o with base := b }
  (b * 65536, segmentNew o { n with mmu := { n.mmu with nextPage := b + o.pages, objs := n.mmu.objs ++ [o] } })

/-- The ranges of an object are freed: its pages are unmapped, their units in flash discarded and its segments removed (R17, R218,
R247). -/
def freeRanges (f : ObjRange → Bool) (n : Node) : Node :=
  let gone := n.mmu.objs.filter f
  let inGone := fun p => gone.any (fun o => o.base ≤ p && p < o.base + o.pages)
  let n := n.mmu.ptab.foldl (fun n x => match x.2 with
    | some e => if inGone x.1 then (if e.home = 3 then frameDiscard e.frame n else match e.clean with | some c => frameDiscard c n | none => n) else n
    | none => n) n
  { n with
    mmu := { n.mmu with
      objs := n.mmu.objs.filter (fun o => !f o),
      ptab := n.mmu.ptab.filter (fun e => !inGone e.1),
      segments := n.mmu.segments.filter (fun s => !inGone s.base) } }

/-! ### Tier faults and promotion (R220-R222) -/

/-- Pages that a tenant holds under its promotion allowance; one on its way back to flash has left it. -/
def promotedOf (n : Node) (tid : Nat) : List (Nat × PgEnt) :=
  n.mmu.ptab.filterMap (fun e => match e.2 with
    | some g => if g.tid = tid && ((g.promoted && !(g.moving && g.target = 3)) || (g.moving && g.home = 3)) then some (e.1, g) else none
    | none => none)

/-- The tenant's promoted page with the lowest HEAT, the least recently promoted among equals (R220). -/
def coldestPromoted (n : Node) (tid : Nat) : Option (Nat × PgEnt) :=
  lleast (fun a b => decide (a.2.heat < b.2.heat) || (a.2.heat = b.2.heat && decide (a.2.order < b.2.order)))
    ((promotedOf n tid).filter (fun x => x.2.promoted && !x.2.moving && !x.2.pinned))

/-- Room for one more promoted page of a tenant: a full allowance first demotes the coldest (R220); none where there is none to
demote. -/
def promoRoom (tid : Nat) (n : Node) : Option Node :=
  if (promotedOf n tid).length < (quotaGet n tid).promo then some n
  else
    match coldestPromoted n tid with
    | none => none
    | some c =>
      let m := moveBegin c.1 3 n
      if (promotedOf m tid).length < (promotedOf n tid).length then some m else none

/-- The memory tiers that a page may be promoted to: the default one, then the other allowed one (R222). -/
def promoTiers (e : PgEnt) : List Nat :=
  let l := (if nbit e.allowed 1 then [2] else []) ++ (if nbit e.allowed 0 then [1] else [])
  if e.defHome = 1 then l.reverse else l

/-- The promotion of a flash-homed page begins (R222), where its tenant's allowance has room and a frame is free. -/
def promoBegin (p : Nat) (n : Node) : Node :=
  match ptGet n p with
  | none => n
  | some e =>
    if e.moving ∨ e.home ≠ 3 ∨ (promoTiers e).isEmpty then n
    else match promoRoom e.tid n with
      | none => n
      | some m =>
        match (promoTiers e).findSome? (fun t => (takeFrame t m).map (fun f => (t, f))) with
        | none => m
        | some (t, f) => ptSet p (some { e with moving := true, target := t, tframe := f, dirty := 0 }) m

/-- Promotions that faults wait for begin as allowance and frames come free. -/
def promoRetry (n : Node) : Node :=
  (n.mmu.ptab.filter (fun x => match x.2 with | some e => !e.waiters.isEmpty && e.home = 3 && !e.moving | none => false)).foldl
    (fun n x => promoBegin x.1 n) n

/-- A fault on a flash-homed page: the promotion starts, or the access joins it (R222). Where the tenant has no promotion allowance or
no frame is free, the access waits until one is (log 10). -/
def tierFault (p w : Nat) (n : Node) : Node :=
  let n := mmuCnt 0x140 1 n
  match ptGet n p with
  | none => n
  | some e => promoBegin p (ptSet p (some { e with waiters := e.waiters ++ [w] }) n)

/-! ### Open rows (R98-R100, R126) -/

def mscCnt (s off k : Nat) (n : Node) : Node := bump (regAddr .msc s off) k n

/-- An MSC Clove report: unit, row, odd bank, and the shard id (R130). -/
def mscReport (k code row : Nat) (odd : Bool) (shard : Nat) (n : Node) : Node :=
  report .msc (k / 768) code (k % 768 + row % 65536 * 2 ^ 10 + b2n odd * 2 ^ 26) (shard % 65536) n

/-- The physical row of a unit's bank and row. -/
def unitRow (k : Nat) (r : Bool × Nat) : Nat := (k * 2 + b2n r.1) * 65536 + r.2 % 65536

/-- The shard and the place in its reservation of a physical row. -/
def rowOwner (n : Node) (p : Nat) : Option (ShardKey × Nat) :=
  let page := p / 131072 * 2048 + p % 65536 / 32
  match n.openPages.find? (fun x => x.1 = page) with
  | none => none
  | some (_, key) =>
    match shardFind n key with
    | none => none
    | some s => (s.pages.findIdx? (fun x => x = page)).map (fun i =>
        (key, i * 64 + p % 65536 % 32 * 2 + p / 65536 % 2))

def drowEmpty : DRow := { kind := 0, base := 0, first := 0, last := 0, ents := [], bad := false, asked := false, release := 0 }

/-- Change what the node keeps of row `i` of a shard's reservation; rows never used are EMPTY. -/
def drowMod (key : ShardKey) (i : Nat) (f : DRow → DRow) (n : Node) : Node :=
  shardMod key (fun s => { s with
    drows := (s.drows ++ List.replicate (i + 1 - s.drows.length) drowEmpty).mapIdx (fun j d => if j = i then f d else d) }) n

/-- A bad row is counted, reported by whether its CRC matched, and marked for rebuild (R126). -/
def badRow (k : Nat) (r : Bool × Nat) (shard : Nat) (n : Node) : Node :=
  let row := openRow n (unitRow k r)
  let crcOk := crc16 { len := 1022, bits := row % 2 ^ 8176 } = rowCrc row
  let n := mscReport k (if crcOk then 0x03 else 0x02) r.2 r.1 shard (mscCnt (k / 768) 0x14C 1 n)
  match rowOwner n (unitRow k r) with
  | some (key, i) => drowMod key i (fun d => { d with bad := true, asked := d.bad && d.asked }) n
  | none => n

/-- CODE_BYTES of a shard's rows. -/
def shardCB (n : Node) (key : ShardKey) : Nat := (match genFind n key.handle key.gen with | some g => gM g | none => 64) / 2

/-- The row at a place of a shard's reservation fails the test of R112. -/
def placeBad (n : Node) (s : Shard) (i : Nat) : Bool :=
  rowBad (openRow n (physRow s i)) s.key.shard (shardCB n s.key) (shardCB n s.key + 8)

/-- The stack controller reads a delta row and checks it before it uses any byte (R100): none for a row that awaits its rebuild, or
that the read finds bad (R126). -/
def ctlRead (key : ShardKey) (i : Nat) (n : Node) : Option Nat × Node :=
  match shardFind n key with
  | none => (none, n)
  | some s =>
    let p := physRow s i
    if (s.drows.getD i drowEmpty).bad then (none, n)
    else if placeBad n s i then (none, badRow (physUnit p) (physOdd p, physNum p) key.shard n)
    else (some (openRow n p), n)

/-- The controller's reads of the non-empty rows of a shard that `sel` names: bad ones are found here. -/
def ctlReads (key : ShardKey) (sel : Nat → Bool) (n : Node) : Node :=
  match shardFind n key with
  | none => n
  | some s => (s.drows.mapIdx (fun i d => (i, d))).foldl (fun n x =>
      if x.2.kind ≠ 0 && sel x.1 then (ctlRead key x.1 n).2 else n) n

/-- The rows of a shard that a checked read passes, with their places and records. -/
def goodRows (n : Node) (s : Shard) : List (Nat × DRow × Nat) :=
  ((s.drows.mapIdx (fun i d => (i, d))).filter (fun x => x.2.kind ≠ 0 && !x.2.bad && !placeBad n s x.1)).map
    (fun x => (x.1, x.2, openRow n (physRow s x.1)))

/-- The entries that are not FOLDED, with their rows' places (R166). -/
def unfoldedEnts (n : Node) (s : Shard) : List (Nat × DEnt) :=
  ((goodRows n s).filter (fun x => x.2.1.kind = 1 || x.2.1.kind = 2)).flatMap (fun x =>
    ((rowEnts x.2.2).filter (fun e => !e.folded)).map (fun e => (x.1, e)))

end Sys2Proof.Machine
end

