-- ==== Sys2Proof/Machine/Flash.lean ====
section
/-!
DEFINITION. Sys2Proof/Machine/Flash.lean: the flash translation layer's map, blocks, write buffer and spare pool
(R237-R246, R251, R252). A block stands for the same block number on every plane of its LUN (log 15).
-/
namespace Sys2Proof.Machine

def fchCnt (ch off k : Nat) (n : Node) : Node := bump (regAddr .fch ch off) k n

/-- Health log counters (R254), by their offset. -/
def healthAdd (off k : Nat) (n : Node) : Node :=
  ftlMod (fun f => { f with health := sset 0 f.health off (sget 0 f.health off + k) }) n

def healthSet (off v : Nat) (n : Node) : Node := ftlMod (fun f => { f with health := sset 0 f.health off v }) n

/-! ### Blocks -/

/-- Channel, chip enable, LUN and block number of a block code. -/
def blkCode (ch ce lun block : Nat) : Nat := ((ch * 8 + ce) * 4 + lun) * 2 ^ 17 + block
def codeOf (b : BlockId) : Nat := blkCode b.ch.val b.ce.val b.lun.val b.block
def lunOf (b : Nat) : Nat := b / 2 ^ 17
def chOf (b : Nat) : Nat := b / 2 ^ 17 / 32
def blkNo (b : Nat) : Nat := b % 2 ^ 17

/-- An FTL or FCH report (R256): where in INFO_LO, page and slot in INFO_HI. -/
def flashReport (blk : Blk) (i code b plane page slot : Nat) (n : Node) : Node :=
  report blk i code (chOf b + lunOf b / 4 % 8 * 2 ^ 5 + lunOf b % 4 * 2 ^ 8 + plane % 8 * 2 ^ 10 + blkNo b * 2 ^ 13)
    (page % 4096 + slot % 4 * 2 ^ 12) n

def pkgOf (n : Node) (b : Nat) : Pkg :=
  (sget none n.ftl.pkgs (lunOf b / 4)).getD { luns := 0, planes := 1, blocks := 0, pages := 0, wl := 1, single := true, rated := 0 }

/-- Slots of a page set: four to a page, over all planes (R241). -/
def setSlots (p : Pkg) : Nat := 4 * Nat.max 1 p.planes

def fblkNew : FBlk :=
  { state := 0, stream := 0, next := 0, reads := 0, erases := 0, closed := 0, held := 0, uncorr := 0, due := false, scanned := false }

def fblkGet (n : Node) (b : Nat) : FBlk := (sget none n.ftl.blocks b).getD fblkNew
def fblkSet (b : Nat) (v : FBlk) (n : Node) : Node := ftlMod (fun f => { f with blocks := sset none f.blocks b (some v) }) n
def fblkMod (b : Nat) (f : FBlk → FBlk) (n : Node) : Node := fblkSet b (f (fblkGet n b)) n

/-- LUNs in the pool. -/
def poolLuns (n : Node) : List Nat :=
  n.ftl.pkgs.flatMap (fun p => match p.2 with
    | some k => ((List.range k.luns).map (fun l => p.1 * 4 + l)).filter (fun l =>
        !n.ftl.lunOut.contains l && !nbit (rfield n .fch (p.1 / 8) 0x104 31 24) (p.1 % 8))
    | none => [])

/-- The first erased block of a LUN from a block number on. -/
def erasedFrom (n : Node) (lun blocks : Nat) : Nat → Nat → Option Nat
  | 0, _ => none
  | k + 1, i =>
    let b := lun * 2 ^ 17 + i % blocks
    if (fblkGet n b).state = 0 then some b else erasedFrom n lun blocks k (i + 1)

/-- A block to open: which erased block is the FTL's choice (R241). -/
def chooseBlock (n : Node) : Option Nat × Node :=
  let luns := (poolLuns n).filter (fun l =>
    0 < (pkgOf n (l * 2 ^ 17)).blocks && (erasedFrom n l (pkgOf n (l * 2 ^ 17)).blocks (pkgOf n (l * 2 ^ 17)).blocks 0).isSome)
  match luns with
  | [] => (none, n)
  | l0 :: ls =>
    let (l, n) := pick l0 (l0 :: ls) n
    let blocks := (pkgOf n (l * 2 ^ 17)).blocks
    let (x, n) := fresh n
    (erasedFrom n l blocks blocks (x % blocks), n)

/-- The erased block of the pool with the most erases (R244). -/
def wornBlock (n : Node) : Option Nat :=
  let luns := poolLuns n
  (lleast (fun (a b : Nat × Nat) => decide (b.2 < a.2)) (n.ftl.blocks.filterMap (fun x => match x.2 with
    | some k => if k.state = 0 && luns.contains (lunOf x.1) then some (x.1, k.erases) else none
    | none => none))).map (·.1)

/-- Ticks of powered time since the pool's first format (R245, R254). -/
def powered (n : Node) : Nat := ticksS (sget 0 n.ftl.health 0x98) + (n.tick - n.ftl.rootAt)

/-- Two next blocks are reserved for each stream that lacks them; a reserved block holds nothing yet (R249). -/
def reserveBlocks (n : Node) : Node :=
  (List.range 5).foldl (fun n st =>
    (List.range (2 - (sget [] n.ftl.resv st).length)).foldl (fun n _ =>
      let (c, n) := chooseBlock n
      match c with
      | some b => ftlMod (fun f => { f with resv := sset [] f.resv st (sget [] f.resv st ++ [b]) }) (fblkMod b (fun k => { k with state := 5 }) n)
      | none => n) n) n

/-! ### Spares and the pool's state (R251) -/

/-- Blocks retired for good. -/
def retiredBlocks (n : Node) : Nat := (n.ftl.blocks.filter (fun x => match x.2 with | some k => k.state = 3 | none => false)).length

def poolFormatted (n : Node) : Bool := n.ftl.pool = 2 || n.ftl.pool = 3

/-- The pool goes READ_ONLY. -/
def goReadOnly (b : Nat) (n : Node) : Node :=
  if poolFormatted n then
    flashReport .ftl 0 0x08 b 0 0 0
      (healthSet 0x90 (sget 0 n.ftl.health 0x98) (ftlMod (fun f => { f with pool := 4 }) n))
  else n

/-- A block leaves for good and is drawn from the spare pool (R246, R251). `cause`: the health log's offset. -/
def retire (b cause : Nat) (n : Node) : Node :=
  let n := fblkMod b (fun k => { k with state := 3, due := false }) n
  let n := healthAdd cause 1 n
  if n.ftl.spareNow = 0 then goReadOnly b n
  else
    let n := ftlMod (fun f => { f with spareNow := f.spareNow - 1 }) n
    let warn := rfield n .ftl 0 0x110 23 16
    if n.ftl.pool = 2 ∧ n.ftl.spareNow * 100 < warn * n.ftl.spareInit then
      flashReport .ftl 0 0x07 b 0 0 0 (ftlMod (fun f => { f with pool := 3 }) n)
    else n

/-! ### The map (R238, R239) and slot headers (R240) -/

/-- The 8-byte map entry of a unit (R238). -/
def fmapWord : Option FMap → Nat
  | none => 0
  | some m =>
    (m.mstate % 4) <<< 62 + (chOf m.blk % 32) <<< 57 + (lunOf m.blk / 4 % 8) <<< 54 + (lunOf m.blk % 4) <<< 52 + (m.slot / 4 % 8) <<< 49 +
      blkNo m.blk <<< 32 + (m.page % 2 ^ 12) <<< 20 + (m.slot % 4) <<< 18

/-- STREAM of a slot header: stream 6 of the model is a second open block of RECLAIM, for wear moves (R244). -/
def streamCode (stream : Nat) : Nat := if stream = 6 then 4 else stream

/-- The 32-byte slot header of a unit and its 4,096 data bytes (R240). -/
def slotHeader (u : WUnit) (data : Blob) : BitVec 256 :=
  BitVec.ofNat 256 (u.seq % 2 ^ 64 + (u.ua % 2 ^ 35) <<< 64 + (streamCode u.stream % 16) <<< 124 +
    crc32c (bslice data 0 4096) <<< 128 + (u.tid % 2 ^ 12) <<< 180)

/-- A decoded slot is the unit asked for, and whole: its UA and DATA_CRC match (R243). -/
def slotGood (ua : Nat) (hdr : BitVec 256) (data : Blob) : Bool :=
  nbits hdr.toNat 98 64 = ua % 2 ^ 35 && nbits hdr.toNat 159 128 = crc32c (bslice data 0 4096)

/-- Units whose valid copy lies in a block. -/
def validIn (n : Node) (b : Nat) : List (Nat × FMap) :=
  n.ftl.map.filterMap (fun e => match e.2 with
    | some m => if m.mstate = 1 && m.blk = b then some (e.1, m) else none
    | none => none)

/-- A unit becomes LOST (R243). -/
def loseUnit (ua : Nat) (n : Node) : Node :=
  match fmapGet n ua with
  | some m =>
    if m.mstate = 1 then healthAdd 0x68 1 (ftlCnt 0x134 1 (fmapSet ua (some { m with mstate := 3 }) n)) else n
  | none => n

/-- The unit of a page at home in flash at a node linear address is DISCARDED. -/
def discardedAt (n : Node) (a : Nat) : Bool :=
  match ptGet n (tpage a) with
  | some e => e.home = 3 && (match fmapGet n (e.frame * 16 + a % 65536 / 4096) with | some m => m.mstate = 2 | none => false)
  | none => false

/-- Bytes read in flash from address `a` on, unit by unit: a DISCARDED unit gives its last content or zeros, at each read anew. -/
def unitsRead : Nat → Nat → Blob → Node → Blob × Node
  | 0, _, b, n => (b, n)
  | k + 1, a, b, n =>
    let cut := Nat.min b.len (4096 - a % 4096)
    let (x, n) := if discardedAt n a then fresh n else (0, n)
    let (r, n) := unitsRead k (a + cut) (bslice b cut (b.len - cut)) n
    (bappend (if x % 2 = 0 then bslice b 0 cut else bofNat cut 0) r, n)

/-- A read of flash in which no unit is DISCARDED gives the content (R238, R247). -/
def flashBytes (a : Nat) (b : Blob) (n : Node) : Blob × Node :=
  let k := (a % 4096 + b.len + 4095) / 4096
  if (List.range k).any (fun i => discardedAt n (a / 4096 * 4096 + 4096 * i)) then unitsRead k a b n else (b, n)

/-! ### Writing (R241) -/

/-- Single-bit mode: JOURNAL and MAP streams on packages that offer it (R240). -/
def singleBit (p : Pkg) (stream : Nat) : Bool := p.single && (stream = 0 || stream = 1)

/-- Issue the program of a stream's page set: its buffered units go to the media. -/
def programSet (b : Nat) (n : Node) : Node :=
  let us := n.ftl.buf.filter (fun u => u.blk = b && u.stage = 0)
  if us.isEmpty then n
  else
    fchCnt (chOf b) 0x114 1 (ftlMod (fun f => { f with
      buf := f.buf.map (fun u => if u.blk = b && u.stage = 0 then { u with stage := 1 } else u) }) n)

/-- The open block of a stream; where there is none, one reserved for it is opened, or another erased one, for wear moves the one with
the most erases (R244, R249). -/
def streamBlock (stream : Nat) (n : Node) : Option Nat × Node :=
  match sget 0 n.ftl.opens stream with
  | b + 1 => (some b, n)
  | 0 =>
    let (c, n) := match sget [] n.ftl.resv stream, (if stream = 6 then wornBlock n else none) with
      | b :: l, _ => (some b, ftlMod (fun f => { f with resv := sset [] f.resv stream l }) n)
      | [], some b => (some b, n)
      | [], none => chooseBlock n
    match c with
    | none => (none, goReadOnly 0 n)
    | some b =>
      (some b, ftlMod (fun f => { f with opens := sset 0 f.opens stream (b + 1) })
        (fblkMod b (fun k => { k with
          state := 1, stream := stream, next := 0, held := powered n, reads := 0, due := false, uncorr := 0 }) n))

/-- The next slot of a stream's open block is taken; a full page set is programmed and a full block closed. -/
def placeUnit (u : WUnit) (b : Nat) (n : Node) : Node :=
  let p := pkgOf n b
  let k := fblkGet n b
  let u := { u with blk := b, page := k.next / setSlots p, slot := k.next % setSlots p, stage := 0 }
  let next := k.next + 1
  let n := ftlMod (fun f => { f with buf := f.buf ++ [u] }) (fblkSet b { k with next := next } n)
  let n := if next % setSlots p = 0 then programSet b n else n
  if p.pages * setSlots p ≤ next then
    ftlMod (fun f => { f with opens := sset 0 f.opens k.stream 0 }) (fblkMod b (fun k => { k with state := 2, closed := n.ftl.seq }) n)
  else n

/-- A writer hands over a unit (step 1): WRITE_SEQ and slot assigned; refused where the pool places nothing (R251,
R252). -/
def unitWrite (ua stream tid : Nat) (data : Blob) (jour : Option (ShardKey × Nat)) (ckpt : Option ShardKey) (n : Node) : Bool × Node :=
  if !poolFormatted n then (false, if n.ftl.pool = 4 then ftlCnt 0x144 1 n else n)
  else
    let (b, n) := streamBlock stream n
    match b with
    | none => (false, ftlCnt 0x144 1 n)
    | some b =>
      let n := ftlMod (fun f => { f with seq := f.seq + 1 }) n
      let n := healthAdd 0x50 1 n
      (true, placeUnit { ua := ua, seq := n.ftl.seq, stream := stream, tid := tid, data := data, at_ := n.tick, blk := b, page := 0,
                         slot := 0, stage := 0, jour := jour, ckpt := ckpt } b n)

def streamNo : Stream → Nat
  | .journal => 0
  | .map => 1
  | .data => 2
  | .checkpoint => 3
  | .reclaim => 4
  | .filler => 5

/-- Pad to a slot position with FILLER slots; the page sets they complete are programmed. -/
def fillTo (b target : Nat) : Nat → Node → Node
  | 0, n => n
  | k + 1, n =>
    if (fblkGet n b).next < target then
      let n := ftlMod (fun f => { f with seq := f.seq + 1 }) (healthAdd 0x50 1 n)
      fillTo b target k (placeUnit { ua := 0, seq := n.ftl.seq, stream := 5, tid := 0, data := bempty, at_ := n.tick, blk := b,
                                     page := 0, slot := 0, stage := 0, jour := none, ckpt := none } b n)
    else n

/-- The page set of a stream FLUSH_US after its first unit, padded (R241). -/
def flushStream (stream : Nat) (n : Node) : Node :=
  match sget 0 n.ftl.opens stream with
  | 0 => n
  | b + 1 =>
    match n.ftl.buf.find? (fun u => u.blk = b && u.stage = 0) with
    | none => n
    | some u =>
      let n := reach (u.at_ + ticksUs (rfield n .ftl 0 0x104 15 8)) n
      let p := pkgOf n b
      let next := (fblkGet n b).next
      fillTo b ((next + setSlots p - 1) / setSlots p * setSlots p) (setSlots p) n

/-- A multi-bit stream idle for 1 ms fills its open word line (R241). -/
def fillWordLine (stream : Nat) (n : Node) : Node :=
  match sget 0 n.ftl.opens stream with
  | 0 => n
  | b + 1 =>
    let p := pkgOf n b
    if singleBit p stream then n
    else
      match (n.ftl.buf.filter (fun u => u.blk = b)).getLast? with
      | none => n
      | some u =>
        let n := reach (u.at_ + ticksMs 1) n
        let w := setSlots p * Nat.max 1 p.wl
        let next := (fblkGet n b).next
        fillTo b ((next + w - 1) / w * w) w n

/-- Units of the node's own journal and checkpoints take addresses above every frame (log 10). -/
def ownUa (n : Node) : Nat × Node := (2 ^ 34 + n.ftl.nextUa, ftlMod (fun f => { f with nextUa := (f.nextUa + 1) % 2 ^ 33 }) n)

/-- Write units of the node's own on a stream; their addresses. -/
def ownWrite (stream : Nat) (jour : Option (ShardKey × Nat)) (ckpt : Option ShardKey) : List Blob → Node → List Nat × Node
  | [], n => ([], n)
  | d :: l, n =>
    let (ua, n) := ownUa n
    let (uas, n) := ownWrite stream jour ckpt l (unitWrite ua stream 0 d jour ckpt n).2
    (ua :: uas, n)

/-- A byte string in units of 4,096 bytes. -/
def unitsOf (b : Blob) : List Blob := (List.range ((b.len + 4095) / 4096)).map (fun i => bslice b (4096 * i) 4096)

/-- The node's own units are no longer needed: they are UNWRITTEN (R160, R248). -/
def ownRelease (uas : List Nat) (n : Node) : Node := uas.foldl (fun n ua => fmapSet ua none n) n

/-- The 4,096 bytes of a map page (R238). -/
def mapPageBytes (n : Node) (p : Nat) : Blob := bconcat ((List.range 512).map (fun i => bofNat 8 (fmapWord (fmapGet n (512 * p + i)))))

/-- A map page is written through the MAP stream; the directory's entry follows once it is in flash. -/
def mapPageWrite (p : Nat) (n : Node) : Node := (unitWrite (mapUa p) 1 0 (mapPageBytes n p) none none n).2

/-- Write `len` bytes of an object: memory, or for a flash-homed page the units that hold them (R221, R241). The
content is kept with the object (log 16). -/
def storeBytes (addr len tid : Nat) (n : Node) : Node :=
  let n := memWrite addr len n
  match ptGet n (tpage addr) with
  | none => n
  | some e =>
    if e.home = 3 then
      let u0 := addr % 65536 / 4096
      let u1 := (addr % 65536 + Nat.max 1 len - 1) / 4096
      (List.range (u1 + 1 - u0)).foldl (fun n i => (unitWrite (e.frame * 16 + u0 + i) 2 tid bempty none none n).2) n
    else n

/-! ### Moving and erasing (R244-R246) -/

/-- A block's valid units move through the RECLAIM stream; their content and state stay (R244). -/
def moveUnits (b : Nat) (n : Node) : Node :=
  (validIn n b).foldl (fun n u => (unitWrite u.1 4 u.2.tid u.2.data none none n).2) n

/-- The valid units of a block of few erases move into a block of many (R244). -/
def wearUnits (b : Nat) (n : Node) : Node :=
  (validIn n b).foldl (fun n u => (unitWrite u.1 6 u.2.tid u.2.data none none n).2) n

/-- Units still buffered for a block are placed again elsewhere (R246). -/
def replaceUnits (b : Nat) (n : Node) : Node :=
  let us := n.ftl.buf.filter (fun u => u.blk = b && u.stream ≠ 5)
  let n := ftlMod (fun f => { f with buf := f.buf.filter (fun u => u.blk ≠ b) }) n
  us.foldl (fun n u =>
    let (c, n) := streamBlock u.stream n
    match c with
    | none => n
    | some c => placeUnit u c n) n

/-- Close a block that a stream writes. -/
def closeBlock (b : Nat) (n : Node) : Node :=
  let k := fblkGet n b
  if k.state = 1 then
    ftlMod (fun f => { f with opens := sset 0 f.opens k.stream 0 }) (fblkSet b { k with state := 2, closed := n.ftl.seq } n)
  else n

end Sys2Proof.Machine
end

