-- ==== Sys2Proof/Machine/Walk.lean ====
section
/-!
DEFINITION. Sys2Proof/Machine/Walk.lean: the lookup table (R64-R68), graph walk engines and their contexts (R69-R94).
-/
namespace Sys2Proof.Machine

/-! ### The lookup table -/

/-- FP32 with a flag that some operation left the FP32 range (R66). -/
def fAddO (a : F32 × Bool) (b : F32 × Bool) : F32 × Bool :=
  let r := f32RoundS (dyAdd (f32Dy a.1) (f32Dy b.1)); (r.1, a.2 || b.2 || r.2)

def fMulO (a : F32 × Bool) (b : F32 × Bool) : F32 × Bool :=
  let r := f32RoundS (dyMul (f32Dy a.1) (f32Dy b.1)); (r.1, a.2 || b.2 || r.2)

def fNegO (a : F32 × Bool) : F32 × Bool := (f32Flip a.1, a.2)

def fDivO (a : F32 × Bool) (b : F32 × Bool) : F32 × Bool :=
  let r := f32RoundS (dyDiv (f32Dy a.1) (f32Dy b.1)); (r.1, a.2 || b.2 || r.2)

/-- The partial distance of one subspace and centroid (R64). Metrics: 0 L2SQ, 1 IP, 2 COSINE. -/
def partialDist (metric m : Nat) (q c : List F32) : F32 × Bool :=
  let qc := q.zip c
  if metric = 0 then
    qc.foldl (fun acc p =>
      let d := fAddO (p.1, false) (f32Flip p.2, false)
      fAddO acc (fMulO d d)) (0, false)
  else
    let s := qc.foldl (fun acc p => fAddO acc (fMulO (p.1, false) (p.2, false))) ((0 : F32), false)
    if metric = 1 then fNegO s
    else fAddO (fDivO (f32OfNat 1, false) (f32OfNat m, false)) (fNegO s)

def fMinL (l : List F32) : F32 := match l with | [] => 0 | x :: r => r.foldl (fun b y => if f32Lt y b then y else b) x
def fMaxL (l : List F32) : F32 := match l with | [] => 0 | x :: r => r.foldl (fun b y => if f32Lt b y then y else b) x

/-- The LUT of a query (R65); none where a value leaves the FP32 range (R66). -/
def buildLut (g : IdxGen) (book : Blob) (q : List F32) : Option Lut :=
  let m := gM g
  let w := gWidth g
  let d := (List.range m).map (fun s => (List.range 16).map (fun c =>
    partialDist (gMetric g) m (subPart q w s) (centroid book w s c)))
  let bad := d.any (fun r => r.any (·.2))
  let v := d.map (fun r => r.map (·.1))
  let mins := v.map fMinL
  let spans := v.map (fun r => fAddO (fMaxL r, false) (f32Flip (fMinL r), false))
  let span := fMaxL (spans.map (·.1))
  let scale0 := f32Div span (f32OfNat 255)
  let zero := f32Zero scale0
  let scale := if zero then f32OfNat 1 else scale0
  let minsum := mins.foldl (fun acc x => fAddO acc (x, false)) ((0 : F32), false)
  let e := if zero then List.replicate (m * 16) 0 else
    (v.zip mins).flatMap (fun p => p.1.map (fun x =>
      Nat.min 255 (dyRoundInt (f32Dy (f32Div (f32Sub x p.2) scale))).toNat))
  if bad || spans.any (·.2) || minsum.2 then none
  else some { scale := scale, minsum := minsum.1, gen := g.gen, m := m, zeroSpan := zero, handle := g.handle, e := e }

/-- The exact code sum of a packed code (R68). -/
def laneSum (l : Lut) (code : Nat) : Nat :=
  nsum ((List.range l.m).map (fun s => l.e.getD (16 * s + codeAt code s) 0))

/-- A LUT record as it travels and is stored: 16 bytes of header, then entry e[s][c] at 0x10 + 16 s + c (R67). -/
def lutRecord (l : Lut) : Blob :=
  bconcat [bofNat 4 l.scale.toNat, bofNat 4 l.minsum.toNat, bofNat 4 (l.gen % 2 ^ 16 * 2 ^ 16 + l.m % 256 * 2 ^ 8 + b2n l.zeroSpan),
    bofNat 4 l.handle, bofList l.e]

/-- The estimate of a code sum, never -0 (R68). An operation that leaves the FP32 range gives the largest finite value, as R144 has it
for exact distances; R68 states no result there (DESIGN CHOICE, log 155). -/
def estimate (l : Lut) (t : Nat) : F32 :=
  let r := f32Add (f32Mul l.scale (f32OfNat t)) l.minsum
  if f32Zero r then 0 else r

/-! ### Sub-requests at the holder -/

def subFind (n : Node) (id : Nat) : Option SubReq := n.subReqs.find? (fun s => s.id = id)

def subMod (id : Nat) (f : SubReq → SubReq) (n : Node) : Node :=
  { n with subReqs := lmodify (fun s => s.id = id) f n.subReqs }

/-- Energy figures are measured and left open (R331). -/
def measured (n : Node) : Nat × Node := fresh n

/-! ### Engines and contexts -/

def engPage (e : Nat) : Nat := pageOf .gwe e

def engEmpty : Eng := { ready := [], luts := [], lutLoads := 0, drainAt := none, expNs := [], fills := [] }

def engGet (n : Node) (e : Nat) : Eng := sget engEmpty n.engs e

def engSet (e : Nat) (v : Eng) (n : Node) : Node := { n with engs := sset engEmpty n.engs e v }

def ctxGet (n : Node) (e c : Nat) : Option Ctx := sget none n.ctxs (e * 512 + c)

def ctxSet (e c : Nat) (v : Option Ctx) (n : Node) : Node := { n with ctxs := sset none n.ctxs (e * 512 + c) v }

def gweCnt (e off k : Nat) (n : Node) : Node := bump (engPage e * 0x1000 + off) k n

def ctxMod (e c : Nat) (f : Ctx → Ctx) (n : Node) : Node :=
  match ctxGet n e c with | some x => ctxSet e c (some (f x)) n | none => n

/-- A GWE report: the context, and the failing address in 4 KiB units (R94). -/
def gweReport (e c code addr : Nat) (n : Node) : Node :=
  report .gwe e code (c % 512 + addr / 4096 % 2 ^ 20 * 2 ^ 12) (addr / 2 ^ 32 % 2 ^ 20) n

/-- A context slot that can take a walk. -/
def slotFree (n : Node) (e c : Nat) : Bool := (ctxGet n e c).isNone && !n.ctxDead.contains (e * 512 + c)

/-- FREE contexts of an engine (R93, R338). -/
def freeCount (n : Node) (e : Nat) : Nat :=
  let inE := fun k => e * 512 ≤ k && k < e * 512 + 512
  512 - (n.ctxs.filter (fun x => inE x.1)).length - (n.ctxDead.filter (fun k => inE k && (sget none n.ctxs k).isNone)).length

/-- The first free context, or the first free gang of four (R69). -/
def freeSlot (n : Node) (e : Nat) (gang : Bool) : Option Nat :=
  if gang then ((List.range 128).find? (fun j => (List.range 4).all (fun k => slotFree n e (4 * j + k)))).map (4 * ·)
  else (List.range 512).find? (slotFree n e)

/-- Contexts of an engine in folding walks. -/
def foldCount (n : Node) (e : Nat) : Nat :=
  (n.ctxs.filter (fun x => x.1 / 512 = e && (match x.2 with | some c => c.fold | none => false))).length

/-- FOLD_MAX lets a folding walk onto an engine (R91). -/
def foldRoom (n : Node) (gang : Bool) (e : Nat) : Bool :=
  foldCount n e + (if gang then 4 else 1) ≤ rfield n .gwe e 0x104 23 16

/-- The engine of a walk among those that `ok` admits (R92): one that holds its LUT and has room, otherwise the one with the most free
contexts. -/
def placeEngine (lutAddr : Nat) (gang : Bool) (ok : Nat → Bool) (n : Node) : Option (Nat × Nat) × Node :=
  let room := (activeUnits n .gwe).filter (fun e => ok e && (freeSlot n e gang).isSome)
  let withLut := room.filter (fun e => (engGet n e).luts.contains lutAddr)
  let best := nmaxl (room.map (freeCount n))
  let l := if withLut.isEmpty then room.filter (fun e => freeCount n e = best) else withLut
  if l.isEmpty then (none, n)
  else
    let (e, n) := pick 0 l n
    (some (e, (freeSlot n e gang).getD 0), n)

/-! ### Where LUT records lie (R84) -/

/-- The k-th place for a LUT record: 16 of 4 KiB in each node-internal page kept for them (log 151). -/
def lutPlace (n : Node) (k : Nat) : Nat := n.lutPages.getD (k / 16) 0 * 65536 + k % 16 * 4096

/-- Places that a sub-request or a walk uses. -/
def lutTaken (n : Node) : List Nat :=
  n.subReqs.map (·.lutAddr) ++ n.ctxs.filterMap (fun x => x.2.map (·.lutAddr)) ++ n.saved.flatMap (fun w => w.ctxs.map (·.lutAddr))

/-- Store a LUT record at the lowest place that is free, a page more where none is; its LUT_ADDR. -/
def lutStore (l : Lut) (n : Node) : Nat × Node :=
  let taken := lutTaken n
  let k := ((List.range (16 * n.lutPages.length)).find? (fun k => !taken.contains (lutPlace n k))).getD (16 * n.lutPages.length)
  let n := if k / 16 < n.lutPages.length then n
    else
      let (a, n) := allocRange { base := 0, pages := 1, allowed := 3, defHome := 1, open_ := false, internal := true, pinned := false,
                                 tid := 0, what := 11, key := { handle := 0, gen := 0, shard := 0 } } n
      { n with lutPages := n.lutPages ++ [a / 65536] }
  (lutPlace n k, memWrite (lutPlace n k) (lutRecord l).len n)

/-- The contexts of the walk that a context belongs to, leader first. -/
def walkCtxs (n : Node) (e c : Nat) : List Nat :=
  match ctxGet n e c with
  | none => []
  | some x => if x.role = 0 then [c] else (List.range 4).map (fun k => c / 4 * 4 + k)

def leaderOf (n : Node) (e c : Nat) : Nat :=
  match ctxGet n e c with | some x => if x.role = 2 then c / 4 * 4 else c | none => c

def freeWalk (e : Nat) (cs : List Nat) (n : Node) : Node :=
  let n := cs.foldl (fun n c => ctxSet e c none n) n
  let g := engGet n e
  engSet e { g with ready := g.ready.filter (fun c => !cs.contains c) } n

/-- Set bits of a number below 2^k. -/
def popCount : Nat → Nat → Nat
  | 0, _ => 0
  | k + 1, x => x % 2 + popCount k (x / 2)

/-- A walk marked SHADOW becomes a unit of sampled work (R341). -/
def shadowAdd (page lo hi : Nat) (n : Node) : Node :=
  { n with
    shadows := n.shadows ++ [{ id := n.nextWork, page := page, ended := n.tick, on := none, differs := false, lo := lo, hi := hi }],
    nextWork := n.nextWork + 1 }

/-- Whether a unit of work is sampled: one in 2^SHADOW_LOG2, at random (R341). -/
def sampled (n : Node) : Bool × Node :=
  let l := rfield n .recb 0 0x100 4 0
  if l = 0 then (false, n)
  else
    let (x, n) := fresh n
    (x % 2 ^ l = 0, n)

/-- The sub-request answers FAILED_RETRYABLE (R23) and is over. -/
def subFailed (id : Nat) (n : Node) : Node :=
  match subFind n id with
  | none => n
  | some s =>
    let (e, n) := measured n
    let n := sendTag s.src s.tag (.partialMsg { shard := s.msg.key.shard, status := 4, failed := true, shortfall := false,
                                                widenUsed := s.steps, energy := e, forwarded := s.msg.forwarded, records := [] }) n
    { n with subReqs := n.subReqs.filter (fun x => x.id ≠ id), walkQ := n.walkQ.filter (fun j => j ≠ id) }

/-- Let go of every context that serves a sub-request. -/
def dropWalks (id : Nat) (n : Node) : Node :=
  let cs := n.ctxs.filter (fun k => match k.2 with | some c => c.sub = id && !c.fold | none => false)
  let n := cs.foldl (fun n k => freeWalk (k.1 / 512) [k.1 % 512] n) n
  { n with saved := n.saved.filter (fun w => !w.ctxs.any (fun c => c.sub = id && !c.fold)) }

/-- A folding walk ends: what it found waits for the folding of its entry (R166); an aborted one is lost and may start again. -/
def foldFound (key : ShardKey) (msn : Nat) (list : List (Nat × Nat)) (n : Node) : Node :=
  shardMod key (fun s => { s with foldWalks := s.foldWalks.filter (fun w => w.1 ≠ msn) ++ [(msn, list.map (·.2))] }) n

/-- A walk ends (R76): its list, status and counts go to the Mace unit, or with ABORTED its sub-request answers FAILED_RETRYABLE; its
contexts return to FREE. -/
def walkFinish (e c status : Nat) (list : List (Nat × Nat)) (n : Node) : Node :=
  match ctxGet n e (leaderOf n e c) with
  | none => n
  | some x =>
    let n := freeWalk e (walkCtxs n e c) n
    let n := gweCnt e 0x120 1 n
    let n := if status = 1 then gweCnt e 0x13C 1 n else if status = 2 then gweCnt e 0x140 1 n
      else if status = 4 then gweCnt e 0x14C 1 n else n
    let g := engGet n e
    let n := engSet e { g with fills := lpushMax 1024 g.fills (popCount 131072 x.filter) } n
    let n := if x.shadow then shadowAdd (engPage e) c 0 n else n
    if x.fold then (if status = 4 then n else foldFound x.key x.sub list n)
    else if status = 4 then subFailed x.sub n
    else subMod x.sub (fun s => { s with walk := some { status := status, list := list, expansions := x.expansions, evals := x.evals } }) n

/-- An entry of a list of (code sum, local id) in ascending code-sum order. -/
def pairLt (a b : Nat × Nat) : Bool := decide (a.1 < b.1)

/-- Take an entry with the least code sum; which of equals is unspecified (R73). -/
def popMin (l : List (Nat × Nat)) (n : Node) : Option (Nat × Nat) × List (Nat × Nat) × Node :=
  match l with
  | [] => (none, [], n)
  | x :: _ =>
    let ties := l.filter (fun y => y.1 = x.1)
    let (y, n) := pick x ties n
    (some y, lremoveFirst (fun z => z = y) l, n)

/-- Insert an entry; over the width one of the largest is dropped, which of equals unspecified (R70, R73). -/
def insertDrop (width : Nat) (x : Nat × Nat) (l : List (Nat × Nat)) (n : Node) : List (Nat × Nat) × Node :=
  let l := linsert pairLt x l
  if l.length ≤ width then (l, n)
  else
    match l.getLast? with
    | none => (l, n)
    | some z =>
      let ties := l.filter (fun y => y.1 = z.1)
      let (y, n) := pick z ties n
      (lremoveFirst (fun w => w = y) l, n)

def maxSum (l : List (Nat × Nat)) : Nat := match l.getLast? with | some z => z.1 | none => 0

/-- The two bit positions of a local id (R79). -/
def filterBits (lid salt nbit : Nat) : Nat × Nat :=
  let h := mix64 (lid ^^^ salt)
  (h % 2 ^ nbit, (h >>> nbit) % 2 ^ nbit)

def filterLog (x : Ctx) : Nat := if x.role = 0 then 15 else 17

def testFilter (x : Ctx) (lid : Nat) : Bool :=
  let b := filterBits lid x.salt (filterLog x)
  x.filter.testBit b.1 && x.filter.testBit b.2

def setFilter (x : Ctx) (lid : Nat) : Ctx :=
  let b := filterBits lid x.salt (filterLog x)
  { x with filter := x.filter ||| 2 ^ b.1 ||| 2 ^ b.2 }

/-- Skips under R72 or R86, counted and reported. -/
def skipRep (e c code addr k : Nat) (n : Node) : Node :=
  gweReport e c code addr (gweCnt e 0x144 k (ctxMod e c (fun x => { x with skips := Nat.min 0xFFFF (x.skips + k) }) n))

/-- A reserved bit of a block is not 0 (R44). -/
def blkReserved (upper : Bool) (b : Nat) : Bool :=
  (if upper then nbits b 127 109 ≠ 0 || nbits b 99 98 ≠ 0 else nbits b 127 111 ≠ 0) ||
  (List.range 48).any (fun j => nbits b (128 + 40 * j + 39) (128 + 40 * j + 34) ≠ 0)

/-- The slots that R70 and R72 let through, and how often the block broke its layout. -/
def validSlots (x : Ctx) (upper : Bool) (b owner : Nat) : List Nat × Nat :=
  let overLim := b2n (x.degree < blkUsed b)
  let raw := (List.range (Nat.min (Nat.min (blkUsed b) x.degree) 48)).map (blkSlot b)
  let ok := raw.filter (fun y => y ≠ lidNone && y < x.idHigh && y ≠ owner)
  (ok, overLim + b2n (blkReserved upper b) + (raw.length - ok.length))

/-- The neighbours of a block that the engine has read. -/
def slotsOf (e c : Nat) (x : Ctx) (upper : Bool) (b owner addr : Nat) (n : Node) : List Nat × Node :=
  let r := validSlots x upper b owner
  (r.1, if r.2 = 0 then n else skipRep e c 0x04 addr r.2 n)

/-! ### Reads that a context awaits (R82, R86, R88) -/

/-- Codes that the staging area of 1,536 bytes holds, at most the 48 neighbours of a block (R82, R83). -/
def stageCap (m : Nat) : Nat := Nat.min 48 (1536 / Nat.max 1 (m / 2))

/-- The context waits for memory. -/
def memWait (e c : Nat) (n : Node) : Node := ctxMod e c (fun x => { x with state := 3, arrived := false }) n

/-- Fetch the codes of neighbours still to be evaluated, as many as the staging area holds. -/
def askCodes (e c m : Nat) (st : WalkStage) (n : Node) : Node :=
  memWait e c (ctxMod e c (fun x => { x with stage := st, asked := x.todo.take (stageCap m), todo := x.todo.drop (stageCap m) }) n)

/-- Read the level-0 block of an item; in a page homed in flash the context takes a tier fault (R88). -/
def askBlk0 (e c : Nat) (st : WalkStage) (s : Shard) (lid : Nat) (n : Node) : Node :=
  let a := adjAddr s lid
  let n := ctxMod e c (fun x => { x with stage := st }) n
  if inFlash n a then
    tierFault (tpage a) (e * 512 + c) (gweCnt e 0x138 1 (ctxMod e c (fun x => { x with
      state := 4, arrived := false, page := some (tpage a), tierFaults := Nat.min 0xFFFF (x.tierFaults + 1),
      spent := x.spent + (n.tick - x.issued) }) n))
  else memWait e c n

/-- The address of the upper-level block that a descent reads. -/
def upAddr (s : Shard) (x : Ctx) : Nat := upperAddr s (x.curUp + x.level - 1)

/-- Codes of items as memory gives them; none where the read meets an uncorrectable error. -/
def fetchCodes (tid : Option Nat) (g : IdxGen) (s : Shard) : List Nat → Node → List (Option Nat) × Node
  | [], n => ([], n)
  | y :: l, n =>
    let (ok, n) := memReadFor tid (codeAddr g s y) (gM g / 2) n
    let (r, n) := fetchCodes tid g s l n
    ((if ok then some (sget 0 s.code y) else none) :: r, n)

/-- The tenant for whose request a walk reads; a folding walk is the node's own work (R217). -/
def walkTid (n : Node) (x : Ctx) : Option Nat := if x.fold then none else (subFind n x.sub).map (·.msg.tid)

/-- The awaited block or codes are in the context's buffers. -/
def fetched (e c : Nat) (g : IdxGen) (s : Shard) (x : Ctx) (n : Node) : Node :=
  let tid := walkTid n x
  let blk := fun (a b : Nat) =>
    let (ok, n) := memReadFor tid a 256 n
    ctxMod e c (fun x => { x with arrived := true, buf := if ok then b else 0, bufBad := !ok }) n
  let codes := fun (l : List Nat) =>
    let (r, n) := fetchCodes tid g s l n
    ctxMod e c (fun x => { x with arrived := true, codes := r }) n
  match x.stage with
  | .entryCode => codes [x.curId]
  | .entryBlock | .curBlock | .block => blk (adjAddr s x.curId) (adjGet s x.curId)
  | .upper => blk (upAddr s x) (upperGet s (x.curUp + x.level - 1))
  | .upperCodes | .codes => codes x.asked
  | .pop | .idle => n

/-- A context becomes READY: it enters the queue at its tail (R86). -/
def ctxReady (e c : Nat) (n : Node) : Node :=
  match ctxGet n e c with
  | none => n
  | some x =>
    let g := engGet n e
    if x.state = 1 then n
    else engSet e { g with ready := g.ready ++ [c] } (ctxSet e c (some { x with state := 1 }) n)

/-- What a context in MEM_WAIT awaits arrives: the LUT record in the engine's buffer, a block, or codes (R86). A gang member that only
waits for the others of its gang awaits no data. -/
def dataArrives (e c : Nat) (n : Node) : Node :=
  match ctxGet n e c with
  | none => n
  | some x =>
    if x.state ≠ 3 ∨ (x.stage = .idle ∧ !x.lutWait) then n
    else if x.lutWait then ctxReady e c (ctxMod e c (fun x => { x with lutWait := false }) n)
    else match shardFind n x.key, genFind n x.key.handle x.key.gen with
      | some s, some g => ctxReady e c (fetched e c g s x n)
      | _, _ => ctxReady e c n

/-! ### The walk (R70) -/

/-- The staged codes are evaluated in the distance lanes (R82); one that could not be read leaves its neighbour unevaluated (R86).
`l` is the leader's context, which counts for the walk. -/
def evalStaged (e c l : Nat) (g : IdxGen) (s : Shard) (n : Node) : Node :=
  match ctxGet n e c with
  | none => n
  | some x =>
    let ps := x.asked.zip x.codes
    let good := ps.filterMap (fun p => p.2.map (fun code => (laneSum x.lut code, p.1)))
    let n := gweCnt e 0x130 good.length (ctxMod e l (fun y => { y with evals := (y.evals + good.length) % 2 ^ 32 }) n)
    let n := ctxMod e c (fun y => { y with sums := y.sums ++ good, asked := [] }) n
    ps.foldl (fun n p => if p.2.isNone then skipRep e c 0x03 (codeAddr g s p.1) 1 n else n) n

/-- The list of a walk that its deadline stops (R76). -/
def deadlineList (x : Ctx) : List (Nat × Nat) := if x.base0 then x.res else [(x.curSum, x.curId)]

/-- Another context of the gang has an expansion in progress (R81). -/
def gangBusy (n : Node) (e c : Nat) : Bool :=
  (walkCtxs n e c).any (fun k => k ≠ c && (match ctxGet n e k with | some y => y.stage = .block || y.stage = .codes | none => false))

/-- Nanoseconds of the expansion that ends now, its tier waits excluded (R93). -/
def expTimed (e : Nat) (x : Ctx) (n : Node) : Node :=
  let g := engGet n e
  engSet e { g with expNs := lpushMax 4096 g.expNs ((x.spent + (n.tick - x.issued)) * 10) } n

/-- Insert an evaluated neighbour where the list has room or it is nearer (R70). -/
def insertBoth (e l : Nat) (t : Nat × Nat) (n : Node) : Node :=
  match ctxGet n e l with
  | none => n
  | some x =>
    if x.res.length < x.width ∨ t.1 < maxSum x.res then
      let (r, n) := insertDrop x.width t x.res n
      let (q, n) := insertDrop x.width t x.cand n
      ctxSet e l (some { x with res := r, cand := q }) n
    else n

/-- Members of the gang that wait for an expansion to end can run again. -/
def wakeMembers (e c : Nat) (n : Node) : Node :=
  (walkCtxs n e c).foldl (fun n k =>
    match ctxGet n e k with
    | some y => if y.stage = .idle then ctxReady e k (ctxMod e k (fun y => { y with stage := .pop }) n) else n
    | none => n) n

/-- The expansion of a context is over: its neighbours enter the lists in slot order (R70). -/
def expansionEnd (e c l : Nat) (n : Node) : Node :=
  match ctxGet n e c with
  | none => n
  | some x =>
    let n := x.sums.foldl (fun n t => insertBoth e l t n) n
    wakeMembers e c (expTimed e x (ctxMod e c (fun y => { y with
      curId := lidNone, sums := [], entered := [], stage := .pop, arrived := false, spent := 0 }) n))

/-- Before each pop of the level-0 loop: the termination test, the expansion cap, then the next candidate's block is read (R70, R81).
A gang member whose test holds while another expands waits, in MEM_WAIT, for that expansion to end (log 156). A gang stops as a whole
when one member meets the cap: R81 does not say what an expansion then in progress still does (DESIGN CHOICE, log 157). -/
def popStep (e c l : Nat) (s : Shard) (n : Node) : Node :=
  match ctxGet n e l with
  | none => n
  | some x =>
    let ends := match x.cand with | [] => true | y :: _ => x.res.length = x.width && decide (maxSum x.res < y.1)
    if ends then
      if gangBusy n e c then memWait e c (ctxMod e c (fun y => { y with stage := .idle }) n) else walkFinish e c 0 x.res n
    else if x.expandCap ≠ 0 ∧ x.expansions = x.expandCap then walkFinish e c 2 x.res n
    else
      let (p, rest, n) := popMin x.cand n
      match p with
      | none => n
      | some (_, lid) =>
        let n := ctxMod e l (fun y => { y with cand := rest, expansions := (y.expansions + 1) % 2 ^ 32 }) (gweCnt e 0x128 1 n)
        let n := ctxMod e c (fun y => { y with curId := lid, sums := [], entered := [], todo := [], asked := [], issued := n.tick, spent := 0 }) n
        askBlk0 e c .block s lid n

/-- The descent is over: the filter and both lists start from the item reached, and the gang's members join (R70, R81). -/
def enterBase (e c : Nat) (n : Node) : Node :=
  let n := ctxMod e c (fun x => { setFilter { x with filter := 0 } x.curId with
    base0 := true, cand := [(x.curSum, x.curId)], res := [(x.curSum, x.curId)], curId := lidNone, stage := .pop, arrived := false }) n
  wakeMembers e c n

/-- The next upper-level step, one level down where the item is not held at LEVEL (R72); at level 0 the level-0 loop begins. -/
def descend (e c : Nat) (s : Shard) (n : Node) : Node :=
  match ctxGet n e c with
  | none => n
  | some x =>
    let above := x.level - x.curTop
    let n := if above = 0 then n else skipRep e c 0x04 (adjAddr s x.curId) above n
    let n := ctxMod e c (fun y => { y with level := Nat.min y.level y.curTop, sums := [] }) n
    if Nat.min x.level x.curTop = 0 then popStep e c c s (enterBase e c n)
    else memWait e c (ctxMod e c (fun y => { y with stage := .upper }) n)

/-- A level-0 block has arrived in the descent: the item's levels are known (R70, R86). -/
def levelsKnown (e c : Nat) (entry : Bool) (s : Shard) (x : Ctx) (n : Node) : Node :=
  let n := if x.bufBad then skipRep e c 0x02 (adjAddr s x.curId) 1 n else n
  let top := blkTop x.buf
  descend e c s (ctxMod e c (fun y => { y with
    curTop := top, curUp := blkUpper x.buf, level := if entry then Nat.min y.level top else y.level, arrived := false }) n)

/-- An upper-level block has arrived: its neighbours are evaluated, or it has none (R70, R72). -/
def upperKnown (e c : Nat) (g : IdxGen) (s : Shard) (x : Ctx) (n : Node) : Node :=
  let down := fun n => descend e c s (ctxMod e c (fun y => { y with level := y.level - 1, arrived := false }) n)
  if x.bufBad then down (skipRep e c 0x02 (upAddr s x) 1 n)
  else if blkTop x.buf ≠ x.level ∨ blkOwner x.buf ≠ x.curId then down (skipRep e c 0x04 (upAddr s x) 1 n)
  else
    let (ns, n) := slotsOf e c x true x.buf x.curId (upAddr s x) n
    if ns.isEmpty then down n else askCodes e c (gM g) .upperCodes (ctxMod e c (fun y => { y with todo := ns, sums := [] }) n)

/-- The codes of an upper-level block's neighbours have arrived: the rest of them, a move to the last strictly nearer one, or one level
down (R70). -/
def upperEvaluated (e c : Nat) (g : IdxGen) (s : Shard) (n : Node) : Node :=
  let n := evalStaged e c c g s n
  match ctxGet n e c with
  | none => n
  | some x =>
    if !x.todo.isEmpty then askCodes e c (gM g) .upperCodes n
    else
      let best := x.sums.foldl (fun b t => if t.1 < b.1 then t else b) (x.curSum, x.curId)
      if best.1 < x.curSum then askBlk0 e c .curBlock s best.2 (ctxMod e c (fun y => { y with curSum := best.1, curId := best.2, issued := n.tick }) n)
      else descend e c s (ctxMod e c (fun y => { y with level := y.level - 1, arrived := false }) n)

/-- The block of the expansion has arrived: neighbours not yet entered in the filter enter it, and their codes are read (R70). A
redone expansion takes up again those that it had entered itself (R89). -/
def blockKnown (e c l : Nat) (g : IdxGen) (s : Shard) (x : Ctx) (n : Node) : Node :=
  let n := if x.bufBad then skipRep e c 0x02 (adjAddr s x.curId) 1 n else n
  let (ns, n) := slotsOf e c x false x.buf x.curId (adjAddr s x.curId) n
  match ctxGet n e l with
  | none => n
  | some y =>
    let (new, y) := ns.foldl (fun (acc : List Nat × Ctx) z =>
      if acc.1.contains z || (testFilter acc.2 z && !x.entered.contains z) then acc else (acc.1 ++ [z], setFilter acc.2 z)) ([], y)
    let n := ctxMod e l (fun z => { z with filter := y.filter }) n
    let n := ctxMod e c (fun z => { z with entered := new, todo := new, sums := [], arrived := false }) n
    if new.isEmpty then popStep e c l s (expansionEnd e c l n) else askCodes e c (gM g) .codes n

/-- The neighbours' codes have arrived: the second part where the staging area holds one part only, else the end of the expansion and
the next pop (R70, R82). -/
def codesKnown (e c l : Nat) (g : IdxGen) (s : Shard) (n : Node) : Node :=
  let n := evalStaged e c l g s n
  match ctxGet n e c with
  | none => n
  | some x => if !x.todo.isEmpty then askCodes e c (gM g) .codes n else popStep e c l s (expansionEnd e c l n)

/-- The entry item's code has arrived (R70). Where it cannot be read the walk ends COMPLETE with an empty list: R86 speaks of
neighbours only (DESIGN CHOICE, log 158). -/
def entryKnown (e c : Nat) (g : IdxGen) (s : Shard) (x : Ctx) (n : Node) : Node :=
  match x.codes.headD none with
  | none => walkFinish e c 0 [] (skipRep e c 0x03 (codeAddr g s x.curId) 1 n)
  | some code =>
    askBlk0 e c .entryBlock s x.curId (gweCnt e 0x130 1 (ctxMod e c (fun y => { y with
      curSum := laneSum y.lut code, evals := (y.evals + 1) % 2 ^ 32, issued := n.tick }) n))

/-- A running context uses what has arrived and goes on to its next read; without it, it issues that read again (R86, R88, R89). -/
def walkRun (e c l : Nat) (g : IdxGen) (s : Shard) (n : Node) : Node :=
  match ctxGet n e c with
  | none => n
  | some x =>
    match x.stage, x.arrived with
    | .entryCode, true => entryKnown e c g s x n
    | .entryBlock, true => levelsKnown e c true s x n
    | .curBlock, true => levelsKnown e c false s x n
    | .upper, true => upperKnown e c g s x n
    | .upperCodes, true => upperEvaluated e c g s n
    | .block, true => blockKnown e c l g s x n
    | .codes, true => codesKnown e c l g s n
    | .pop, _ => popStep e c l s n
    | .idle, _ => memWait e c n
    | .entryBlock, false | .curBlock, false | .block, false => askBlk0 e c x.stage s x.curId n
    | .entryCode, false | .upper, false | .upperCodes, false | .codes, false => memWait e c n

/-- Load a LUT record into the engine's buffer of 64, the least recently used one that no running or ready context uses
making room (R87). Where running or ready contexts use all 64, the least recently used one goes all the same: the manual names no other
(DESIGN CHOICE, log 159). -/
def lutLoad (e a : Nat) (n : Node) : Node :=
  let g := engGet n e
  let used := g.ready.filterMap (fun c => (ctxGet n e c).map (·.lutAddr))
  let luts := if g.luts.length < 64 then g.luts
    else match g.luts.find? (fun l => !used.contains l) with
      | some l => g.luts.filter (· ≠ l)
      | none => g.luts.drop 1
  engSet e { g with luts := luts ++ [a], lutLoads := (g.lutLoads + 1) % 65536 } n

/-- Bytes of a LUT record (R67). -/
def lutBytes (l : Lut) : Nat := 16 + 16 * l.m

/-- An unreadable LUT record ends every walk that uses it (R94). -/
def lutUnreadable (e c a : Nat) (n : Node) : Node :=
  let n := gweReport e c 0x05 a n
  (n.ctxs.filter (fun k => k.1 / 512 = e && (match k.2 with | some x => x.lutAddr = a && x.role ≠ 2 | none => false))).foldl
    (fun n k => walkFinish e (k.1 % 512) 4 [] n) n

/-- The engine meets an uncorrectable error in a context's own image: the walk ends ABORTED (R86, R94). Where the image lies in the
node linear address space is left open, so the address reported is free (log 144). -/
def imageEcc (e c : Nat) (n : Node) : Node :=
  let (a, n) := fresh n
  walkFinish e c 4 [] (gweReport e c 0x01 (a % 2 ^ 52) (gweCnt e 0x144 1 n))

/-- Whether this run of a context reads the word of its image that holds an error, which the manual leaves to where the word lies. -/
def meetsEcc (e c : Nat) (n : Node) : Bool × Node :=
  match ctxGet n e c with
  | some x => if x.bad then let (k, n) := fresh n; (k % 2 = 1, n) else (false, n)
  | none => (false, n)

/-- The oldest READY context runs until it waits again or its walk ends (R70, R86, R87). -/
def engineRun (e : Nat) (n : Node) : Node :=
  match (engGet n e).ready with
  | [] => n
  | c :: rest =>
    let n := ctxMod e c (fun x => { x with state := 2 }) (engSet e { engGet n e with ready := rest } n)
    let l := leaderOf n e c
    let (ecc, n) := meetsEcc e c n
    match ctxGet n e l with
    | none => n
    | some x =>
      match shardFind n x.key, genFind n x.key.handle x.key.gen with
      | some s, some g =>
        if ecc then imageEcc e c n
        else if x.deadline ≤ n.tick then walkFinish e c 1 (deadlineList x) n
        else if !(engGet n e).luts.contains x.lutAddr then
          if poisoned n x.lutAddr (lutBytes x.lut) then lutUnreadable e c x.lutAddr n
          else ctxMod e c (fun y => { y with state := 3, lutWait := true }) (lutLoad e x.lutAddr n)
        else
          let eg := engGet n e
          walkRun e c l g s (engSet e { eg with luts := eg.luts.filter (· ≠ x.lutAddr) ++ [x.lutAddr] } n)
      | _, _ => walkFinish e c 4 [] n

/-! ### Pre-emption (R89, R90) -/

/-- What a pre-empted context takes up again: an expansion or an upper-level step is redone in full, so data that has arrived or is
still to arrive is discarded (R89). -/
def redone (x : Ctx) : Ctx :=
  { x with
    state := 5, arrived := false, lutWait := false, page := none, asked := [], todo := [], sums := [],
    stage := match x.stage with | .codes => .block | .upperCodes => .upper | st => st }

/-- The walk's images move to the spill area (R89), in a stack of the node's choice; the copy meets an error that an image holds. -/
def preempt (e c : Nat) (n : Node) : Node :=
  let cs := walkCtxs n e c
  let imgs := cs.filterMap (fun k => (ctxGet n e k).map redone)
  if imgs.isEmpty then n
  else if imgs.any (·.bad) then imageEcc e c n
  else
    let (st, n) := pick 0 ((List.range 8).filter (fun s => !(stkGet n s).lost)) n
    gweCnt e 0x148 1 { freeWalk e cs n with
      saved := n.saved ++ [{ id := n.nextWalk, stack := st, ctxs := imgs }], nextWalk := n.nextWalk + 1 }

/-- The folding walk that started most recently on an active engine (R90). -/
def newestFold (n : Node) : Option (Nat × Nat) :=
  let fs := n.ctxs.filterMap (fun k => match k.2 with
    | some x => if x.fold && x.role ≠ 2 && unitActive n (engPage (k.1 / 512)) then some (k.1, x.order) else none
    | none => none)
  (lleast (fun a b => decide (b.2 < a.2)) fs).map (fun k => (k.1 / 512, k.1 % 512))

/-- Every walk still on an engine is pre-empted. -/
def preemptAll (e : Nat) (n : Node) : Node :=
  (n.ctxs.filter (fun k => k.1 / 512 = e && (match k.2 with | some x => x.role ≠ 2 | none => false))).foldl
    (fun n k => preempt e (k.1 % 512) n) n

/-! ### Starting a walk -/

/-- FILTER_SALT of a walk: chosen anew, and no two walks within 2^48 share it (R80): its low 48 bits count walks, the rest is free
(DESIGN CHOICE, log 160). -/
def newSalt (n : Node) : Nat × Node :=
  let (x, n) := fresh n
  (x % 2 ^ 16 * 2 ^ 48 + n.nextWalk % 2 ^ 48, n)

/-- The image of a walk's context at its start (R84): it reads the entry pair and ID_HIGH (R71). Until the entry item's code has
arrived, its code sum stands for a hand-over at the deadline (R76). -/
def ctxInit (key : ShardKey) (g : IdxGen) (sh : Shard) (fold : Bool) (sub width snap deadline lutAddr : Nat) (lut : Lut)
    (role salt cap : Nat) (shadow : Bool) (n : Node) : Ctx :=
  { state := 0, role := role, fold := fold, shadow := shadow, key := key, width := width, degree := gDegree g,
    level := sh.entryLvl, base0 := false, snap := snap, deadline := deadline, salt := salt, lutAddr := lutAddr,
    lut := lut, expansions := 0, evals := 0, tierFaults := 0, skips := 0, curId := if role = 2 then lidNone else sh.entryId,
    curSum := laneSum lut (sget 0 sh.code sh.entryId), curTop := 0, curUp := 0, idHigh := sh.idHigh, sub := sub, expandCap := cap,
    filter := 0, cand := [], res := [], stage := if role = 2 then .idle else .entryCode, arrived := false, lutWait := false, buf := 0,
    bufBad := false, asked := [], codes := [], todo := [], sums := [], entered := [], page := none, order := n.nextWalk,
    issued := n.tick, spent := 0 }

/-- A walk takes its contexts on an engine, one or a gang of four, and is READY (R69, R70); on a shard without an entry item it ends at
once. -/
def walkPlace (mk : Nat → Nat → Nat → Bool → Node → Ctx) (sh : Shard) (width e c : Nat) (n : Node) : Node :=
  let (salt, n) := newSalt n
  let (shadow, n) := sampled n
  let gang := decide (256 < width)
  let cap := rfield n .gwe e 0x104 15 8 * width
  let x0 := mk (b2n gang) salt cap shadow n
  let xs := mk 2 salt cap false n
  let n := { n with nextWalk := n.nextWalk + 1 }
  let n := if gang then [1, 2, 3].foldl (fun n k => ctxSet e (c + k) (some { xs with state := 3 }) n) n else n
  let n := ctxSet e c (some x0) n
  if sh.entryId = lidNone ∨ sh.state = 0 then walkFinish e c 3 [] n else ctxReady e c n

/-- A query's walk waits for a context, runs, or has been saved. -/
def walkHeld (n : Node) (id : Nat) : Bool :=
  n.ctxs.any (fun k => match k.2 with | some c => c.sub = id && !c.fold | none => false) ||
  n.saved.any (fun w => w.ctxs.any (fun c => c.sub = id && !c.fold))

/-- A walk whose snapshot is bound is placed; with no free context the newest folding walk makes room, and otherwise the walk waits
(R90-R92). A walk whose budget has passed never starts (R91), and its sub-request is left unanswered unless an earlier round of R142
stands. -/
def queryWalk (id : Nat) (n : Node) : Node :=
  match subFind n id with
  | none => n
  | some s =>
    match s.snap, s.walk, shardFind n s.msg.key, genFind n s.msg.key.handle s.msg.key.gen with
    | some snap, none, some sh, some g =>
      if walkHeld n id then n
      else if s.budgetEnd ≤ n.tick then
        { n with
          subReqs := if s.steps = 0 then n.subReqs.filter (fun x => x.id ≠ id) else n.subReqs,
          walkQ := n.walkQ.filter (fun j => j ≠ id) }
      else
        let gang := decide (256 < s.width)
        let (p, n) := placeEngine s.lutAddr gang (fun _ => true) n
        let (p, n) := match p, newestFold n with
          | none, some (e, c) => placeEngine s.lutAddr gang (fun _ => true) (preempt e c n)
          | _, _ => (p, n)
        let n := { n with walkQ := n.walkQ.filter (fun j => j ≠ id) }
        match p with
        | some (e, c) =>
          let deadline := s.walkEnd.getD (Nat.min s.budgetEnd (n.tick + ticksMs 10))
          let n := subMod s.id (fun s => { s with walkEnd := some deadline }) n
          walkPlace (ctxInit s.msg.key g sh false s.id s.width snap deadline s.lutAddr s.msg.lut) sh s.width e c n
        | none => { n with walkQ := n.walkQ ++ [id] }
    | _, _, _, _ => n

/-- Unfolded entries of committed inserts of items not deleted, in ascending MSN order (R166). -/
def unfoldedLive (n : Node) (s : Shard) : List DEnt :=
  lsort (fun (a b : DEnt) => decide (a.msn < b.msn)) (((unfoldedEnts n s).map (·.2)).filter (fun e =>
    decide (e.msn ≤ s.committed) && idmapDel (sget 0 s.idmap e.lid) = 0))

/-- The vector that a code stands for. -/
def codeVec (g : IdxGen) (book : Blob) (code : Nat) : List F32 :=
  ((List.range (gM g)).flatMap (fun s => centroid book (gWidth g) s (codeAt code s))).take (gDim g)

/-- A folding walk for the oldest entry that still needs one, against the item's own code (R166): its table is that of the vector that
the code stands for, its width and its deadline of 10 ms are the node's (log 161). -/
def foldWalk (key : ShardKey) (n : Node) : Node :=
  let n := ctlReads key (fun _ => true) n
  match shardFind n key, genFind n key.handle key.gen with
  | some s, some g =>
    let held := fun msn => s.foldWalks.any (fun w => w.1 = msn) ||
      n.ctxs.any (fun k => match k.2 with | some c => c.fold && c.key = key && c.sub = msn | none => false) ||
      n.saved.any (fun w => w.ctxs.any (fun c => c.fold && c.key = key && c.sub = msn))
    match (unfoldedLive n s).find? (fun d => !held d.msn), g.codebook with
    | some d, some book =>
      let lut := (buildLut g book (codeVec g book d.code)).getD
        { scale := f32OfNat 1, minsum := 0, gen := g.gen, m := gM g, zeroSpan := true, handle := g.handle, e := List.replicate (16 * gM g) 0 }
      let (w, n) := fresh n
      let width := 16 + w % 1009
      let gang := decide (256 < width)
      match (activeUnits n .gwe).any (fun e => foldRoom n gang e && (freeSlot n e gang).isSome) with
      | false => n
      | true =>
        let (a, n) := lutStore lut n
        let (p, n) := placeEngine a gang (foldRoom n gang) n
        match p with
        | some (e, c) => walkPlace (ctxInit key g s true d.msn width s.committed (n.tick + ticksMs 10) a lut) s width e c n
        | none => n
    | _, _ => n
  | _, _ => n

/-- WALK_START. -/
def walkStart (t : WalkTask) (n : Node) : Node :=
  match t with
  | .query id => queryWalk id n
  | .fold key => foldWalk key n

/-- WALK_RESTORE: a saved walk returns to an active engine with room and continues (R89). -/
def walkRestore (id : Nat) (n : Node) : Node :=
  match n.saved.find? (fun w => w.id = id) with
  | none => n
  | some w =>
    match w.ctxs with
    | [] => n
    | x :: _ =>
      let gang := decide (1 < w.ctxs.length)
      let (p, n) := placeEngine x.lutAddr gang (fun e => !x.fold || foldRoom n gang e) n
      match p with
      | none => n
      | some (e, c) =>
        let n := { n with saved := n.saved.filter (fun v => v.id ≠ id) }
        let r := w.ctxs.foldl (fun (acc : Node × Nat) y => (ctxSet e acc.2 (some { y with state := 3 }) acc.1, acc.2 + 1)) (n, c)
        let n := r.1
        if x.deadline ≤ n.tick then walkFinish e c 1 (deadlineList x) n
        else (List.range w.ctxs.length).foldl (fun n k =>
          match ctxGet n e (c + k) with
          | some y => if y.stage = .idle then n else ctxReady e (c + k) n
          | none => n) n

/-- GWE_CTRL is written (R90, R93). -/
def gweCtrl (e : Nat) (v : Word) (n : Node) : Node :=
  let n := regPut (regAddr .gwe e 0x104) (v &&& 0x80FFFF00#32) n
  let on := v.toNat.testBit 31
  let n := unitDrain .gwe e on n
  let g := engGet n e
  let leaves := (unitGet n (engPage e)).leaving.isSome
  engSet e { g with drainAt := if on then some (g.drainAt.getD n.tick) else if leaves then g.drainAt else none } n

/-! ### The commands -/

def execWalkStart (task : WalkTask) (s : State) : Host.Outcome State Fault Refusal := run s (walkStart task)

def execWalkExpansion (eng : Fin 72) (s : State) : Host.Outcome State Fault Refusal := run s (engineRun eng.val)

def execMemDataArrival (eng : Fin 72) (ctx : Fin 512) (s : State) : Host.Outcome State Fault Refusal :=
  run s (dataArrives eng.val ctx.val)

/-- DEADLINE_TICK passes: the walk hands over its list with status DEADLINE (R77). -/
def execWalkDeadline (eng : Fin 72) (ctx : Fin 512) (s : State) : Host.Outcome State Fault Refusal :=
  run s (fun n =>
    match ctxGet n eng.val (leaderOf n eng.val ctx.val) with
    | some x => walkFinish eng.val ctx.val 1 (deadlineList x) (reach x.deadline n)
    | none => n)

def execWalkRestore (saved : Nat) (s : State) : Host.Outcome State Fault Refusal := run s (walkRestore saved)

/-- 20 µs after the engine left service every walk still on it is pre-empted (R90). -/
def execDrainPreemptTimeout (eng : Fin 72) (s : State) : Host.Outcome State Fault Refusal :=
  run s (fun n =>
    match (engGet n eng.val).drainAt with
    | some t => preemptAll eng.val (reach (t + ticksUs 20) n)
    | none => n)

def execGweDrain (eng : Fin 72) (v : Word) (s : State) : Host.Outcome State Fault Refusal := run s (gweCtrl eng.val v)

end Sys2Proof.Machine
end

