-- ==== Sys2Proof/Machine/Clove.lean ====
section
/-!
DEFINITION. Sys2Proof/Machine/Clove.lean: Clove units, their command window, commands and row passes, batches and delta lists,
refresh, compaction, scrubbing and rebuild (R95-R130).
-/
namespace Sys2Proof.Machine

/-! ### Units and stacks -/

/-- A unit as Clove mode is entered: IDLE, with the bounds of MSC_OPEN at reset (R99, R103). -/
def clvIdle : Clv :=
  { off := false, state := 0, cmdErr := false, results := [], backlog := [], cmd := none, queued := [], rows := [],
    seqTag := 0, badRows := 0, rowsDone := 0, firstBad := none, seen := 0, suspend := false, ending := false, postEven := 0,
    postOdd := 0, actEven := 0, actOdd := 0, luts := [], params := [], first := 0xFC, last := 0xFE, differed := [] }

def clvGet (n : Node) (k : Nat) : Clv := sget clvIdle n.clvs k

def clvSet (k : Nat) (v : Clv) (n : Node) : Node := { n with clvs := sset clvIdle n.clvs k v }

def clvMod (k : Nat) (f : Clv → Clv) (n : Node) : Node := clvSet k (f (clvGet n k)) n

/-- Unit number over all stacks: stack * 768 + u (R96). -/
def unitNo (u : UnitId) : Nat := u.stack.val * 768 + u.u.val

/-- Pseudo-channel of a unit (R96). -/
def unitPc (k : Nat) : Nat := k % 768 / 24

/-- The unit's pseudo-channel is in Clove mode: a stack that is lost has left it (R104). -/
def inMode (n : Node) (k : Nat) : Bool := !(stkGet n (k / 768)).lost && !(stkGet n (k / 768)).pcOff.contains (unitPc k)

/-- The units of a pseudo-channel (R106). -/
def pcUnits (s pc : Nat) : List Nat := (List.range 24).map (fun i => s * 768 + 24 * pc + i)

/-! ### Commands (R107) -/

def cmdOp (c : Nat) : Nat := nbits c 31 24
def cmdTag (c : Nat) : Nat := nbits c 23 16
def cmdMask (c : Nat) : Nat := nbits c 15 0
def cmdCB (c : Nat) : Nat := nbits c 63 56
def cmdEB (c : Nat) : Nat := nbits c 55 48
def cmdShard (c : Nat) : Nat := nbits c 47 32
def cmdDest (c : Nat) : Nat := nbits c 127 96
def cmdRun (c i : Nat) : Nat := nbits c (128 + 32 * i + 31) (128 + 32 * i)

/-- The rows of a run word, even bank first (R107). -/
def runRows (w : Nat) : List (Bool × Nat) :=
  let first := nbits w 31 16
  let banks := nbits w 15 14
  (List.range (if banks = 0 then 0 else nbits w 13 0)).flatMap (fun i =>
    (if banks % 2 = 1 then [(false, first + i)] else []) ++ (if 2 ≤ banks then [(true, first + i)] else []))

def cmdRows (c : Nat) : List (Bool × Nat) := (List.range 12).flatMap (fun i => runRows (cmdRun c i))

/-- Every row that a command names, COMPACT's destination among them (R101). -/
def cmdNamed (c : Nat) : List (Bool × Nat) := cmdRows c ++ (if cmdOp c = 3 then runRows (cmdDest c) else [])

/-- A command word of given fields. -/
def cmdMk (op tag mask cb eb shard dest : Nat) (runs : List Nat) : BitVec 512 :=
  BitVec.ofNat 512 (mask + tag <<< 16 + op <<< 24 + shard <<< 32 + eb <<< 48 + cb <<< 56 + dest <<< 96
    + (runs.foldr (fun w acc => w + acc <<< 32) 0) <<< 128)

/-- A command with its OPCODE. -/
def cmdWith (op : Nat) (c : BitVec 512) : BitVec 512 := BitVec.ofNat 512 (nput c.toNat 31 24 op)

def clvBusy (u : Clv) : Bool := u.state = 1 || u.state = 2 || u.state = 3

/-- The command that a unit starts; NOP only echoes its tag (R108). -/
def clvBegin (c : BitVec 512) (u : Clv) : Clv :=
  if cmdOp c.toNat = 0 then { u with seqTag := cmdTag c.toNat }
  else
    let rows := cmdRows c.toNat
    { u with
      state := if rows.isEmpty then 4 else 1, cmd := some c, rows := rows, seqTag := cmdTag c.toNat, rowsDone := 0, seen := 0,
      postEven := 0, postOdd := 0 }

/-- A finished command: the queued one starts, or the unit reads DONE (R110, R118). Postponed and due refreshes are issued first
(R119). -/
def clvEnd (u : Clv) : Clv :=
  let u := { u with state := 4, rows := [], suspend := false, postEven := 0, postOdd := 0 }
  match u.queued with
  | [] => u
  | c :: r => clvBegin c { u with queued := r }

/-- The running command has ended for an ABORT: the queue is empty and STATE reads ABORTED (R108). -/
def clvAborted (u : Clv) : Clv :=
  { u with state := 5, rows := [], backlog := [], queued := [], suspend := false, ending := false }

/-- A row boundary: an ABORT takes effect, the command ends, the unit suspends for a refresh, or it goes on (R108, R119). -/
def rowEnd (u : Clv) : Clv :=
  if u.ending then clvAborted u
  else if u.rows.isEmpty then clvEnd u
  else if u.suspend then { u with state := 2, suspend := false }
  else { u with state := 1 }

/-- Move held-back entries into the buffer of 32; a full buffer stalls the unit, and otherwise the row is done (R111, R118). -/
def clvFill (u : Clv) : Clv :=
  let room := 32 - u.results.length
  let u := { u with results := u.results ++ u.backlog.take room, backlog := u.backlog.drop room }
  if 32 ≤ u.results.length then { u with state := 3 } else rowEnd u

/-- Rows outside the bounds loaded at mode entry (R101). -/
def outside (u : Clv) (r : Bool × Nat) : Bool := r.2 < u.first * 256 || u.last * 256 + 255 < r.2

/-- A SCAN, CHECK, COMPACT or NOP reaches the unit: run, queued, or rejected with CMD_ERR (R101, R107-R109). A unit in ABORTED or
FAULT awaits CLEAR; it echoes a NOP's tag (R108, R110). -/
def clvAccept (c : BitVec 512) (u : Clv) : Clv :=
  let v := c.toNat
  if (cmdNamed v).any (outside u) then { u with cmdErr := true }
  else if cmdOp v = 1 ∧ 48 ≤ cmdCB v ∧ cmdMask v &&& 0xAAAA ≠ 0 then { u with cmdErr := true }
  else if clvBusy u then
    if u.queued.length < 1 then { u with queued := u.queued ++ [c] } else { u with cmdErr := true }
  else if cmdOp v ≠ 0 ∧ (u.state = 5 ∨ u.state = 6) then { u with cmdErr := true }
  else clvBegin c u

/-- ABORT: a RUNNING unit ends at the next row boundary. A suspended unit stands at one, and a stalled unit ends at once: R104 has
every unit read ABORTED within 60 ns (DEDUCED, log 162). -/
def clvAbort (tag : Nat) (u : Clv) : Clv :=
  if u.state = 1 then { u with ending := true, queued := [], seqTag := tag } else clvAborted { u with seqTag := tag }

/-- CLEAR: from DONE, ABORTED or FAULT to IDLE; otherwise CMD_ERR (R108). -/
def clvClear (tag : Nat) (u : Clv) : Clv :=
  if u.state = 4 ∨ u.state = 5 ∨ u.state = 6 then
    { u with state := 0, results := [], badRows := 0, firstBad := none, cmdErr := false, seqTag := tag }
  else { u with cmdErr := true }

/-- The command that 64 bytes at column offset 0 of the COMMAND row are (R107, R108). -/
def clvCommand (c : BitVec 512) (u : Clv) : Clv :=
  let op := cmdOp c.toNat
  if op = 4 then clvAbort (cmdTag c.toNat) u
  else if op = 5 then clvClear (cmdTag c.toNat) u
  else if 5 < op then { u with cmdErr := true }
  else clvAccept c u

/-! ### The command window (R105, R106, R110, R111) -/

/-- READY of a unit (R110). -/
def clvReady (u : Clv) : Bool := u.state = 0 || u.state = 1 || u.state = 4

/-- The summary word of a unit (R110). -/
def clvSummary (u : Clv) : Nat :=
  u.state * 2 ^ 12 + b2n (clvReady u) * 2 ^ 11 + u.results.length * 2 ^ 5 + b2n (u.badRows ≠ 0) * 2 ^ 4 + b2n u.cmdErr * 2 ^ 3

/-- The 64 bytes of STATUS (R110). -/
def clvStatus (u : Clv) : Blob :=
  bconcat [
    bofNat 4 (u.state % 16 * 2 ^ 28 + b2n (clvReady u) * 2 ^ 27 + b2n u.cmdErr * 2 ^ 26 + u.results.length % 64 * 2 ^ 20 +
      u.queued.length % 16 * 2 ^ 16 + u.seqTag % 256 * 2 ^ 8 + u.badRows % 256),
    bofNat 4 (u.rowsDone % 65536 * 2 ^ 16 + (match u.firstBad with | some r => r.2 % 65536 | none => 0xFFFF)),
    bofNat 4 (match u.firstBad with | some r => b2n r.1 | none => 0), bofNat 4 u.seen, bofNat 48 0]

/-- A result entry of 8 bytes (R111). -/
def resultEntry (e : Emit) : Nat :=
  e.sum % 2 ^ 16 * 2 ^ 48 + e.slot % 16 * 2 ^ 44 + b2n e.folded * 2 ^ 43 + e.lid % 2 ^ 34

def entSum (w : Nat) : Nat := nbits w 63 48
def entSlot (w : Nat) : Nat := nbits w 47 44
def entLid (w : Nat) : Nat := nbits w 33 0

/-- The 256 bytes of RESULT: the entries in emission order, then zeros (R111). -/
def clvResult (u : Clv) : Blob :=
  bpatch (bofNat 256 0) 0 (bconcat ((u.results.take 32).map (fun e => bofNat 8 (resultEntry e))))

/-- The 16 slot parameter blocks (R109). -/
def clvParams (u : Clv) : Blob := bconcat ((List.range 16).map (fun j => bofNat 64 (sget 0 u.params j).toNat))

/-- A read of a window row of one unit (R105). -/
def windowRead (odd : Bool) (row : Nat) (u : Clv) : Blob :=
  if odd ∧ row = 0xFFF1 then clvStatus u
  else if odd ∧ row = 0xFFF2 then clvResult u
  else if odd ∧ row = 0xFFF3 then clvParams u
  else bofNat 1024 0

/-- A read of the STATUS row with SID 3: the summary words by position, then zeros (R106). -/
def summaryRow (n : Node) (s pc : Nat) : Blob :=
  bappend (bconcat ((pcUnits s pc).map (fun k => bofNat 2 (clvSummary (clvGet n k))))) (bofNat 16 0)

/-- What a window write does at a unit: LUT slots, COMMAND, SLOT_PARAM; other rows ignore it (R105). -/
def windowPut (odd : Bool) (row off : Nat) (d : Blob) (u : Clv) : Clv :=
  if !odd then
    if 0xFFF0 ≤ row ∧ row ≤ 0xFFFF then
      let j := row - 0xFFF0
      { u with luts := sset 0 u.luts j (BitVec.ofNat 8192 (bpatch (bofNat 1024 (sget 0 u.luts j).toNat) off d).bits) }
    else u
  else if row = 0xFFF0 then
    if off = 0 ∧ d.len = 64 then clvCommand (BitVec.ofNat 512 d.bits) u else { u with cmdErr := true }
  else if row = 0xFFF3 then
    let a := bpatch (clvParams u) off d
    { u with params := (List.range 16).foldl (fun m j => sset 0 m j (BitVec.ofNat 512 (bnum a (64 * j) 64))) [] }
  else u

/-- A window write reaches one unit or, by broadcast, the 24 units of a pseudo-channel, while it is in Clove mode (R104-R106). -/
def windowWrite (st : Nat) (target : Option Nat) (pc : Nat) (odd : Bool) (row off : Nat) (d : Blob) (n : Node) : Node :=
  let ks := match target with | some u => [st * 768 + u] | none => pcUnits st pc
  ks.foldl (fun n k => if inMode n k then clvMod k (windowPut odd row off d) n else n) n

/-- Write one command to a unit, or by broadcast. -/
def commandWrite (st : Nat) (target : Option Nat) (pc : Nat) (c : BitVec 512) (n : Node) : Node :=
  windowWrite st target pc true 0xFFF0 0 { len := 64, bits := c.toNat } n

/-- The pseudo-channels of units, as stack * 32 + pc. -/
def pcsOf (ks : List Nat) : List Nat := ks.foldl (fun acc k => ninsert (k / 768 * 32 + unitPc k) acc) []

/-! ### Passes that fail, and the fence (R101, R116) -/

def passMod (num : Nat) (f : Pass → Pass) (n : Node) : Node :=
  { n with passes := lmodify (fun p => p.num = num) f n.passes }

/-- A pass fails: its sub-requests answer FAILED_RETRYABLE and it issues no further SCAN; it lasts until its units are quiet, so that
what they still emit reaches no later pass. -/
def passFail (p : Pass) (n : Node) : Node :=
  passMod p.num (fun q => { q with failed := true, more := [] }) (p.subs.foldl (fun n id => dropWalks id (subFailed id n)) n)

/-- The passes that a unit is scanning for fail. -/
def failPasses (k : Nat) (n : Node) : Node :=
  (n.passes.filter (fun p => p.started && !p.failed && p.units.contains k)).foldl (fun n p => passFail p n) n

/-- The stack controller issues a command that names rows, or fences it; the fence fails the sequence that issued it, for a SCAN its
pass (R101). -/
def clvIssue (op k : Nat) (c0 : BitVec 512) (n : Node) : Node :=
  let c := cmdWith op c0
  let b := openBounds n (k / 768)
  if !inMode n k then n
  else match (cmdNamed c.toNat).find? (fun r => r.2 < b.1 || b.2 < r.2 || 0xFFF0 ≤ r.2) with
    | some r =>
      let n := mscReport k 0x01 r.2 r.1 (cmdShard c.toNat) (mscCnt (k / 768) 0x148 1 n)
      if op = 1 then failPasses k n else n
    | none => clvMod k (clvCommand c) n

/-! ### The row pass (R112) -/

/-- Code sum of a code under the LUT of slot j (R109). -/
def clvSum (u : Clv) (j cb code : Nat) : Nat :=
  nsum ((List.range (2 * cb)).map (fun s =>
    let d := (sget 0 u.luts (if s < 64 then j else j + 1)).toNat
    (d >>> (8 * (16 * (s % 64) + codeAt code s))) % 256))

def paramSnap (u : Clv) (j : Nat) : Nat := (sget 0 u.params j).toNat % 2 ^ 64
def paramThresh (u : Clv) (j : Nat) : Nat := nbits (sget 0 u.params j).toNat 95 80

/-- The entries that a good row emits, in order. -/
def rowEmits (u : Clv) (mask : Nat) (at_ : Bool × Nat) (r : Nat) : List Emit :=
  (rowEnts r).flatMap (fun e =>
    (List.range 16).filterMap (fun j =>
      if mask.testBit j && e.msn ≤ paramSnap u j then
        let t := clvSum u j (rowCB r) e.code
        if t < paramThresh u j then some { sum := t, slot := j, folded := e.folded, lid := e.lid, row := at_ } else none
      else none))

/-- Greedy rows: a new one starts when the row is full or an offset would exceed 16,777,215 (R52, R124). -/
def greedyRows (cap : Nat) (es : List DEnt) : List (List DEnt) :=
  (es.foldl (fun (acc : List (List DEnt)) e =>
    match acc with
    | [] => [[e]]
    | r :: rs =>
      let base := match r.getLast? with | some f => f.msn | none => e.msn
      if r.length < cap ∧ e.msn - base ≤ 16777215 then (e :: r) :: rs else [e] :: r :: rs) []).reverse.map List.reverse

def drowOf (kind release : Nat) (es : List DEnt) : DRow :=
  { kind := kind, base := (match es with | e :: _ => e.msn | [] => 0), first := (match es with | e :: _ => e.msn | [] => 0),
    last := (match es.getLast? with | some e => e.msn | none => 0), ents := es.map (fun e => (e.msn, e.lid)), bad := false,
    asked := false, release := release }

/-- Write a delta row whole and keep its rebuild record. -/
def writeDRow (key : ShardKey) (m : Nat) (phys i : Nat) (kind release : Nat) (es : List DEnt) (n : Node) : Node :=
  let base := match es with | e :: _ => e.msn | [] => 0
  drowMod key i (fun _ => drowOf kind release es)
    (putRow phys (if kind = 0 then emptyRow else rowMk key.shard m base kind es) n)

/-- A bad row is noted in the unit (R110, R112). -/
def noteBad (r : Bool × Nat) (u : Clv) : Clv :=
  { u with badRows := Nat.min 255 (u.badRows + 1), firstBad := match u.firstBad with | some b => some b | none => some r }

/-- COMPACT's rewrite (R124): nothing changes on a bad source or a short destination. -/
def compactRun (k : Nat) (c : Nat) (n : Node) : Node :=
  let src := cmdRows c
  let dst := runRows (cmdDest c)
  match src.find? (fun r => rowBad (openRow n (unitRow k r)) (cmdShard c) (cmdCB c) (cmdEB c)) with
  | some r => badRow k r (cmdShard c) (clvMod k (noteBad r) n)
  | none =>
    let es := src.flatMap (fun r => (rowEnts (openRow n (unitRow k r))).filter (fun e => !e.folded))
    let rows := greedyRows (rowCap (cmdEB c)) es
    if dst.length < rows.length then mscReport k 0x08 0 false (cmdShard c) n
    else
      let m := 2 * cmdCB c
      let n := (rows.zip dst).foldl (fun n x =>
        match rowOwner n (unitRow k x.2) with
        | some (key, i) => writeDRow key m (unitRow k x.2) i 2 0 x.1 n
        | none => putRow (unitRow k x.2) (rowMk (cmdShard c) m (match x.1 with | e :: _ => e.msn | [] => 0) 2 x.1) n) n
      let n := src.foldl (fun n r =>
        let p := unitRow k r
        let old := openRow n p
        let n := putRow p (withCrc (nput (old % 2 ^ 8176) 91 88 3)) n
        match rowOwner n p with
        | some (key, i) => drowMod key i (fun d => { d with kind := 3, release := n.nextPass }) n
        | none => n) n
      mscCnt (k / 768) 0x154 1 n

/-- A unit's state after a row: a suspension and a stall are counted (R119, R129). -/
def clvStep (k : Nat) (u : Clv) (n : Node) : Node :=
  clvSet k u (if u.state = 2 then mscCnt (k / 768) 0x140 1 n else if u.state = 3 then mscCnt (k / 768) 0x144 1 n else n)

/-- A pass that a unit scans for has read a row that is bad or awaits its rebuild (R116, R127). -/
def passBad (k : Nat) (n : Node) : Node :=
  { n with passes := lmodify (fun p => p.started && p.units.contains k) (fun p => { p with bad := true }) n.passes }

/-- A physical row awaits its rebuild. -/
def rowAwaits (n : Node) (p : Nat) : Bool :=
  match rowOwner n p with
  | some (key, i) => (match shardFind n key with | some s => (s.drows.getD i drowEmpty).bad | none => false)
  | none => false

/-- CLOVE_ROW_DONE: one row read and evaluated (R112, R118, R121, R124). A COMPACT that meets a bad row ends with it, and reads DONE as
after success: R124 names no other state (DESIGN CHOICE, log 163). -/
def rowDone (k : Nat) (n : Node) : Node :=
  let u := clvGet n k
  match u.cmd, u.rows with
  | some c, r :: rest =>
    if u.state ≠ 1 then n
    else
      let v := c.toNat
      let op := cmdOp v
      let row := openRow n (unitRow k r)
      let n := mscCnt (k / 768) 0x138 1 n
      let u := { u with
        rows := rest, rowsDone := Nat.min 0xFFFF (u.rowsDone + 1), actEven := u.actEven + b2n (!r.1), actOdd := u.actOdd + b2n r.1 }
      if rowBad row (cmdShard v) (cmdCB v) (cmdEB v) then
        let u := noteBad r { u with rows := if op = 3 then [] else rest }
        let n := badRow k r (cmdShard v) (clvStep k (rowEnd u) n)
        if op = 1 then passBad k n else n
      else if op = 1 then
        let n := if rowAwaits n (unitRow k r) then passBad k n else n
        let es := if rowKind row = 0 then [] else rowEmits u (cmdMask v) r row
        clvStep k (clvFill { u with
          backlog := es, seen := (u.seen + (if rowKind row = 0 then 0 else rowCount row)) % 2 ^ 32 }) n
      else if op = 3 ∧ rest.isEmpty ∧ !u.ending then
        let n := compactRun k v (clvSet k u n)
        clvStep k (rowEnd (clvGet n k)) n
      else clvStep k (rowEnd u) n
  | _, _ => n

/-! ### Batches and passes (R113-R116) -/

/-- Largest batch: 16 sub-requests, or 8 at M = 96 and M = 128. -/
def batchMax (m : Nat) : Nat := if 96 ≤ m then 8 else 16

/-- The slot of the i-th sub-request of a pass (R109). -/
def slotNo (m i : Nat) : Nat := if 96 ≤ m then 2 * i else i

/-- Consecutive rows of equal banks as runs: first, count, banks. -/
def rowRuns (l : List (Nat × Nat)) : List (Nat × Nat × Nat) :=
  (l.foldl (fun (acc : List (Nat × Nat × Nat)) x =>
    match acc with
    | (f, c, b) :: r => if x.2 = b ∧ x.1 = f + c ∧ c < 8191 then (f, c + 1, b) :: r else (x.1, 1, x.2) :: acc
    | [] => [(x.1, 1, x.2)]) []).reverse

/-- The non-empty delta rows of a shard by unit: row and banks (1 even, 2 odd, 3 both), ascending. -/
def unitRows (s : Shard) (k : Nat) : List (Nat × Nat) :=
  let ps := (s.drows.mapIdx (fun i d => (i, d))).filterMap (fun x =>
    if x.2.kind ≠ 0 && physUnit (physRow s x.1) = k then some (physRow s x.1) else none)
  let rows := (ps.map physNum).foldl (fun acc r => ninsert r acc) []
  rows.map (fun r => (r, (if ps.any (fun p => physNum p = r && !physOdd p) then 1 else 0)
    + (if ps.any (fun p => physNum p = r && physOdd p) then 2 else 0)))

/-- Those rows in the order a unit reads them. -/
def unitRowList (s : Shard) (k : Nat) : List (Bool × Nat) :=
  (unitRows s k).flatMap (fun r => (if r.2 % 2 = 1 then [(false, r.1)] else []) ++ (if 2 ≤ r.2 then [(true, r.1)] else []))

/-- The units that hold non-empty rows of a shard. -/
def shardUnits (s : Shard) : List Nat :=
  ((s.drows.mapIdx (fun i d => (i, d))).filterMap (fun x => if x.2.kind ≠ 0 then some (physUnit (physRow s x.1)) else none)).foldl
    (fun acc k => ninsert k acc) []

/-- A batch closes: its pass begins and its runs are fixed (R113, R114). -/
def closeBatch (b : Batch) (n : Node) : Node :=
  match shardFind n b.key with
  | none => n
  | some s =>
    let us := shardUnits s
    let p : Pass := { num := n.nextPass, key := b.key, begun := n.tick, subs := b.subs, started := false, units := us,
                      more := us.map (fun k => (k, unitRowList s k)),
                      ended := [], lists := [], bad := false, failed := false }
    { n with
      batches := n.batches.filter (fun x => x.key ≠ b.key), passes := n.passes ++ [p], nextPass := n.nextPass + 1,
      sched := { n.sched with waits := lpushMax 1024 n.sched.waits (n.tick - b.opened) } }

/-- A sub-request's delta scan joins the open batch of its shard (R113). -/
def batchAdd (key : ShardKey) (id : Nat) (n : Node) : Node :=
  let m := match genFind n key.handle key.gen with | some g => gM g | none => 64
  let b := match n.batches.find? (fun x => x.key = key) with
    | some b => { b with subs := b.subs ++ [id] }
    | none => { key := key, opened := n.tick, subs := [id] }
  let n := { n with batches := n.batches.filter (fun x => x.key ≠ key) ++ [b] }
  if batchMax m ≤ b.subs.length then closeBatch b n else n

/-- LUT slot data of a LUT record: subspaces from s0 on (R109). -/
def lutSlot (l : Lut) (s0 : Nat) : BitVec 8192 :=
  BitVec.ofNat 8192 (((l.e.drop (16 * s0)).take 1024).foldr (fun x acc => x % 256 + acc <<< 8) 0)

def paramMk (snap thresh : Nat) : BitVec 512 := BitVec.ofNat 512 (snap % 2 ^ 64 + thresh <<< 80)

/-- A slot parameter block is broadcast to the units of a pseudo-channel. -/
def paramWrite (st pc j : Nat) (v : BitVec 512) (n : Node) : Node :=
  windowWrite st none pc true 0xFFF3 (64 * j) { len := 64, bits := v.toNat } n

/-- A sub-request's LUT and parameters, THRESH 0xFFFF, are broadcast into its slot (R106, R115). -/
def slotLoad (m st pc i : Nat) (s : SubReq) (n : Node) : Node :=
  let j := slotNo m i
  let lut := fun (j s0 : Nat) (n : Node) => windowWrite st none pc false (0xFFF0 + j) 0 { len := 1024, bits := (lutSlot s.msg.lut s0).toNat } n
  let n := lut j 0 n
  let n := if 96 ≤ m then lut (j + 1) 64 n else n
  paramWrite st pc j (paramMk (s.snap.getD 0) 0xFFFF) n

/-- The rows of one SCAN of at most 12 runs, and the rows left over. -/
def splitRows (rows : List (Bool × Nat)) : List Nat × List (Bool × Nat) :=
  let nums := (rows.map (·.2)).foldl (fun acc r => ninsert r acc) []
  let withB := nums.map (fun r => (r, (if rows.any (fun x => x.2 = r && !x.1) then 1 else 0)
    + (if rows.any (fun x => x.2 = r && x.1) then 2 else 0)))
  let runs := rowRuns withB
  let words := (runs.take 12).map (fun r => r.2.1 + r.2.2 * 2 ^ 14 + r.1 * 2 ^ 16)
  (words, (runs.drop 12).flatMap (fun r => runRows (r.2.1 + r.2.2 * 2 ^ 14 + r.1 * 2 ^ 16)))

/-- Send a pass's next SCAN to a unit, for the slots whose sub-requests still wait. -/
def scanUnit (p : Pass) (m : Nat) (k : Nat) (rows : List (Bool × Nat)) (n : Node) : Node :=
  let w := splitRows rows
  let mask := nsum ((p.subs.mapIdx (fun i id => (i, id))).map (fun x => if (subFind n x.2).isSome then 2 ^ slotNo m x.1 else 0))
  clvIssue 1 k (cmdMk 1 (p.num % 256) mask (m / 2) (m / 2 + 8) p.key.shard 0 w.1) n

/-- A pass is over (R116): each slot's list goes to its sub-request; a bad row fails them all; a sub-request whose budget has passed
is left unanswered. -/
def passEnd (num : Nat) (n : Node) : Node :=
  match n.passes.find? (fun p => p.num = num) with
  | none => n
  | some p =>
    let m := match genFind n p.key.handle p.key.gen with | some g => gM g | none => 64
    let n := { n with passes := n.passes.filter (fun q => q.num ≠ num) }
    (p.subs.mapIdx (fun i id => (i, id))).foldl (fun n x =>
      match subFind n x.2 with
      | none => n
      | some s =>
        if p.bad || p.failed then dropWalks x.2 (subFailed x.2 n)
        else if s.budgetEnd ≤ n.tick ∧ s.steps = 0 then dropWalks x.2 { n with subReqs := n.subReqs.filter (fun y => y.id ≠ x.2) }
        else
          let l := (List.range 8).flatMap (fun st => sget [] p.lists (st * 16 + slotNo m x.1))
          subMod x.2 (fun y => { y with delta := some l }) n) n

/-- A unit has nothing more for a pass that has failed. -/
def clvQuiet (n : Node) (k : Nat) : Bool :=
  let u := clvGet n k
  u.off || !inMode n k || (!clvBusy u && u.queued.isEmpty && u.results.isEmpty)

/-- A started pass ends once every stack that holds its rows has ended; one that failed, once its units are quiet. -/
def passCheck (num : Nat) (n : Node) : Node :=
  match n.passes.find? (fun p => p.num = num) with
  | none => n
  | some p =>
    let over_ := if p.failed then p.units.all (clvQuiet n)
      else ((p.units.map (· / 768)).foldl (fun acc s => ninsert s acc) []).all (fun s => p.ended.contains s)
    if p.started && over_ then passEnd num n else n

/-- PASS_START: the oldest closed batch's pass starts once the earlier passes are over (R113, R115). Rows on a unit that is out of
service cannot be read: they await their rebuild elsewhere, so the pass counts them as bad (R116, R127, R128). -/
def passStart (n : Node) : Node :=
  match n.passes with
  | [] => n
  | p :: _ =>
    if p.started then n
    else
      let m := match genFind n p.key.handle p.key.gen with | some g => gM g | none => 64
      let out := fun k => (clvGet n k).off || !inMode n k
      let rows := p.more.filter (fun x => !out x.1)
      let p : Pass := { p with
        started := true, units := p.units.filter (fun k => !out k), bad := p.bad || p.units.any out,
        more := rows.map (fun x => (x.1, (splitRows x.2).2)) }
      let n := passMod p.num (fun _ => p) n
      let n := (pcsOf p.units).foldl (fun n c =>
        (p.subs.mapIdx (fun i id => (i, id))).foldl (fun n x =>
          match subFind n x.2 with
          | some s => slotLoad m (c / 32) (c % 32) x.1 s n
          | none => n) n) n
      passCheck p.num (rows.foldl (fun n x => scanUnit p m x.1 x.2 n) n)

/-- The running pass that a unit scans for. -/
def passOf (n : Node) (k : Nat) : Option Pass := n.passes.find? (fun p => p.started && p.units.contains k)

/-- Insert result entries into the delta lists of their slots; once a list is full, the largest code sum in it is broadcast as THRESH
to the stack's units that hold the shard's rows (R115). -/
def takeResults (k : Nat) (ws : List Nat) (n : Node) : Node :=
  match passOf n k with
  | none => n
  | some p =>
    let m := match genFind n p.key.handle p.key.gen with | some g => gM g | none => 64
    ws.foldl (fun n w =>
      let slot := entSlot w
      match n.passes.find? (fun q => q.num = p.num) with
      | none => n
      | some q =>
        match (q.subs[if 96 ≤ m then slot / 2 else slot]?).bind (subFind n) with
        | none => n
        | some s =>
          let key := k / 768 * 16 + slot
          let (l, n) := insertDrop s.width (entSum w, entLid w) (sget [] q.lists key) n
          let n := passMod p.num (fun q => { q with lists := sset [] q.lists key l }) n
          if l.length = s.width then
            (pcsOf (p.units.filter (fun v => v / 768 = k / 768))).foldl (fun n c =>
              paramWrite (c / 32) (c % 32) slot (paramMk (s.snap.getD 0) (maxSum l)) n) n
          else n) n

/-! ### Delta pages (R98, R128) -/

/-- Row groups of a bank pair inside the open region that no page takes. -/
def freeGroups (n : Node) (k : Nat) : List Nat :=
  let b := openBounds n (k / 768)
  ((List.range 2047).filter (fun g => b.1 ≤ g * 32 && g * 32 + 31 ≤ b.2)).filter
    (fun g => !n.openPages.any (fun p => p.1 = k * 2048 + g))

/-- A bank pair that can take a delta page: its unit is in service, and a row group of the open region is free. -/
def pairOk (n : Node) (k : Nat) : Bool :=
  let b := openBounds n (k / 768)
  inMode n k && !(clvGet n k).off &&
    decide ((n.openPages.filter (fun p => p.1 / 2048 = k)).length < (b.2 + 1 - b.1) / 32)

/-- Those of some bank pairs that hold the fewest pages of a list. -/
def leastLoaded (pages ks : List Nat) : List Nat :=
  let load := fun k => (pages.filter (fun p => p / 2048 = k)).length
  match lleast (fun a b => decide (load a < load b)) ks with
  | some b => ks.filter (fun k => load k = load b)
  | none => []

/-- The bank pair of the j-th delta page of a shard whose pages are `pages`: on the stacks in service in turn, on a pair with the
fewest pages of the shard and none of the pages beside it, so that no two pairs differ by more than one page (R98); where the stack in
turn has none, on another. Which of them is the node's choice. -/
def placePair (pages : List Nat) (j : Nat) (n : Node) : Option Nat × Node :=
  let ss := (List.range 8).filter (fun s => !(stkGet n s).lost)
  let near := ((if j = 0 then [] else [pages.getD (j - 1) 0]) ++ (pages[j + 1]?).toList).map (· / 2048)
  let ok := fun st => ((List.range 768).map (fun u => st * 768 + u)).filter (fun k => pairOk n k && !near.contains k)
  let turn := ok (ss.getD (j % ss.length) 0)
  let l := leastLoaded pages (if ss.isEmpty then [] else if turn.isEmpty then ss.flatMap ok else turn)
  match l with
  | [] => (none, n)
  | k :: ks => let (x, n) := pick k (k :: ks) n; (some x, n)

/-- Allocate a delta page on a bank pair; its row group is the node's choice (R98). -/
def allocPage (key : ShardKey) (k : Nat) (n : Node) : Option Nat × Node :=
  match freeGroups n k with
  | [] => (none, n)
  | g0 :: gs =>
    let (g, n) := pick g0 (g0 :: gs) n
    (some (k * 2048 + g), { n with openPages := n.openPages ++ [(k * 2048 + g, key)] })

/-- The j-th delta page of a shard is placed and allocated. -/
def placePage (key : ShardKey) (pages : List Nat) (j : Nat) (n : Node) : Option Nat × Node :=
  match placePair pages j n with
  | (some k, n) => allocPage key k n
  | (none, n) => (none, n)

/-- A delta page's bank pair is out of service or lost: the page moves to another pair, where its rows await their rebuild (R127,
R128). Where no pair can take it, its rows cannot be rebuilt. -/
def pageMove (page : Nat) (key : ShardKey) (n : Node) : Node :=
  match shardFind n key with
  | none => { n with openPages := n.openPages.filter (fun y => y.1 ≠ page) }
  | some s =>
    let j := (s.pages.findIdx? (fun y => y = page)).getD s.pages.length
    let (q, n) := placePage key s.pages j n
    let lost := fun (n : Node) => shardMod key (fun s => { s with
      drows := s.drows.mapIdx (fun i d => if i / 64 = j && d.kind ≠ 0 then { d with bad := true, asked := false } else d) }) n
    match q with
    | some q =>
      let n := (List.range 64).foldl (fun n i => putRow (pageRow page i) emptyRow n) n
      lost (shardMod key (fun s => { s with pages := s.pages.map (fun y => if y = page then q else y) })
        { n with openPages := n.openPages.filter (fun y => y.1 ≠ page) })
    | none =>
      let n := mscReport (page / 2048) 0x0A (page % 2048 * 32) false key.shard (lost n)
      shardMod key (fun s => { s with state := if s.state = 0 ∨ s.state = 2 then s.state else 4 }) n

/-- The delta pages of a unit taken out of service move to other bank pairs (R128). -/
def movePages (k : Nat) (n : Node) : Node :=
  (n.openPages.filter (fun p => p.1 / 2048 = k)).foldl (fun n p => pageMove p.1 p.2 n) n

/-! ### Units out of service (R116, R128) -/

/-- A unit is aborted and taken out of service; its pass fails (R116, R128). -/
def unitOff (k : Nat) (n : Node) : Node :=
  let ps := n.passes.filter (fun p => p.started && p.units.contains k)
  let n := failPasses k (clvMod k (fun u => { clvAborted u with off := true }) n)
  ps.foldl (fun n p => passCheck p.num n) (movePages k n)

/-- A unit is reported and taken out of service. -/
def unitOut (k code : Nat) (n : Node) : Node :=
  let u := clvGet n k
  let sh := match u.cmd with | some c => cmdShard c.toNat | none => 0
  let row := match u.rows with | r :: _ => r | [] => (false, 0)
  unitOff k (mscReport k code row.2 row.1 sh n)

/-- A sampled entry differs from its recomputation: reported with the entry's row; three within QUAR_WINDOW_MIN take the unit out
(R117). -/
def sampleDiffers (k : Nat) (e : Emit) (n : Node) : Node :=
  let u := clvGet n k
  let window := rfield n .recb 0 0x100 27 14
  let recent := u.differed.filter (fun t => decide (n.tick < t + ticksS (60 * window))) ++ [n.tick]
  let sh := match u.cmd with | some c => cmdShard c.toNat | none => 0
  let n := mscReport k 0x09 e.row.2 e.row.1 sh (clvSet k { u with differed := recent } n)
  if 3 ≤ recent.length then unitOff k n else n

/-- One entry in 4,096 that a stack emits is recomputed; whether it differs is left open (R117). -/
def sampleTaken (k : Nat) (es : List Emit) (n : Node) : Node :=
  let st := stkGet n (k / 768)
  let n := stkSet (k / 768) { st with emitted := (st.emitted + es.length) % 4096 } n
  match es[4095 - st.emitted]? with
  | some e =>
    let (x, n) := fresh n
    if x % 2 = 1 then sampleDiffers k e n else n
  | none => n

/-- RESULT_READ: the buffer is read and emptied, and a stalled unit resumes (R111, R118). -/
def resultRead (k : Nat) (n : Node) : Node :=
  let u := clvGet n k
  if !inMode n k ∨ u.results.isEmpty then n
  else
    let d := windowRead true 0xFFF2 u
    let ws := (List.range (Nat.min 32 u.results.length)).map (fun i => bnum d (8 * i) 8)
    let u1 := { u with results := [] }
    let n := if u.state = 3 then clvStep k (clvFill u1) n else clvSet k u1 n
    sampleTaken k u.results (takeResults k ws n)

/-! ### Refresh (R119-R121) -/

/-- A per-bank refresh, or a refresh management command, falls due: with no sequence running it is done at once; else it is postponed,
or the unit suspends at its next row boundary. -/
def refreshDue (k : Nat) (bank : Bank) (n : Node) : Node :=
  let u := clvGet n k
  let st := k / 768
  let post := match bank with | .even => u.postEven | .odd => u.postOdd
  if u.state = 1 ∨ u.state = 3 then
    if post < rfield n .msc st 0x110 2 0 then
      let u := match bank with
        | .even => { u with postEven := post + 1 }
        | .odd => { u with postOdd := post + 1 }
      cntMax (regAddr .msc st 0x158) (post + 1) (clvSet k u n)
    else clvSet k { u with suspend := true } n
  else clvSet k (match bank with | .even => { u with actEven := 0 } | .odd => { u with actOdd := 0 }) n

/-- The due and postponed refreshes end; a suspended unit resumes at the next row. -/
def refreshDone (k : Nat) (n : Node) : Node :=
  let u := clvGet n k
  if u.state = 2 then clvSet k { u with state := 1, postEven := 0, postOdd := 0, actEven := 0, actOdd := 0 } n else n

/-! ### Compaction, release, scrub, rebuild (R124-R127) -/

/-- COMPACTED rows return to EMPTY once every pass that began before their compaction's DONE has ended (R125). -/
def releaseRows (key : ShardKey) (n : Node) : Node :=
  match shardFind n key with
  | none => n
  | some s =>
    (s.drows.mapIdx (fun i d => (i, d))).foldl (fun n x =>
      if x.2.kind = 3 && !n.passes.any (fun p => p.num < x.2.release) then
        drowMod key x.1 (fun _ => drowEmpty) (putRow (physRow s x.1) emptyRow n)
      else n) n

/-- A unit that the controller may give a CHECK or a COMPACT: in service, accepting, and not in a running pass. -/
def unitFree (n : Node) (k : Nat) : Bool :=
  let u := clvGet n k
  inMode n k && !u.off && (u.state = 0 || u.state = 4) && u.queued.isEmpty && (passOf n k).isNone

/-- The next CHECK of a scrub goes to a unit, at most 12 runs at a time (R126). -/
def scrubNext (k : Nat) (n : Node) : Node :=
  let st := stkGet n (k / 768)
  if !unitFree n k then n
  else match st.scrubs.find? (fun j => j.1 = k) with
    | none => n
    | some (_, key, rows) =>
      let w := splitRows rows
      let rest := st.scrubs.filter (fun j => !(j.1 = k && j.2.1 = key))
      let n := stkSet (k / 768) { st with scrubs := if w.2.isEmpty then rest else rest ++ [(k, key, w.2)] } n
      let cb := shardCB n key
      clvIssue 2 k (cmdMk 2 0 0 cb (cb + 8) key.shard 0 w.1) n

/-- CHECK over every non-empty open row of a stack, once in each SCRUB_MS (R126): the units whose turn has not come keep their rows. -/
def scrub (st : Nat) (n : Node) : Node :=
  let k := stkGet n st
  let n := reach (k.scrubAt + ticksMs (rfield n .msc st 0x118 15 0)) n
  let jobs := n.shards.flatMap (fun s => ((shardUnits s).filter (fun u => u / 768 = st && !(clvGet n u).off)).map (fun u =>
    (u, s.key, unitRowList s u)))
  let n := stkSet st { k with scrubAt := n.tick, scrubs := jobs } n
  jobs.foldl (fun n j => scrubNext j.1 n) n

/-- The INSERT or UPSERT record of an MSN in the shard's journal. -/
def jrecFind (s : Shard) (msn : Nat) : Option JRec :=
  (s.journal.flatMap (·.recs)).find? (fun r => r.msn = msn && r.kind ≠ 2)

/-- The FP32 values of an item's stored full vector, from the journal or the full-vector area (R127). -/
def itemVec (g : IdxGen) (s : Shard) (msn lid : Nat) : Option (List F32) :=
  match jrecFind s msn with
  | some r => some (fullValues (gFullFmt g) (gDim g) r.full.bits)
  | none => (sfind s.full lid).map (fullValues (gFullFmt g) (gDim g))

/-- ROW_REBUILD: a bad row is encoded again from its items' vectors and written whole. What this holder lacks it asks of the primary
or partner once, and the row waits for the answer; a row that still lacks a vector cannot be rebuilt (R127). -/
def rowRebuild (key : ShardKey) (i : Nat) (n : Node) : Node :=
  match shardFind n key, genFind n key.handle key.gen with
  | some s, some g =>
    match s.drows[i]?, g.codebook with
    | some d, some book =>
      if !d.bad then n
      else
        let p := physRow s i
        let es := d.ents.map (fun e => (itemVec g s e.1 e.2).map (fun v =>
          ({ code := encodePQVec book (gM g) (gWidth g) v, folded := blkLinked (adjGet s e.2), lid := e.2, msn := e.1 } : DEnt)))
        if es.all (·.isSome) then
          let es := es.filterMap id
          let n := putRow p (if d.kind = 0 then emptyRow else rowMk key.shard (gM g) d.base d.kind es) n
          let n := drowMod key i (fun d => { d with bad := false, asked := false }) n
          mscCnt (physUnit p / 768) 0x150 1 n
        else if n.awaits.any (fun a => match a.m with | .rebuildRead x => x.key = key | _ => false) then n
        else match otherHolders n key, d.asked with
          | o :: _, false =>
            let lids := (d.ents.filter (fun e => (itemVec g s e.1 e.2).isNone)).map (·.2)
            drowMod key i (fun d => { d with asked := true })
              (sendAwait o (.rebuildRead { key := key, firstMsn := d.first, lastMsn := d.last, lids := lids }) n)
          | _, _ => shardMod key (fun s => { s with state := if s.state = 0 ∨ s.state = 2 then s.state else 4 })
              (mscReport (physUnit p) 0x0A (physNum p) (physOdd p) key.shard n)
    | _, _ => n
  | _, _ => n

/-- EMPTY rows of a shard's reservation on one unit, those never used among them. -/
def emptyAt (s : Shard) (k : Nat) : List Nat :=
  (List.range s.pages.length).flatMap (fun j =>
    if s.pages.getD j 0 / 2048 ≠ k then []
    else (List.range 64).filterMap (fun r =>
      if (s.drows.getD (64 * j + r) drowEmpty).kind = 0 then some (physRow s (64 * j + r)) else none))

/-- The first run of EMPTY rows that holds `need` rows: over both banks, else over one (R101, R124). -/
def destRun (ps : List Nat) (need : Nat) : Option (Nat × Nat × Nat) :=
  let rows := fun (odd : Bool) => lsort (fun a b : Nat => decide (a < b)) ((ps.filter (fun p => physOdd p == odd)).map physNum)
  let ev := rows false
  let od := rows true
  let both := rowRuns ((ev.filter (fun r => od.contains r)).map (fun r => (r, 3)))
  let one := rowRuns (ev.map (fun r => (r, 1))) ++ rowRuns (od.map (fun r => (r, 2)))
  if need = 0 then some (0, 0, 0)
  else match both.find? (fun r => decide (need ≤ 2 * r.2.1)) with
    | some r => some r
    | none => one.find? (fun r => decide (need ≤ r.2.1))

/-- COMPACT for a shard's rows on one bank pair, once FOLDED entries make up FOLDED_PCT percent of its CLOSED rows (R124): at most 12
source rows in ascending BASE_MSN, a destination run of EMPTY rows of the pair. It waits while the unit is busy or the pair has no
such run; the controller asks again when an entry folds, a row closes, the register is written, or it polls the unit. -/
def compactDue (key : ShardKey) (k : Nat) (n : Node) : Node :=
  match shardFind n key, genFind n key.handle key.gen with
  | some s, some g =>
    let mine := (s.drows.mapIdx (fun i d => (i, d))).filterMap (fun x =>
      if x.2.kind = 2 && physUnit (physRow s x.1) = k then some x.1 else none)
    if mine.isEmpty ∨ !unitFree n k then n
    else
      let n := ctlReads key (fun i => mine.contains i) n
      match shardFind n key with
      | none => n
      | some s =>
        let closed := (goodRows n s).filter (fun x => mine.contains x.1)
        let ents := closed.flatMap (fun x => rowEnts x.2.2)
        let fold := (ents.filter (·.folded)).length
        if ents.isEmpty ∨ fold * 100 < rfield n .msc (k / 768) 0x11C 6 0 * ents.length then n
        else
          let src := (lsort (fun a b : Nat × DRow × Nat => decide (a.2.1.base < b.2.1.base)) closed).take 12
          let un := src.flatMap (fun x => (rowEnts x.2.2).filter (fun e => !e.folded))
          let need := (greedyRows (rowCap (gM g / 2 + 8)) un).length
          match destRun (emptyAt s k) need with
          | none => n
          | some r =>
            let runs := src.map (fun x =>
              let p := physRow s x.1
              1 + (if physOdd p then 2 else 1) * 2 ^ 14 + physNum p * 2 ^ 16)
            clvIssue 3 k (cmdMk 3 0 0 (gM g / 2) (gM g / 2 + 8) key.shard (r.2.1 + r.2.2 * 2 ^ 14 + r.1 * 2 ^ 16) runs) n
  | _, _ => n

/-- Every pair that satisfies `sel` is asked for a compaction. -/
def compactAll (sel : Nat → Bool) (n : Node) : Node :=
  n.shards.foldl (fun n s => ((shardUnits s).filter sel).foldl (fun n k => compactDue s.key k n) n) n

/-! ### The summary poll (R116, R118) -/

/-- The controller clears a pseudo-channel, ABORT and then CLEAR by broadcast, when a unit of it has an error to clear and none is in a
pass or runs a command (DESIGN CHOICE, log 164). -/
def pcClear (s pc : Nat) (n : Node) : Node :=
  let us := pcUnits s pc
  let calm := us.all (fun k => (passOf n k).isNone && !clvBusy (clvGet n k) && (clvGet n k).results.isEmpty)
  let needs := us.any (fun k => let u := clvGet n k; u.cmdErr || u.state = 5 || u.state = 6 || u.badRows ≠ 0)
  if calm && needs then commandWrite s none pc (cmdMk 5 0 0 0 0 0 0 []) (commandWrite s none pc (cmdMk 4 0 0 0 0 0 0 []) n)
  else n

/-- SUMMARY_POLL: the summary is read, buffers are read, errors acted on, further SCANs sent, and a stack whose units are all DONE and
empty has ended; then what waited for idle units goes on (R116, R118, R124, R126). -/
def summaryPoll (s pc : Nat) (n : Node) : Node :=
  let d := summaryRow n s pc
  let units := (List.range 24).map (fun p => (s * 768 + 24 * pc + p, bnum d (2 * p) 2))
  let n := units.foldl (fun n x =>
    let k := x.1
    let n := if nbits x.2 10 5 = 0 then n else resultRead k n
    let sh := match (clvGet n k).cmd with | some c => cmdShard c.toNat | none => 0
    if nbit x.2 3 ∧ n.passes.any (fun p => p.started && !p.failed && p.units.contains k) then
      failPasses k (mscReport k 0x04 0 false sh n)
    else if nbit x.2 3 ∧ (passOf n k).isNone then mscReport k 0x04 0 false sh n
    else if nbits x.2 15 12 = 6 ∧ !(clvGet n k).off then unitOut k 0x06 n
    else n) n
  let n := units.foldl (fun n x =>
    let k := x.1
    match passOf n k with
    | none => n
    | some p =>
      let m := match genFind n p.key.handle p.key.gen with | some g => gM g | none => 64
      match p.more.find? (fun y => y.1 = k && !y.2.isEmpty) with
      | some y =>
        if (clvGet n k).state = 4 then
          scanUnit p m k y.2 (passMod p.num (fun q => { q with
            more := q.more.map (fun z => if z.1 = k then (k, (splitRows y.2).2) else z) }) n)
        else n
      | none => n) n
  let nums := n.passes.filterMap (fun p => if p.started then some p.num else none)
  let n := nums.foldl (fun n num =>
    match n.passes.find? (fun p => p.num = num) with
    | none => n
    | some p =>
      let us := p.units.filter (fun k => k / 768 = s)
      let done := us.all (fun k => (clvGet n k).state = 4 && (clvGet n k).results.isEmpty &&
        p.more.all (fun x => x.1 ≠ k || x.2.isEmpty))
      if done && !us.isEmpty && !p.failed && !p.ended.contains s then
        passCheck num (mscCnt s 0x130 1 (passMod num (fun q => { q with ended := q.ended ++ [s] }) n))
      else passCheck num n) n
  let n := pcClear s pc n
  let n := compactAll (fun k => k / 768 = s && unitPc k = pc) n
  units.foldl (fun n x => scrubNext x.1 n) n

/-! ### Clove mode and the open region (R99, R104) -/

/-- A write of MSC_CLOVE_OFF: each named pseudo-channel without an open page leaves Clove mode (R104); the report of a refusal names
its first unit and no row or shard (DESIGN CHOICE, log 165). -/
def cloveOff (st v : Nat) (n : Node) : Node :=
  (List.range 32).foldl (fun n pc =>
    if !v.testBit pc || (stkGet n st).pcOff.contains pc then n
    else if n.openPages.any (fun p => p.1 / 2048 / 768 = st && unitPc (p.1 / 2048) = pc) then
      mscReport (st * 768 + 24 * pc) 0x07 0 false 0 n
    else
      let ps := n.passes.filter (fun p => p.started && p.units.any (fun k => k / 768 = st && unitPc k = pc))
      let n := (pcUnits st pc).foldl (fun n k => failPasses k (clvMod k clvAborted n)) n
      let n := stkSet st { stkGet n st with pcOff := (stkGet n st).pcOff ++ [pc] } n
      ps.foldl (fun n p => passCheck p.num n) n) n

/-- A stack frame in use, or the target of a move under way, lies in row group g of a stack. -/
def groupUsed (n : Node) (st g : Nat) : Bool :=
  let in_ := fun (f : Nat) => f / 2 ^ 21 = st && f % 2048 = g
  n.openPages.any (fun p => p.1 / 2048 / 768 = st && p.1 % 2048 = g) ||
  n.mmu.ptab.any (fun e => match e.2 with
    | some x => !x.open_ && ((x.home = 1 && in_ x.frame) || (x.moving && x.target = 1 && in_ x.tframe))
    | none => false)

/-- A write of MSC_OPEN (R99): ignored unless OPEN_FIRST ≤ OPEN_LAST ≤ 0xFE, refused with OPEN_BUSY while a tier page lies in a row
that would change kind; the report names unit, row and shard 0 (DESIGN CHOICE, log 165). -/
def mscOpen (st : Nat) (v : Word) (n : Node) : Node :=
  let f := wbits v 15 8
  let l := wbits v 7 0
  if l < f ∨ 0xFE < l then n
  else
    let b := openBounds n st
    let was := fun g => decide (b.1 ≤ g * 32) && decide (g * 32 ≤ b.2)
    let will := fun g => decide (f * 8 ≤ g) && decide (g ≤ l * 8 + 7)
    if (List.range 2047).any (fun g => was g != will g && groupUsed n st g) then mscReport (st * 768) 0x07 0 false 0 n
    else regPut (regAddr .msc st 0x10C) (v &&& 0xFFFF#32) n

/-! ### The commands -/

/-- How long a batch is held: BATCH_HOLD_US (R113), or less where passes are queued, by the wait that the holder expects (R419; log 176). -/
def batchHold (n : Node) : Nat × Node :=
  let h := ticksUs (rfield n .msc 0 0x114 5 0)
  if n.passes.isEmpty then (h, n) else
    let (x, n) := fresh n
    (x % (h + 1), n)

/-- The oldest sub-request of a batch has waited the hold (R113). -/
def execBatchHoldExpiry (key : ShardKey) (s : State) : Host.Outcome State Fault Refusal :=
  run s (fun n => match n.batches.find? (fun b => b.key = key) with
    | some b =>
      let (h, n) := batchHold n
      closeBatch b (reach (b.opened + h) n)
    | none => n)

def execPassStart (s : State) : Host.Outcome State Fault Refusal := run s passStart

def execLutSlotWrite (stack : Fin 8) (target : Option (Fin 768)) (pc : Fin 32) (slot : Fin 16) (data : BitVec 8192) (s : State) :
    Host.Outcome State Fault Refusal :=
  run s (windowWrite stack.val (target.map Fin.val) pc.val false (0xFFF0 + slot.val) 0 { len := 1024, bits := data.toNat })

def execSlotParamWrite (stack : Fin 8) (target : Option (Fin 768)) (pc : Fin 32) (slot : Fin 16) (data : BitVec 512) (s : State) :
    Host.Outcome State Fault Refusal :=
  run s (windowWrite stack.val (target.map Fin.val) pc.val true 0xFFF3 (64 * slot.val) { len := 64, bits := data.toNat })

def execCloveNop (u : UnitId) (cmd : BitVec 512) (s : State) : Host.Outcome State Fault Refusal :=
  run s (clvIssue 0 (unitNo u) cmd)

def execScan (u : UnitId) (cmd : BitVec 512) (s : State) : Host.Outcome State Fault Refusal :=
  run s (clvIssue 1 (unitNo u) cmd)

def execCheck (u : UnitId) (cmd : BitVec 512) (s : State) : Host.Outcome State Fault Refusal :=
  run s (clvIssue 2 (unitNo u) cmd)

def execCompact (u : UnitId) (cmd : BitVec 512) (s : State) : Host.Outcome State Fault Refusal :=
  run s (clvIssue 3 (unitNo u) cmd)

/-- ABORT to one unit, or by broadcast (R106, R108). -/
def execAbort (units : WindowUnits) (cmd : BitVec 512) (s : State) : Host.Outcome State Fault Refusal :=
  run s (commandWrite units.stack.val (units.target.map Fin.val) units.pc.val (cmdWith 4 cmd))

/-- CLEAR to one unit, or by broadcast (R106, R108). -/
def execCloveClear (units : WindowUnits) (cmd : BitVec 512) (s : State) : Host.Outcome State Fault Refusal :=
  run s (commandWrite units.stack.val (units.target.map Fin.val) units.pc.val (cmdWith 5 cmd))

/-- An invalid command, one written to a full queue, or a write elsewhere in the COMMAND row: CMD_ERR, and it is discarded (R105, R107,
R108). -/
def execCloveInvalidOpcode (u : UnitId) (_cmd : BitVec 512) (s : State) : Host.Outcome State Fault Refusal :=
  run s (fun n => if inMode n (unitNo u) then clvMod (unitNo u) (fun v => { v with cmdErr := true }) n else n)

def execCloveRowDone (u : UnitId) (s : State) : Host.Outcome State Fault Refusal := run s (rowDone (unitNo u))

def execResultRead (u : UnitId) (s : State) : Host.Outcome State Fault Refusal := run s (resultRead (unitNo u))

def execSummaryPoll (stack : Fin 8) (pc : Fin 32) (s : State) : Host.Outcome State Fault Refusal :=
  run s (summaryPoll stack.val pc.val)

/-- A unit RUNNING without progress for 2 µs is aborted and taken out of service (R116, R128). -/
def execUnitNoProgress (u : UnitId) (s : State) : Host.Outcome State Fault Refusal :=
  run s (fun n => if (clvGet n (unitNo u)).state = 1 then unitOut (unitNo u) 0x05 n else n)

def execRefreshDue (u : UnitId) (bank : Bank) (s : State) : Host.Outcome State Fault Refusal :=
  run s (refreshDue (unitNo u) bank)

def execRefreshComplete (u : UnitId) (s : State) : Host.Outcome State Fault Refusal := run s (refreshDone (unitNo u))

def execScrubPeriod (stack : Fin 8) (s : State) : Host.Outcome State Fault Refusal := run s (scrub stack.val)

def execMscCloveOff (stack : Fin 8) (v : Word) (s : State) : Host.Outcome State Fault Refusal :=
  run s (cloveOff stack.val v.toNat)

def execMscOpenWrite (stack : Fin 8) (v : Word) (s : State) : Host.Outcome State Fault Refusal :=
  run s (mscOpen stack.val v)

end Sys2Proof.Machine
end

