-- ==== Sys2Proof/Machine/Select.lean ====
section
/-!
DEFINITION. Sys2Proof/Machine/Select.lean: Mace units: shard selection, filters, widening and exact rerank (R131-R147),
and the final merge of a query (R24, R25, R143, R148).
-/
namespace Sys2Proof.Machine

/-! ### Mace units (R132) -/

def mcePage (i : Nat) : Nat := pageOf .mce i

def mceCnt (i off k : Nat) (n : Node) : Node := bump (regAddr .mce i off) k n

def mceCntOf (i : Option Nat) (off k : Nat) (n : Node) : Node :=
  match i with
  | some i => mceCnt i off k n
  | none => n

/-- Requests in progress on a unit: shard selections and final merges. -/
def mceLoad (n : Node) (i : Nat) : Nat :=
  (n.subReqs.filter (fun s => s.mce = some i)).length + (n.reqs.filter (fun r => r.mce = some i)).length

/-- An active unit with the fewest requests in progress, other than `not`; none while each has 32 (R132). -/
def mcePick (not : Option Nat) (n : Node) : Option Nat × Node :=
  let us := (activeUnits n .mce).filter (fun i => some i ≠ not && decide (mceLoad n i < 32))
  match us with
  | [] => (none, n)
  | u :: _ =>
    let least := us.foldl (fun b i => Nat.min b (mceLoad n i)) (mceLoad n u)
    let (i, n) := pick u (us.filter (fun i => mceLoad n i = least)) n
    (some i, n)

/-- An MCE report: the shard in INFO_LO [15:0], the local id in INFO_HI (R150). -/
def mceReport (i code shard lid : Nat) (n : Node) : Node := report .mce i code (shard % 65536) (lid % 2 ^ 32) n

/-- The oldest request that waits for a unit gets one, where one has room (R132). -/
def mceAssign (n : Node) : Node :=
  match n.subReqs.find? (fun s => s.mce.isNone) with
  | none => n
  | some s =>
    match mcePick none n with
    | (some i, n) => subMod s.id (fun s => { s with mce := some i }) n
    | (none, n) => n

/-- Mace units are sampled for shadow recomputation as they end a piece of work (R341). -/
def mceSample (i : Nat) (n : Node) : Node :=
  let (m, n) := sampled n
  if m then shadowAdd (mcePage i) 0 0 n else n

/-! ### Selecting in order with free ties (R136) -/

/-- The `k` least elements in ascending order; which of equal elements comes first, or in at all, is unspecified. -/
def selectFree {α : Type} [DecidableEq α] (lt : α → α → Bool) : Nat → List α → Node → List α × Node
  | 0, _, n => ([], n)
  | k + 1, l, n =>
    match lleast lt l with
    | none => ([], n)
    | some x =>
      let (y, n) := pick x (l.filter (fun z => !lt x z)) n
      let (r, n) := selectFree lt k (lremoveFirst (fun z => z = y) l) n
      (y :: r, n)

/-! ### Filters (R138-R141) -/

/-- FIELD f of an attribute word, as FIELD_TYPES gives its type (R49, R50). -/
def attrField (types attr f : Nat) : Int :=
  let v := nbits attr (64 + 16 * f + 15) (64 + 16 * f)
  if nbit types f ∧ 32768 ≤ v then (v : Int) - 65536 else (v : Int)

def fieldVal (types f v : Nat) : Int := if nbit types f ∧ 32768 ≤ v then (v : Int) - 65536 else (v : Int)

def termOp (t : BitVec 128) : Nat := nbits t.toNat 31 28
def termEnd (t : BitVec 128) : Bool := nbit t.toNat 27
def termField (t : BitVec 128) : Nat := nbits t.toNat 1 0
def termMask (t : BitVec 128) : Nat := nbits t.toNat 127 64
def termLo (t : BitVec 128) : Nat := nbits t.toNat 79 64
def termHi (t : BitVec 128) : Nat := nbits t.toNat 95 80

/-- One term over an attribute word (R139). -/
def termHolds (types attr : Nat) (t : BitVec 128) : Bool :=
  let tags := attr % 2 ^ 64
  let f := termField t
  match termOp t with
  | 0 => (tags &&& termMask t) ≠ 0
  | 1 => (tags &&& termMask t) = termMask t
  | 2 => (tags &&& termMask t) = 0
  | 3 => decide (fieldVal types f (termLo t) ≤ attrField types attr f) && decide (attrField types attr f ≤ fieldVal types f (termHi t))
  | _ => decide (attrField types attr f = fieldVal types f (termLo t))

/-- Some clause holds: `cur` says that the open clause's earlier terms hold (R141). -/
def filterFrom (types attr : Nat) : Bool → List (BitVec 128) → Bool
  | _, [] => false
  | cur, t :: ts =>
    let h := cur && termHolds types attr t
    if termEnd t then h || filterFrom types attr true ts else filterFrom types attr h ts

/-- An empty filter passes every entry (R138). -/
def filterPasses (types attr : Nat) (f : List (BitVec 128)) : Bool := f.isEmpty || filterFrom types attr true f

/-! ### Steps 1 to 5 of R131 -/

/-- Step 1: the walk's entries, then those of the delta lists, as candidates. -/
def gather (walk delta : List (Nat × Nat)) : List Cand :=
  let mk := fun (w d : Bool) (p : Nat × Nat) =>
    ({ lid := p.2, sum := p.1, walk := w, delta := d, key := 0, exact := false, sat := false, dist := 0, read := 0 } : Cand)
  walk.map (mk true false) ++ delta.map (mk false true)

/-- Steps 2 and 3 for one entry (R133, R134), read for the request's tenant (R217). -/
def resolveOne (i tid : Nat) (s : Shard) (snap : Nat) (deltaIds : List Nat) (c : Cand) (n : Node) : Option Cand × Node :=
  let drop := fun n => (none, mceReport i 0x02 s.key.shard c.lid (mceCnt i 0x148 1 n))
  let (ok, n) := memReadFor (some tid) (idmapAddr s c.lid) 16 n
  if !ok then drop n
  else
    let e := sget 0 s.idmap c.lid
    let alone := !deltaIds.contains c.lid
    let (ok, n) := if alone then memReadFor (some tid) (adjAddr s c.lid) 256 n else (true, n)
    if !ok then drop n
    else
      let insOk := !alone || decide (blkMsn (adjGet s c.lid) ≤ snap)
      let delOk := idmapDel e = 0 || decide (snap < idmapDel e)
      if insOk && delOk then (some { c with key := idmapKey e }, n) else (none, mceCnt i 0x128 1 n)

def resolveAll (i tid : Nat) (s : Shard) (snap : Nat) (deltaIds : List Nat) : List Cand → Node → List Cand × Node
  | [], n => ([], n)
  | c :: l, n =>
    let (r, n) := resolveOne i tid s snap deltaIds c n
    let (rs, n) := resolveAll i tid s snap deltaIds l n
    match r with
    | some c => (c :: rs, n)
    | none => (rs, n)

/-- Step 4: a copy joins the entry of its key; the smaller estimate stays, either of equals (R135). -/
def dedupOne (i : Nat) (lut : Lut) (c : Cand) : List Cand → Node → List Cand × Node
  | [], n => ([c], n)
  | d :: l, n =>
    if d.key = c.key then
      let join := fun (x : Cand) => { x with walk := c.walk || d.walk, delta := c.delta || d.delta }
      let n := mceCnt i 0x12C 1 n
      let ec := estimate lut c.sum
      let ed := estimate lut d.sum
      if f32Lt ec ed then (join c :: l, n)
      else if f32Lt ed ec ∨ c.lid = d.lid then (join d :: l, n)
      else
        let (x, n) := pick d [d, c] n
        (join x :: l, n)
    else
      let (r, n) := dedupOne i lut c l n
      (d :: r, n)

/-- Step 5 for one entry (R141). -/
def filterOne (i tid : Nat) (g : IdxGen) (s : Shard) (f : List (BitVec 128)) (c : Cand) (n : Node) : Bool × Node :=
  if f.isEmpty then (true, n)
  else
    let (ok, n) := memReadFor (some tid) (attrAddr s c.lid) 16 n
    if !ok then (false, mceReport i 0x03 s.key.shard c.lid (mceCnt i 0x148 1 n))
    else if filterPasses (gFieldTypes g) (sget 0 s.attr c.lid) f then (true, n)
    else (false, mceCnt i 0x130 1 n)

def filterAll (i tid : Nat) (g : IdxGen) (s : Shard) (f : List (BitVec 128)) : List Cand → Node → List Cand × Node
  | [], n => ([], n)
  | c :: l, n =>
    let (ok, n) := filterOne i tid g s f c n
    let (r, n) := filterAll i tid g s f l n
    (if ok then c :: r else r, n)

/-- Steps 1 to 5 in their order. -/
def survivors (i : Nat) (g : IdxGen) (s : Shard) (q : SubReq) (walk delta : List (Nat × Nat)) (n : Node) : List Cand × Node :=
  let (l, n) := resolveAll i q.msg.tid s (q.snap.getD 0) (delta.map (·.2)) (gather walk delta) n
  let (l, n) := l.foldl (fun (acc : List Cand × Node) c => dedupOne i q.msg.lut c acc.1 acc.2) ([], n)
  let (l, n) := filterAll i q.msg.tid g s q.msg.filter l n
  (l.map (fun c => { c with dist := estimate q.msg.lut c.sum }), n)

/-! ### Records and the partial -/

/-- A result record (R137): key, distance, shard, flags EXACT 0, FROM_WALK 1, FROM_DELTA 2, SATURATED 3. -/
def recMk (key : Nat) (dist : F32) (shard flags : Nat) : BitVec 128 :=
  BitVec.ofNat 128 (key % 2 ^ 64 + dist.toNat <<< 64 + (shard % 65536) <<< 96 + flags <<< 112)

def recKey (r : BitVec 128) : Nat := r.toNat % 2 ^ 64
def recDist (r : BitVec 128) : F32 := BitVec.ofNat 32 (nbits r.toNat 95 64)
def recFlags (r : BitVec 128) : Nat := nbits r.toNat 127 112

def candFlags (c : Cand) : Nat := b2n c.exact + 2 * b2n c.walk + 4 * b2n c.delta + 8 * b2n c.sat

def candRec (shard : Nat) (c : Cand) : BitVec 128 := recMk c.key c.dist shard (candFlags c)

/-- Shard target (R142). -/
def shardTarget (k : Nat) : Nat := Nat.min k 1024

/-- Selection passes over `staged` entries; none while 256 suffice (R147). -/
def passesOf (k staged : Nat) : Nat :=
  if 256 < staged ∨ 256 < k then (Nat.min k staged + 255) / 256 else 0

/-- Step 8 (R136, R137, R143): the partial leaves for the admitting node and the sub-request is over. `n0` entries
survived step 5. -/
def partialSend (q : SubReq) (unit : Nat) (l : List Cand) (n0 : Nat) (n : Node) : Node :=
  let t := shardTarget q.msg.k
  let lt := fun (a b : Cand) => if q.msg.rerankDepth = 0 then decide (a.sum < b.sum) else f32Lt a.dist b.dist
  let (sel, n) := selectFree lt t l n
  let short := decide (n0 < t)
  let (e, n) := measured n
  let n := sendTag q.src q.tag (.partialMsg {
      shard := q.msg.key.shard, status := 0, failed := false, shortfall := short, widenUsed := q.steps, energy := e, forwarded := q.msg.forwarded, records := sel.map (candRec q.msg.key.shard) }) n
  let n := mceCnt unit 0x110 1 (mceCnt unit 0x118 (passesOf q.msg.k l.length) n)
  let n := if short then mceCnt unit 0x134 1 n else n
  mceAssign (mceSample unit { n with subReqs := n.subReqs.filter (fun x => x.id ≠ q.id) })

/-! ### Exact rerank (R144-R146) -/

/-- The exact distance of R32 in ascending order, each operation bounded (R144), and whether one was bounded. -/
def exactDist (metric : Nat) (q v : List (F32 × Bool)) : F32 × Bool :=
  let r :=
    if metric = 0 then (q.zip v).foldl (fun acc p =>
      let d := fAddO p.1 (fNegO p.2)
      fAddO acc (fMulO d d)) (0, false)
    else
      let s := (q.zip v).foldl (fun acc p => fAddO acc (fMulO p.1 p.2)) ((0 : F32), false)
      if metric = 1 then fNegO s else fAddO (f32OfNat 1, false) (fNegO s)
  (if f32Zero r.1 then 0 else r.1, r.2)

/-- A stored record's elements, INT8 decoded as element × SCALE in FP32. -/
def fullElems (fmt d rec_ : Nat) : List (F32 × Bool) :=
  if fmt = 3 then (List.range d).map (fun i => int8Scaled (BitVec.ofNat 32 rec_) (nbits rec_ (64 + 8 * i + 7) (64 + 8 * i)))
  else (fullValues fmt d rec_).map (fun x => (x, false))

/-- Every read has ended: the reranked entries are selected. -/
def rerankCheck (id : Nat) (n : Node) : Node :=
  match subFind n id with
  | none => n
  | some q =>
    match q.mce with
    | some i => if q.reranking && q.rerank.all (fun c => c.read = 2) then partialSend q i q.rerank q.prev.length n else n
    | none => n

/-- Step 7: the RERANK_DEPTH entries with the smallest estimates, their reads issued; step 8 at once without rerank.
RERANK_DEPTH is applied to the entries that survived step 5 of the last round. -/
def rerankStart (id unit : Nat) (l : List Cand) (n : Node) : Node :=
  match subFind n id with
  | none => n
  | some q =>
    if q.msg.rerankDepth = 0 then partialSend q unit l l.length n
    else
      let (sel, n) := selectFree (fun a b : Cand => decide (a.sum < b.sum)) q.msg.rerankDepth l n
      rerankCheck id (subMod id (fun q => { q with
        reranking := true, prev := l, rerank := sel.map (fun c => { c with read := 1 }) }) n)

def candMod (id lid : Nat) (f : Cand → Cand) (n : Node) : Node :=
  subMod id (fun q => { q with rerank := lmodify (fun c => c.lid = lid && c.read = 1) f q.rerank }) n

/-- A full-vector read ends (R144, R145); one that the MMU refuses has failed (R217). -/
def rerankRead (id lid : Nat) (ok : Bool) (n : Node) : Node :=
  match subFind n id with
  | none => n
  | some q =>
    match q.mce, shardFind n q.msg.key, genFind n q.msg.key.handle q.msg.key.gen with
    | some u, some s, some g =>
      if !q.rerank.any (fun c => c.lid = lid && c.read = 1) then n
      else
      let (may, n) := memReadFor (some q.msg.tid) (fullAddr g s lid) (fullSize (gFullFmt g) (gDim g)) n
      if !(ok && may) then
        rerankCheck id (candMod id lid (fun c => { c with read := 2 })
          (mceReport u 0x04 q.msg.key.shard lid (mceCnt u 0x13C 1 n)))
      else
        let (b, n) := flashBytes (fullAddr g s lid) (bofNat (fullSize (gFullFmt g) (gDim g)) (sget 0 s.full lid)) n
        let r := exactDist (gMetric g) (q.msg.qvec.map (fun x => (x, false))) (fullElems (gFullFmt g) (gDim g) b.bits)
        let n := mceCnt u 0x120 1 n
        let n := if r.2 then mceReport u 0x05 q.msg.key.shard lid (mceCnt u 0x144 1 n) else n
        rerankCheck id (candMod id lid (fun c => { c with read := 2, exact := true, sat := r.2, dist := r.1 }) n)
    | _, _, _ => n

/-- RERANK_GUARD_US of a unit, in ticks (R149). -/
def rerankGuard (n : Node) (i : Nat) : Nat := ticksUs (rfield n .mce i 0x104 6 0)

/-- The rerank cutoff (R146). -/
def rerankCut (id : Nat) (n : Node) : Node :=
  match subFind n id with
  | none => n
  | some q =>
    match q.mce with
    | none => n
    | some u =>
    if !q.reranking then n
    else
      let n := reach (q.budgetEnd - rerankGuard n u) n
      let out := (q.rerank.filter (fun c => c.read = 1)).length
      let n := mceCnt u 0x140 out n
      rerankCheck id (subMod id (fun q => { q with rerank := q.rerank.map (fun c => { c with read := 2 }) }) n)

/-! ### Widening (R142) and the whole selection (R131) -/

/-- A widening step is due: the shard is short and every condition of R142 holds. -/
def widenDue (q : SubReq) (status walkLen left tick : Nat) : Bool :=
  left < shardTarget q.msg.k && q.steps < q.msg.widen && status = 0 && walkLen = q.width && q.width < 1024 &&
    ticksUs q.msg.budgetUs ≤ 5 * (q.budgetEnd - tick)

/-- An unfinished request of a unit goes to another active one, which restarts it from step 1; it waits while none has room, and
past its budget it counts as unanswered (R132). -/
def mceMove (i : Nat) (q : SubReq) (n : Node) : Node :=
  if q.budgetEnd ≤ n.tick then dropWalks q.id { n with subReqs := n.subReqs.filter (fun x => x.id ≠ q.id) }
  else
    let (j, n) := mcePick (some i) n
    subMod q.id (fun q => { q with mce := j, reranking := false, rerank := [] }) n

/-- An uncorrectable error in the vector register or the staging area of a request: it restarts on another unit (R150). -/
def mceEcc (id : Nat) (n : Node) : Node :=
  match subFind n id with
  | none => n
  | some q =>
    match q.mce with
    | some i => mceMove i q (mceReport i 0x01 q.msg.key.shard 0 n)
    | none => n

/-- MACE_SELECT. A round that the budget's end cuts short before step 5 falls back on the previous one (R143). -/
def maceSelect (id : Nat) (n : Node) : Node :=
  let n := if (subFind n id).any (fun q => q.mce.isNone) then mceAssign n else n
  match subFind n id with
  | none => n
  | some q =>
    match q.mce, shardFind n q.msg.key, genFind n q.msg.key.handle q.msg.key.gen with
    | some u, some s, some g =>
      if q.reranking then n
      else if 0 < q.steps ∧ q.budgetEnd ≤ n.tick then rerankStart id u q.prev (dropWalks id n)
      else
        match q.walk, q.delta with
        | some w, some d =>
          let (l, n) := survivors u g s q w.list d n
          if widenDue q w.status w.list.length l.length n.tick then
            let n := mceCnt u 0x138 1 n
            let n := subMod id (fun q => { q with
              width := Nat.min 1024 (2 * q.width), steps := q.steps + 1, walk := none, delta := none, prev := l }) n
            batchAdd q.msg.key id n
          else rerankStart id u l n
        | _, _ => n
    | _, _, _ => n

/-! ### The final merge (R148) -/

/-- One record joins the staged ones: duplicate removal under R135 among the records that meet; the dropped copy counts. -/
def stageOne (unit : Option Nat) (r : BitVec 128) : List (BitVec 128) → Node → List (BitVec 128) × Node
  | [], n => ([r], n)
  | d :: l, n =>
    if recKey d = recKey r then
      let fl := (recFlags r ||| recFlags d) &&& 6
      let join := fun (x : BitVec 128) => BitVec.ofNat 128 (x.toNat ||| fl <<< 112)
      let n := mceCntOf unit 0x12C 1 n
      if f32Lt (recDist r) (recDist d) then (join r :: l, n)
      else if f32Lt (recDist d) (recDist r) ∨ join r = join d then (join d :: l, n)
      else
        let (x, n) := pick d [d, r] n
        (join x :: l, n)
    else
      let (rs, n) := stageOne unit r l n
      (d :: rs, n)

def recLt (a b : BitVec 128) : Bool := f32Lt (recDist a) (recDist b)

/-- The records of a partial are merged; at most K stay staged, in ascending order (R136, R148). -/
def stageAll (unit : Option Nat) (k : Nat) (rs staged : List (BitVec 128)) (n : Node) : List (BitVec 128) × Node :=
  let (l, n) := rs.foldl (fun (acc : List (BitVec 128) × Node) r => stageOne unit r acc.1 acc.2) (staged, n)
  selectFree recLt k l n

def recsBlob (l : List (BitVec 128)) : Blob := bconcat (l.map (fun r => bofNat 16 r.toNat))

/-- The answer of a query whose partials are merged (R24, R25, R143). TIMEOUT and FAILED_RETRYABLE carry the shard counts,
REDUCED_COVERAGE where REQUIRE_FULL is 0, and a query without any partial at its deadline is a TIMEOUT also under REQUIRE_FULL
(DESIGN CHOICE, log 147). -/
def queryAnswer (r : Req) (n : Node) : Node :=
  let answered := (r.subs.filter (fun s => s.state = 1)).length
  let total := r.subs.length
  let k := echoK r.d
  let base := { boundResp r with total := total, answered := answered }
  let full := nbit (bword r.d 0x30) 0
  let n := match r.mce with | some i => mceCnt i 0x110 1 n | none => n
  if answered = 0 then finish r bempty { base with status := 8, flags := base.flags + b2n (decide (answered < total) && !full) * 2 } n
  else if answered < total ∧ full then finish r bempty { base with status := 6 } n
  else
    let count := r.records.length
    let short := decide (count < k)
    let capped := short && decide (1024 < k) && r.fullShard
    let n := match r.mce with
      | some i =>
        let n := mceCnt i 0x118 (passesOf k count) n
        let n := if short then mceCnt i 0x134 1 n else n
        mceSample i n
      | none => n
    finish r (recsBlob r.records) { base with
      count := count, widen := r.widenUsed, flags := base.flags + b2n capped * 32 + b2n r.widened * 4 + b2n (decide (answered < total)) * 2 + b2n (short && !capped) } n

/-- A query whose sub-requests are all settled is answered (R25); with no partial at all it waits for its deadline (R24). -/
def queryCheck (id : Nat) (n : Node) : Node :=
  match reqFind n id with
  | some r =>
    if r.fanned && r.subs.all (fun s => s.state ≠ 0) && r.subs.any (fun s => s.state = 1) then queryAnswer r n else n
  | none => n

/-- A sub-request of a query is left unanswered. -/
def subUnanswered (id tag : Nat) (n : Node) : Node :=
  queryCheck id (reqMod id (fun r => { r with subs := lmodify (fun s => s.tag = tag) (fun s => { s with state := 2 }) r.subs }) n)

/-- The nodes that may serve a shard's sub-request: with an MSN token its primary and its partner alone (R20, R165). -/
def queryHolders (n : Node) (key : ShardKey) (token : Bool) : List (BitVec 12) :=
  match shardRole n.map key with
  | none => []
  | some r => ((servingPlaces n r).filter (fun p =>
      !token || r.primary.any (fun x => x.node = p.node) || r.partner.any (fun x => x.node = p.node))).map (·.node)

/-- The budget of a sub-request in µs: what is left of the deadline, less 20 µs to return (R20). -/
def budgetUs (r : Req) (n : Node) : Nat := (r.deadline - n.tick) / 100 - 20

/-! ### The commands -/

def execMaceSelect (sub : Nat) (ecc : Bool) (s : State) : Host.Outcome State Fault Refusal :=
  run s (if ecc then mceEcc sub else maceSelect sub)

def execRerankReadComplete (sub lid : Nat) (ok : Bool) (s : State) : Host.Outcome State Fault Refusal :=
  run s (rerankRead sub lid ok)

def execRerankCutoff (sub : Nat) (s : State) : Host.Outcome State Fault Refusal := run s (rerankCut sub)

/-- Hand over every unfinished request of a unit: a selection restarts from step 1 (R132). -/
def mceHandOver (i : Nat) (n : Node) : Node :=
  let n := (n.subReqs.filter (fun q => q.mce = some i)).foldl (fun n q => mceMove i q n) n
  (n.reqs.filter (fun r => r.mce = some i)).foldl (fun n r =>
    let (j, n) := mcePick (some i) n
    reqMod r.id (fun r => { r with mce := j }) n) n

/-- MCE_CTRL is written: its reserved bits stay 0, and a RERANK_GUARD_US above 100 is stored as 100 (R149). -/
def mceCtrl (i : Nat) (v : Word) (n : Node) : Node :=
  let n := regPut (regAddr .mce i 0x104) (wput (v &&& 0x8000007F#32) 6 0 (Nat.min 100 (wbits v 6 0))) n
  let on := v.toNat.testBit 31
  let n := unitDrain .mce i on n
  if on then mceHandOver i n else n

def execMceDrain (mce : Fin 18) (v : Word) (s : State) : Host.Outcome State Fault Refusal := run s (mceCtrl mce.val v)

end Sys2Proof.Machine
end

