-- ==== Sys2Proof/Machine/Tensor.lean ====
section
/-!
DEFINITION. Sys2Proof/Machine/Tensor.lean: tensor formats and operators (R174-R182, R186), operator lists and their
checks (R183-R188), and the running of programs on array groups (R187-R195).
-/
namespace Sys2Proof.Machine

/-! ### Number formats (R174-R176) -/

def tfmt (f : Nat) : Option Fmt :=
  match f with
  | 0 => some fmtF32
  | 1 => some fmtF16
  | 2 => some fmtBF16
  | 5 => some fmtE4M3
  | 6 => some fmtE5M2
  | _ => none

/-- Width in bits of a format's elements. -/
def tbits (f : Nat) : Nat :=
  match f with
  | 0 => 32
  | 1 => 16
  | 2 => 16
  | 3 => 8
  | 4 => 4
  | 5 => 8
  | 6 => 8
  | 7 => 32
  | _ => 64

/-- Largest magnitude that a conversion to an integer format leaves (R176). -/
def intMax (f : Nat) : Nat := 2 ^ (tbits f - 1) - 1

/-- The exact value of an element code. -/
def tdecode (f code : Nat) : Dy :=
  let w := tbits f
  let top := decide (2 ^ (w - 1) ≤ code % 2 ^ w)
  match tfmt f with
  | some m => fmtDecode m top (code % 2 ^ (w - 1))
  | none => { neg := top, man := if top then 2 ^ w - code % 2 ^ w else code % 2 ^ w, exp := 0 }

/-- Convert with rounding to nearest, ties away from zero; a greater magnitude than the largest is held there, and the
flag says so (R175, R176). -/
def tencode (f : Nat) (x : Dy) : Nat × Bool :=
  let w := tbits f
  match tfmt f with
  | some m => let r := fmtSat m x; (r.1 + if x.neg then 2 ^ (w - 1) else 0, r.2)
  | none =>
    let i := dyRoundInt x
    let m := intMax f
    let sat := decide (m < i.natAbs)
    let a := Nat.min m i.natAbs
    ((if i < 0 ∧ 0 < a then 2 ^ w - a else a), sat)

/-- Codes that no tensor may hold: a NaN or an infinity. -/
def tnonfinite (f code : Nat) : Bool :=
  match tfmt f with
  | some m => decide (m.max < code % 2 ^ (tbits f - 1))
  | none => false

/-- An element as FP32; the flag says that it was held at the largest finite value. -/
def tf32 (f code : Nat) : F32 × Bool := f32RoundS (tdecode f code)

/-- Round an exact value, adding to a count of saturations. -/
def rnd (x : Dy) (k : Nat) : F32 × Nat := let r := f32RoundS x; (r.1, k + b2n r.2)

def addC (a b : F32) (k : Nat) : F32 × Nat := rnd (dyAdd (f32Dy a) (f32Dy b)) k
def subC (a b : F32) (k : Nat) : F32 × Nat := rnd (dyAdd (f32Dy a) (dyNeg (f32Dy b))) k
def mulC (a b : F32) (k : Nat) : F32 × Nat := rnd (dyMul (f32Dy a) (f32Dy b)) k

/-- What x / 0 gives is not stated: some finite value (log 167). -/
def overZero (x : F32) : F32 :=
  let v : F32 := BitVec.ofNat 32 (Config.overZeroScale x)
  if f32Finite v then v else f32OfNat 1

def divC (a b : F32) (k : Nat) : F32 × Nat := if f32Zero b then (overZero a, k) else rnd (dyDiv (f32Dy a) (f32Dy b)) k

/-- The sum in ascending index. -/
def sumC (l : List F32) (k : Nat) : F32 × Nat := l.foldl (fun (a : F32 × Nat) x => addC a.1 x a.2) (0, k)

/-- Σ (a_i - b_i)² in ascending index (R191), with its saturations. -/
def sqDistC : List F32 → List F32 → F32 × Nat → F32 × Nat
  | a :: as, b :: bs, acc =>
    let (d, k) := subC a b acc.2
    let (m, k) := mulC d d k
    sqDistC as bs (addC acc.1 m k)
  | _, _, acc => acc

/-- Apply a function with a count of saturations to each element. -/
def mapC {α β : Type} (f : α → Nat → β × Nat) (l : List α) (k : Nat) : List β × Nat :=
  l.foldl (fun (acc : List β × Nat) x => let (y, k) := f x acc.2; (acc.1 ++ [y], k)) ([], k)

/-! ### Tensors -/

def tsize (dims : List Nat) : Nat := dims.foldl (· * ·) 1
def tlast (t : Ten) : Nat := match t.dims.getLast? with | some d => d | none => 1
def tget (t : Ten) (i : Nat) : Nat := t.vals.getD i 0
def tval (t : Ten) (i : Nat) : F32 := (tf32 t.fmt (tget t i)).1

/-- Rows over the last dimension. -/
def trows (t : Ten) : List (List F32) :=
  let d := tlast t
  (List.range (tsize t.dims / Nat.max 1 d)).map (fun r => (List.range d).map (fun j => tval t (r * d + j)))

/-- A tensor of FP32 values in a format, with the saturations of the conversion. -/
def tof (f : Nat) (dims : List Nat) (l : List F32) (k : Nat) : Ten × Nat :=
  let r := l.map (fun x => tencode f (f32Dy x))
  ({ fmt := f, dims := dims, vals := r.map (·.1) }, k + (r.filter (·.2)).length)

/-- Bytes of a tensor. -/
def tbytes (f : Nat) (dims : List Nat) : Nat := (tsize dims * tbits f + 7) / 8

/-- Read a tensor's codes from bytes (R174). -/
def tload (b : Blob) (off f : Nat) (dims : List Nat) : Ten :=
  { fmt := f, dims := dims,
    vals := (List.range (tsize dims)).map (fun i => (b.bits >>> (8 * off + i * tbits f)) % 2 ^ tbits f) }

/-! ### Operator lists (R183-R185) -/

def olKind (b : Blob) : Nat := nbits (bword b 0) 23 20
def olOps (b : Blob) : Nat := nbits (bword b 0) 15 0
def olTensors (b : Blob) : Nat := nbits (bword b 4) 31 16
def olSeq (b : Blob) : Nat := nbits (bword b 4) 15 0
def olArrays (b : Blob) : Nat := nbits (bword b 0x0C) 15 8
def olWeight (b : Blob) : Nat := bnum b 0x10 8
def olOutDim (b : Blob) : Nat := nbits (bword b 0x18) 31 16
def olInDim (b : Blob) : Nat := nbits (bword b 0x18) 15 0
def olData (b : Blob) : Nat := bword b 0x24

def descAt (b : Blob) (n : Nat) : TDesc :=
  let o := bword b 0x1C + 32 * n
  { fmt := nbits (bword b o) 31 28, role := nbits (bword b o) 27 24, rank := nbits (bword b o) 23 22 + 1,
    seq := nbits (bword b o) 21 19,
    dims := [bword b (o + 4), bword b (o + 8), nbits (bword b (o + 12)) 31 16, nbits (bword b (o + 12)) 15 0],
    off := bnum b (o + 16) 8, scale := nbits (bword b (o + 24)) 31 16 }

def opAt (b : Blob) (j : Nat) : TOp :=
  let o := bword b 0x20 + 32 * j
  { code := nbits (bword b o) 31 24, flags := nbits (bword b o) 23 16, in0 := nbits (bword b (o + 4)) 31 16,
    in1 := nbits (bword b (o + 4)) 15 0, in2 := nbits (bword b (o + 8)) 31 16, out := nbits (bword b (o + 8)) 15 0,
    aux := nbits (bword b (o + 12)) 31 16, a0 := bword b (o + 16), a1 := bword b (o + 20), a2 := bword b (o + 24),
    a3 := bword b (o + 28) }

def olDescs (b : Blob) : List TDesc := (List.range (olTensors b)).map (descAt b)
def olOpList (b : Blob) : List TOp := (List.range (olOps b)).map (opAt b)

/-- The dimensions of a tensor in a run of T tokens (R184, R187). -/
def runDims (d : TDesc) (t : Nat) : List Nat :=
  (d.dims.take d.rank).mapIdx (fun i x => if d.seq = i + 1 then t else x)

/-! ### Operators (R178-R182, R186, R190, R191) -/

/-- What an operator writes, and its events. -/
structure OpOut where
  tens : List (Nat × Ten)
  sats : Nat
  zeroRange : Nat
  clamped : Nat
  zeroNorm : Bool
  macs : Nat
  outliers : Bool
  deriving DecidableEq, Repr

def outOne (i : Nat) (t : Ten × Nat) : OpOut :=
  { tens := [(i, t.1)], sats := t.2, zeroRange := 0, clamped := 0, zeroNorm := false, macs := 0, outliers := false }

def outNone : OpOut := { tens := [], sats := 0, zeroRange := 0, clamped := 0, zeroNorm := false, macs := 0, outliers := false }

def pTen (p : Prog) (i : Nat) : Ten := sget { fmt := 0, dims := [], vals := [] } p.tens i
def pDesc (p : Prog) (i : Nat) : TDesc :=
  p.descs.getD i { fmt := 0, role := 2, rank := 1, seq := 0, dims := [1, 1, 1, 1], off := 0, scale := 0xFFFF }
def pDims (p : Prog) (i : Nat) : List Nat := runDims (pDesc p i) p.seqLen

/-- The per-channel scale of a tensor: 1.0 where it has no scale tensor; fewer scales than channels repeat over the leading ones. -/
def scaleOf (p : Prog) (i ch : Nat) : F32 :=
  let s := (pDesc p i).scale
  if s = 0xFFFF then f32OfNat 1
  else
    let t := pTen p s
    tval t (ch % Nat.max 1 t.vals.length)

def dim3 (dims : List Nat) : Nat × Nat × Nat :=
  match dims with
  | [a, b] => (1, a, b)
  | a :: b :: c :: _ => (a, b, c)
  | [a] => (1, 1, a)
  | [] => (1, 1, 1)

/-- The QUANT that produced a MATMUL's activations and names its outlier list (R182), among the operators before it. -/
def quantFor (before : List TOp) (o : TOp) : Option TOp :=
  (before.filter (fun q => q.code = 0x0A && q.out = o.in0 && q.in2 = o.aux)).getLast?

/-- The outlier activation tensor of the program's MATMUL in progress. -/
def outlierAct (p : Prog) (o : TOp) : Nat := (quantFor (p.ops.take p.op) o).elim 0xFFFF (·.a1)

/-- The accumulation of R178: exact integers, or FP32 in ascending contraction index. -/
def accum (intAcc : Bool) (ps : List (Dy × Dy)) (k : Nat) : F32 × Nat :=
  if intAcc then
    let s := ps.foldl (fun (acc : Dy) x => dyAdd acc (dyMul x.1 x.2)) dyZero
    rnd s k
  else ps.foldl (fun (acc : F32 × Nat) x => rnd (dyAdd (f32Dy acc.1) (dyMul x.1 x.2)) acc.2) (0, k)

/-- One output element in the order of R178. -/
def matmulOut (acc sa sw osum bias alpha : F32) (k : Nat) : F32 × Nat :=
  let (r, k) := mulC sa sw k
  let (r, k) := mulC r acc k
  let (r, k) := addC r osum k
  let (r, k) := addC r bias k
  mulC r alpha k

def runMatmul (p : Prog) (o : TOp) : OpOut :=
  let x := pTen p o.in0
  let w := pTen p o.in1
  let (nb, nn, ni) := dim3 x.dims
  let wd := dim3 w.dims
  let tr := nbit o.flags 0
  let no := if tr then wd.2.2 else wd.2.1
  let intAcc := decide (x.fmt = 3)
  let lst := if o.aux = 0xFFFF then [] else (pTen p o.aux).vals
  let oa := pTen p (outlierAct p o)
  let ow := pTen p o.a0
  let alpha : F32 := if f32Zero (BitVec.ofNat 32 o.a2) then f32OfNat 1 else BitVec.ofNat 32 o.a2
  let r := (List.range (nb * nn * no)).foldl (fun (acc : List F32 × Nat) q =>
    let b := q / (nn * no)
    let n := q / no % nn
    let c := q % no
    let ps := (List.range ni).map (fun i => (tdecode x.fmt (tget x ((b * nn + n) * ni + i)),
      tdecode w.fmt (tget w (if tr then (b * ni + i) * no + c else (b * no + c) * ni + i))))
    let (a, k) := accum intAcc ps acc.2
    let (os, k) := (List.range lst.length).foldl (fun (s : F32 × Nat) j =>
      rnd (dyAdd (f32Dy s.1) (dyMul (tdecode oa.fmt (tget oa ((b * nn + n) * lst.length + j))) (tdecode ow.fmt (tget ow (j * no + c))))) s.2) (0, k)
    let bias := if o.in2 = 0xFFFF then 0 else tval (pTen p o.in2) c
    let (y, k) := matmulOut a (scaleOf p o.in0 (b * nn + n)) (scaleOf p o.in1 (b * no + c)) os bias alpha k
    (acc.1 ++ [y], k)) ([], 0)
  { outOne o.out (tof (pDesc p o.out).fmt (pDims p o.out) r.1 r.2) with
    macs := nb * nn * no * ni, outliers := !lst.isEmpty }

/-- ADD and MUL, the second operand repeating over the leading dimensions. -/
def runBin (f : F32 → F32 → Nat → F32 × Nat) (p : Prog) (o : TOp) : OpOut :=
  let x := pTen p o.in0
  let y := pTen p o.in1
  let m := Nat.max 1 y.vals.length
  let r := (List.range x.vals.length).foldl (fun (acc : List F32 × Nat) i =>
    let (z, k) := f (tval x i) (tval y (i % m)) acc.2
    (acc.1 ++ [z], k)) ([], 0)
  outOne o.out (tof (pDesc p o.out).fmt (pDims p o.out) r.1 r.2)

/-- The activation functions (R177, R186). -/
def actFn (c : Nat) (x : F32) : F32 := if c = 0 then (if f32Neg x then 0 else x) else tensorFn c x

def runAct (p : Prog) (o : TOp) : OpOut :=
  let x := pTen p o.in0
  outOne o.out (tof (pDesc p o.out).fmt (pDims p o.out) ((List.range x.vals.length).map (fun i => actFn o.a0 (tval x i))) 0)

/-- Apply a row function to every row over the last dimension. -/
def rowsOp (f : Nat → List F32 → Nat → List F32 × Nat) (p : Prog) (o : TOp) : OpOut :=
  let r := ((trows (pTen p o.in0)).mapIdx (fun i x => (i, x))).foldl (fun (acc : List F32 × Nat) x =>
    let (y, k) := f x.1 x.2 acc.2
    (acc.1 ++ y, k)) ([], 0)
  outOne o.out (tof (pDesc p o.out).fmt (pDims p o.out) r.1 r.2)

def normRow (p : Prog) (o : TOp) (_ : Nat) (x : List F32) (k : Nat) : List F32 × Nat :=
  let d := f32OfNat x.length
  let rms := nbit o.flags 0
  let (mean, k) := if rms then ((0 : F32), k) else let (s, k) := sumC x k; divC s d k
  let (c, k) := mapC (fun v k => subC v mean k) x k
  let (sq, k) := c.foldl (fun (a : F32 × Nat) v => let (m, k) := mulC v v a.2; addC a.1 m k) (0, k)
  let (var, k) := divC sq d k
  let (ve, k) := addC var (BitVec.ofNat 32 o.a0) k
  let r := tensorFn 5 ve
  (c.mapIdx (fun i x => (i, x))).foldl (fun (acc : List F32 × Nat) v =>
    let (y, k) := mulC v.2 r acc.2
    let (y, k) := mulC y (tval (pTen p o.in1) v.1) k
    let (y, k) := if o.in2 = 0xFFFF then (y, k) else addC y (tval (pTen p o.in2) v.1) k
    (acc.1 ++ [y], k)) ([], k)

/-- SOFTMAX of a row; with the causal flag the positions above the row index take no part. -/
def softmaxRow (t : Ten) (o : TOp) (i : Nat) (x : List F32) (k : Nat) : List F32 × Nat :=
  let rows := match t.dims.reverse with | _ :: r :: _ => r | _ => 1
  let live := fun j => !nbit o.flags 0 || decide (j ≤ i % rows)
  let xs := (x.mapIdx (fun j v => (j, v))).filter (fun v => live v.1)
  let m := fMaxL (xs.map (·.2))
  let (es, k) := mapC (fun v k => let (d, k) := subC v.2 m k; (tensorFn 0 d, k)) xs k
  let (s, k) := sumC es k
  let (ys, k) := mapC (fun e k => divC e s k) es k
  ((List.range x.length).map (fun j => if live j then ys.getD ((xs.map (·.1)).findIdx (fun i => i = j)) 0 else 0), k)

/-- The index of each position of row-major dimensions. -/
def unravel (dims : List Nat) (i : Nat) : List Nat :=
  ((dims.reverse.foldl (fun (acc : List Nat × Nat) d => ((acc.2 % Nat.max 1 d) :: acc.1, acc.2 / Nat.max 1 d)) ([], i))).1

def ravel (dims idx : List Nat) : Nat := (dims.zip idx).foldl (fun a x => a * x.1 + x.2) 0

def runPermute (p : Prog) (o : TOp) : OpOut :=
  let x := pTen p o.in0
  let src := fun j => nbits o.a0 (2 * j + 1) (2 * j)
  let r := x.dims.length
  let od := (List.range r).map (fun j => x.dims.getD (src j) 1)
  let vals := (List.range x.vals.length).map (fun q =>
    let oi := unravel od q
    let ii := (List.range r).map (fun d => ((List.range r).find? (fun j => src j = d)).elim 0 (fun j => oi.getD j 0))
    tget x (ravel x.dims ii))
  outOne o.out ({ fmt := x.fmt, dims := od, vals := vals }, 0)

/-- GATHER copies rows. What an index at or above the row count reads is not stated (log 168): some finite code. -/
def runGather (p : Prog) (o : TOp) : OpOut :=
  let ids := pTen p o.in0
  let t := pTen p o.in1
  let w := tsize (t.dims.drop 1)
  let beyond := fun i j => let c := Config.gatherBeyond i j % 2 ^ tbits t.fmt; if tnonfinite t.fmt c then 0 else c
  outOne o.out ({ fmt := t.fmt, dims := pDims p o.out, vals := ids.vals.flatMap (fun i => (List.range w).map (fun j =>
    if i * w + j < t.vals.length then tget t (i * w + j) else beyond i j)) }, 0)

/-- POOL over the sequence dimension: sum, mean, first row, maximum. -/
def runPool (p : Prog) (o : TOp) : OpOut :=
  let x := pTen p o.in0
  let ax := (pDesc p o.in0).seq - 1
  let inner := tsize (x.dims.drop (ax + 1))
  let len := x.dims.getD ax 1
  let outer := tsize (x.dims.take ax)
  let r := (List.range (outer * inner)).foldl (fun (acc : List F32 × Nat) q =>
    let vs := (List.range len).map (fun t => tval x ((q / inner * len + t) * inner + q % inner))
    let (y, k) :=
      if o.a0 = 2 then (vs.headD 0, acc.2)
      else if o.a0 = 3 then (fMaxL vs, acc.2)
      else
        let (s, k) := sumC vs acc.2
        if o.a0 = 1 then divC s (f32OfNat len) k else (s, k)
    (acc.1 ++ [y], k)) ([], 0)
  outOne o.out (tof (pDesc p o.out).fmt (pDims p o.out) r.1 r.2)

def qmaxOf (f : Nat) : F32 :=
  if f = 3 then f32OfNat 127 else if f = 4 then f32OfNat 7 else if f = 5 then f32OfNat 448 else f32OfNat 57344

/-- One channel of QUANT: codes, scale, outlier values, statistics words, and its events. -/
structure QChan where
  codes   : List Nat
  scale   : F32
  outl    : List Nat
  stats   : List Nat
  clamped : Nat
  sats    : Nat
  zero    : Bool
  deriving DecidableEq, Repr

/-- One channel of QUANT (R179-R182): `skip` are its positions in the `cols` listed columns. A static scale stands where maxabs is 0, and
ZERO_RANGE is then 0 (log 167). -/
def quantChannel (f : Nat) (stat : Option F32) (skip : List Nat) (cols : Nat) (x : List F32) : QChan :=
  let ix := x.mapIdx (fun i v => (i, v))
  let inl := ix.filter (fun v => !skip.contains v.1)
  let maxabs := f32MaxAbs (inl.map (·.2))
  let zero := stat.isNone && f32Zero maxabs
  let (scale, k) := match stat with
    | some s => (s, 0)
    | none => if zero then (f32OfNat 1, 0) else divC maxabs (qmaxOf f) 0
  let lim := dyMul (f32Dy (qmaxOf f)) (f32Dy scale)
  let (es, k) := mapC (fun v k =>
    if skip.contains v.1 ∨ zero then ((0, false), k)
    else
      let (q, k) := divC v.2 scale k
      let e := tencode f (f32Dy q)
      let overLim := decide (dyInt lim (min lim.exp (f32Dy v.2).exp) < dyInt (f32Dy (f32Abs v.2)) (min lim.exp (f32Dy v.2).exp))
      ((e.1, if stat.isSome then overLim else e.2), k + b2n (e.2 && decide (4 < f)))) ix k
  let clamped := (es.filter (·.2)).length
  let outl := skip.map (fun j => tencode 2 (f32Dy (x.getD j 0)))
  { codes := es.map (·.1), scale := scale, outl := outl.map (·.1),
    stats := [maxabs.toNat, scale.toNat, Nat.min 65535 clamped * 65536 + cols,
      b2n stat.isSome * 4 + b2n (decide (0 < clamped)) * 2 + b2n zero],
    clamped := clamped, sats := k + (outl.filter (·.2)).length, zero := zero }

def runQuant (p : Prog) (o : TOp) : OpOut :=
  let x := pTen p o.in0
  let f := (pDesc p o.out).fmt
  let cols := Nat.max 1 (tlast x)
  let chans := if o.a0 = 0 then trows x else [(List.range x.vals.length).map (tval x)]
  let skip := if o.in2 = 0xFFFF then [] else (pTen p o.in2).vals
  let skipAll := if o.a0 = 0 then skip else (List.range x.vals.length).filter (fun i => skip.contains (i % cols))
  let rs := chans.mapIdx (fun i c =>
    let st := if o.in1 = 0xFFFF then none else some (let t := pTen p o.in1; tval t (i % Nat.max 1 t.vals.length))
    quantChannel f st skipAll skip.length c)
  let sc := (pDesc p o.out).scale
  let outT : List (Nat × Ten) := [(o.out, { fmt := f, dims := pDims p o.out, vals := rs.flatMap (·.codes) })]
  let scT := if sc = 0xFFFF ∨ (pDesc p sc).role = 1 ∨ (pDesc p sc).role = 4 then [] else
    [(sc, ({ fmt := 0, dims := [rs.length], vals := rs.map (fun r => r.scale.toNat) } : Ten))]
  let acT := if o.a1 = 0xFFFF ∨ skip.isEmpty then [] else
    [(o.a1, ({ fmt := 2, dims := [x.vals.length / cols, skip.length], vals := rs.flatMap (·.outl) } : Ten))]
  let stT := if o.aux = 0xFFFF then [] else
    [(o.aux, ({ fmt := 7, dims := [rs.length, 4], vals := rs.flatMap (·.stats) } : Ten))]
  { tens := outT ++ scT ++ acT ++ stT, sats := nsum (rs.map (·.sats)), zeroRange := (rs.filter (·.zero)).length,
    clamped := nsum (rs.map (·.clamped)), zeroNorm := false, macs := 0, outliers := false }

def runDequant (p : Prog) (o : TOp) : OpOut :=
  let x := pTen p o.in0
  let d := Nat.max 1 (tlast x)
  let r := (List.range x.vals.length).foldl (fun (acc : List F32 × Nat) i =>
    let (y, k) := mulC (tval x i) (scaleOf p o.in0 (i / d)) acc.2
    (acc.1 ++ [y], k)) ([], 0)
  outOne o.out (tof 0 (pDims p o.out) r.1 r.2)

def runConvert (p : Prog) (o : TOp) : OpOut :=
  let x := pTen p o.in0
  let f := (pDesc p o.out).fmt
  let r := x.vals.map (fun v => tencode f (tdecode x.fmt v))
  outOne o.out ({ fmt := f, dims := pDims p o.out, vals := r.map (·.1) }, (r.filter (·.2)).length)

/-- A row scaled to unit length; a zero row stays zero. -/
def l2Row (_ : Nat) (x : List F32) (k : Nat) : List F32 × Nat :=
  if normZero x then (x.map (fun _ => 0), k)
  else
    let (s, k) := x.foldl (fun (a : F32 × Nat) v => let (m, k) := mulC v v a.2; addC a.1 m k) (0, k)
    let r := f32Sqrt s
    x.foldl (fun (acc : List F32 × Nat) v => let (y, k) := divC v r acc.2; (acc.1 ++ [y], k)) ([], k)

def runL2 (p : Prog) (o : TOp) : OpOut :=
  { rowsOp l2Row p o with zeroNorm := (trows (pTen p o.in0)).any normZero }

/-- The codebook in the layout of R36 as a byte string. -/
def bookBlob (t : Ten) : Blob := { len := 4 * t.vals.length, bits := t.vals.foldr (fun x acc => x % 2 ^ 32 + acc <<< 32) 0 }

/-- ENCODE_PQ: codes of each row against the codebook IN1 of dimensions [M][16][w] (R191). -/
def runEncodePQ (p : Prog) (o : TOp) : OpOut :=
  let t := pTen p o.in1
  let (m, _, w) := dim3 t.dims
  let b := bookBlob t
  let codes := (trows (pTen p o.in0)).flatMap (fun v =>
    let c := encodePQVec b m w v
    (List.range m).map (fun s => codeAt c s))
  let sats := (trows (pTen p o.in0)).foldl (fun k v => (List.range m).foldl (fun k s =>
    (List.range 16).foldl (fun k c => (sqDistC (subPart v w s) (centroid b w s c) (0, k)).2) k) k) 0
  outOne o.out ({ fmt := 4, dims := [codes.length / Nat.max 1 m, m], vals := codes }, sats)

/-- One iteration of KMEANS for a subspace (R190). -/
def kmeansStep (xs : List (List F32)) (w : Nat) (cs : List (List F32)) (k : Nat) : List (List F32) × Nat :=
  let (near, k) := mapC (fun x k => let (ds, k) := mapC (fun c k => sqDistC x c (0, k)) cs k; (argmin ds, k)) xs k
  mapC (fun c k =>
    let mine := (xs.zip near).filter (fun y => y.2 = c.1)
    if mine.isEmpty then (c.2, k)
    else mapC (fun j k => let (s, k) := sumC (mine.map (fun y => y.1.getD j 0)) k; divC s (f32OfNat mine.length) k) (List.range w) k)
    (cs.mapIdx (fun c old => (c, old))) k

def kmeansIter (xs : List (List F32)) (w : Nat) : Nat → List (List F32) × Nat → List (List F32) × Nat
  | 0, cs => cs
  | k + 1, cs => kmeansIter xs w k (kmeansStep xs w cs.1 cs.2)

/-- A trained codebook of M subspaces of width w from samples (R190), in the layout of R36, and its saturations. -/
def kmeans (m w iters : Nat) (xs : List (List F32)) : Blob × Nat :=
  let n := xs.length
  let (cs, k) := mapC (fun s k =>
    let ss := xs.map (fun x => subPart x w s)
    let c0 := (List.range 16).map (fun c => ss.getD (c * n / 16) [])
    let r := kmeansIter ss w iters (c0, k)
    (r.1.flatten, r.2)) (List.range m) 0
  ({ len := 4 * cs.flatten.length, bits := cs.flatten.foldr (fun x acc => x.toNat + acc <<< 32) 0 }, k)

def runKmeans (p : Prog) (o : TOp) : OpOut :=
  let d := pDims p o.out
  let (m, _, w) := dim3 d
  let b := kmeans m w o.a0 (trows (pTen p o.in0))
  outOne o.out ({ fmt := 0, dims := d, vals := (List.range (b.1.len / 4)).map (fun i => bword b.1 (4 * i)) }, b.2)

/-! ### Load checks (R188) -/

def offIf (b : Bool) (o : Nat) : Option Nat := if b then some o else none

def firstBad (l : List (Option Nat)) : Option Nat := (l.filterMap id).head?

/-- Check 1: the header. `genOk` and `tableOk` are the node's checks of R58 and of BOUND_TABLE. -/
def olHeaderBad (b : Blob) (genOk tableOk : Bool) : Option Nat :=
  let k := olKind b
  firstBad [
    offIf (nbits (bword b 0) 31 24 ≠ 1 || 1 < k || nbits (bword b 0) 19 16 ≠ 0 || olOps b = 0 || 4096 < olOps b) 0,
    offIf (olTensors b < 2 || 4096 < olTensors b || olSeq b = 0 || (if k = 0 then 2048 < olSeq b else olSeq b ≠ 1)) 4,
    offIf (bword b 8 = 0) 8,
    offIf (!genOk || olArrays b = 0 || 32 < olArrays b || nbits (bword b 0x0C) 7 0 ≠ 0) 0x0C,
    offIf (olWeight b = 0 || 2147483648 < olWeight b) 0x10,
    offIf (olOutDim b < 8 || 4096 < olOutDim b || (if k = 0 then olInDim b ≠ 0 else olInDim b < 8 || 4096 < olInDim b)) 0x18,
    offIf (bword b 0x1C % 8 ≠ 0 || b.len < bword b 0x1C + 32 * olTensors b) 0x1C,
    offIf (bword b 0x20 % 8 ≠ 0 || b.len < bword b 0x20 + 32 * olOps b) 0x20,
    offIf (olData b % 64 ≠ 0) 0x24,
    offIf (bnum b 0x28 8 < olWeight b || b.len < olData b + bnum b 0x28 8) 0x28,
    offIf (if k = 0 then bword b 0x30 ≠ 0 else !tableOk) 0x30,
    offIf (crc32c (bpatch b 0x34 (bofNat 4 0)) ≠ bword b 0x34) 0x34,
    offIf (bword b 0x38 ≠ 0) 0x38,
    offIf (bword b 0x3C ≠ 0) 0x3C]

/-- Check 2: a descriptor. -/
def olDescBad (b : Blob) (n : Nat) : Option Nat :=
  let o := bword b 0x1C + 32 * n
  let d := descAt b n
  let dim := fun i => d.dims.getD i 1
  let used := fun i => decide (i < d.rank)
  let data := decide (d.role = 1 || d.role = 4)
  firstBad [
    offIf (8 < d.fmt || 5 < d.role || d.rank < d.seq || nbits (bword b o) 18 0 ≠ 0 ||
      (n = 0 && (d.role ≠ 0 || (if olKind b = 0 then d.fmt ≠ 7 || d.rank ≠ 1 || d.seq ≠ 1 else d.fmt ≠ 0 || d.rank ≠ 1))) ||
      (n ≠ 0 && d.role = 0) || (d.role = 3 && (d.fmt ≠ 0 || d.rank ≠ 1))) o,
    offIf (dim 0 = 0 || 16777216 < dim 0 || (d.seq = 1 && dim 0 ≠ olSeq b) || (d.fmt = 4 && d.rank = 1 && dim 0 % 2 = 1) ||
      (n = 0 && olKind b = 1 && dim 0 ≠ olInDim b) || (d.role = 3 && dim 0 ≠ olOutDim b)) (o + 4),
    offIf (dim 1 = 0 || 65536 < dim 1 || (!used 1 && dim 1 ≠ 1) || (d.seq = 2 && dim 1 ≠ olSeq b) ||
      (d.fmt = 4 && d.rank = 2 && dim 1 % 2 = 1)) (o + 8),
    offIf (dim 2 = 0 || (!used 2 && dim 2 ≠ 1) || (d.seq = 3 && dim 2 ≠ olSeq b) || dim 3 = 0 || (!used 3 && dim 3 ≠ 1) ||
      (d.seq = 4 && dim 3 ≠ olSeq b) || (d.fmt = 4 && ((d.rank = 3 && dim 2 % 2 = 1) || (d.rank = 4 && dim 3 % 2 = 1)))) (o + 12),
    offIf (if data then decide (bnum b 0x28 8 < d.off + tbytes d.fmt (d.dims.take d.rank)) else d.off ≠ 0) (o + 16),
    offIf ((d.scale ≠ 0xFFFF && (olTensors b ≤ d.scale || (descAt b d.scale).fmt ≠ 0)) || nbits (bword b (o + 24)) 15 0 ≠ 0) (o + 24),
    offIf (bword b (o + 28) ≠ 0) (o + 28)]

/-- The contents of a WEIGHT or SCALE tensor of a list. -/
def olTen (b : Blob) (d : TDesc) : Ten := tload b (olData b + d.off) d.fmt (d.dims.take d.rank)

/-- A tensor of scales: of ROLE SCALE, named as one by a descriptor, or the static scales of a QUANT (R181, R184, R186). -/
def scaleTen (b : Blob) (n : Nat) : Bool :=
  decide ((descAt b n).role = 4) || (olDescs b).any (fun d => d.scale = n) || (olOpList b).any (fun o => o.code = 0x0A && o.in1 = n)

/-- A tensor whose contents stand in the list. -/
def staticTen (b : Blob) (t : Nat) : Bool :=
  decide (t < olTensors b) && (decide ((descAt b t).role = 1) || decide ((descAt b t).role = 4))

/-- Check 3: contents; the offset of the first word that fails. -/
def olDataBad (b : Blob) (n : Nat) : Option Nat :=
  let d := descAt b n
  if d.role ≠ 1 ∧ d.role ≠ 4 then none
  else
    let t := olTen b d
    let sc := scaleTen b n
    (t.vals.mapIdx (fun i v => (i, v))).findSome? (fun x =>
      if tnonfinite t.fmt x.2 || (sc && ((tdecode t.fmt x.2).neg || (tdecode t.fmt x.2).man = 0)) then
        some ((olData b + d.off + x.1 * tbits t.fmt / 8) / 4 * 4) else none)

/-- Check 3: integer weights of a MATMUL are 0 at outlier positions (R182), where the list and the weights stand in the list's data. -/
def olOutlierBad (b : Blob) (o : TOp) : Option Nat :=
  if o.code ≠ 1 ∨ !staticTen b o.aux ∨ !staticTen b o.in1 then none
  else
    let w := descAt b o.in1
    let t := olTen b w
    let ids := (olTen b (descAt b o.aux)).vals
    let (_, d1, d2) := dim3 t.dims
    if 4 < w.fmt ∨ w.fmt < 3 then none
    else (t.vals.mapIdx (fun i v => (i, v))).findSome? (fun x =>
      let i := if nbit o.flags 0 then x.1 / d2 % d1 else x.1 % d2
      if x.2 ≠ 0 && ids.contains i then some ((olData b + w.off + x.1 * tbits w.fmt / 8) / 4 * 4) else none)

def strictlyRising : List Nat → Bool
  | a :: b :: l => decide (a < b) && strictlyRising (b :: l)
  | _ => true

/-- Tensors that an operator's fields name as inputs: of a MATMUL the outlier list and weights too. -/
def opInputs (o : TOp) : List Nat :=
  ([o.in0, o.in1, o.in2] ++ (if o.code = 1 then [o.aux, o.a0] else [])).filter (fun t => t ≠ 0xFFFF)

/-- Tensors that an operator reads: its inputs, their scales, and the outlier activations. -/
def opReads (b : Blob) (before : List TOp) (o : TOp) : List Nat :=
  if o.code = 0 then []
  else opInputs o ++ (opInputs o).map (fun t => (descAt b t).scale) ++
    (if o.code = 1 then ((quantFor before o).map (·.a1)).toList else [])

/-- The four 2-bit numbers of ATTR0 name each of the first `r` dimensions once (R186). -/
def permOk (a0 r : Nat) : Bool :=
  decide (a0 < 256) && (List.range r).all (fun d => (List.range r).any (fun j => nbits a0 (2 * j + 1) (2 * j) = d))

/-- An outlier list: 1 to 256 INT32 indices, strictly rising and below the contraction length (R182). -/
def listOk (b : Blob) (t ni : Nat) : Bool :=
  staticTen b t && decide ((descAt b t).fmt = 7) &&
    (let l := (olTen b (descAt b t)).vals
     !l.isEmpty && decide (l.length ≤ 256) && strictlyRising l && l.all (fun i => decide (i < ni)))

/-- Check 4: formats and shapes of one operator in a loaded list, by word of its entry. `written`: tensors that an earlier operator
wrote. Shapes hold for every token count: a SEQ_AXIS dimension matches another one only (DEDUCED, log 169). -/
def olOpBad (b : Blob) (j : Nat) (written : List Nat) : Option Nat :=
  let o := opAt b j
  let w := bword b 0x20 + 32 * j
  let cnt := olTensors b
  let before := (List.range j).map (opAt b)
  let read := (List.range j).flatMap (fun i => opReads b (before.take i) (opAt b i))
  let role := fun t => (descAt b t).role
  let ok := fun t => decide (t < cnt) && (decide (role t = 0) || decide (role t = 1) || decide (role t = 4) || written.contains t)
  let may := fun t => decide (t < cnt) && decide (role t ≠ 0) && decide (role t ≠ 1) && decide (role t ≠ 4) && !read.contains t
  let dm := fun (q t : Nat) => runDims (descAt b t) q
  let fm := fun t => (descAt b t).fmt
  let sc := fun t => (descAt b t).scale
  let none_ := fun t => decide (t = 0xFFFF)
  let isF := fun t => decide (fm t ≤ 2)
  let each := fun (f : Nat → Bool) => f (olSeq b) && f 1
  let last := fun (q t : Nat) => (dm q t).getLast?.getD 1
  let rows := fun (q t : Nat) => tsize (dm q t) / Nat.max 1 (last q t)
  let chans := fun (q : Nat) => if o.a0 = 0 then rows q o.in0 else 1
  let div := fun (q t ch : Nat) => decide (0 < tsize (dm q t)) && decide (ch % tsize (dm q t) = 0)
  let scOk := fun (q t ch : Nat) => none_ (sc t) || (ok (sc t) && div q (sc t) ch)
  let two := decide (o.code = 1 || o.code = 2 || o.code = 3 || o.code = 5 || o.code = 8)
  let tr := nbit o.flags 0
  let no := fun (q : Nat) => if tr then (dim3 (dm q o.in1)).2.2 else (dim3 (dm q o.in1)).2.1
  let ni := fun (q : Nat) => (dim3 (dm q o.in0)).2.2
  let pairOk := (fm o.in0 = 3 && (fm o.in1 = 3 || fm o.in1 = 4)) || ((fm o.in0 = 5 || fm o.in0 = 6) && (fm o.in1 = 5 || fm o.in1 = 6)) ||
    (fm o.in0 = 2 && fm o.in1 = 2) || (fm o.in0 = 1 && fm o.in1 = 1)
  let mmOk := fun (q : Nat) =>
    let x := dim3 (dm q o.in0)
    let y := dim3 (dm q o.in1)
    let rank := fun t => decide (2 ≤ (descAt b t).rank) && decide ((descAt b t).rank ≤ 3)
    rank o.in0 && rank o.in1 && decide (x.1 = y.1) && decide ((if tr then y.2.1 else y.2.2) = ni q) && decide (ni q ≤ 65536) &&
      scOk q o.in0 (x.1 * x.2.1) && scOk q o.in1 (y.1 * no q)
  let macs := (let x := dim3 (dm (olSeq b) o.in0); x.1 * x.2.1 * ni (olSeq b) * no (olSeq b))
  let in4Ok := fun (q : Nat) =>
    match o.code with
    | 1 => pairOk && mmOk q && decide (macs ≤ 1073741824 * olArrays b)
    | 2 | 3 => isF o.in0 && isF o.in1 && decide ((dm q o.in0).drop ((dm q o.in0).length - (dm q o.in1).length) = dm q o.in1)
    | 4 | 6 | 0x0D => isF o.in0
    | 5 => isF o.in0 && isF o.in1 && decide (dm q o.in1 = [last q o.in0])
    | 8 => decide (fm o.in0 = 7)
    | 9 => isF o.in0 && decide ((descAt b o.in0).seq ≠ 0)
    | 0x0A => isF o.in0 && (none_ o.in1 || (staticTen b o.in1 && decide (fm o.in1 = 0) && div q o.in1 (chans q)))
    | 0x0B => !none_ (sc o.in0) && scOk q o.in0 (rows q o.in0)
    | _ => true
  let out8Ok := fun (q : Nat) =>
    let x := dm q o.in0
    let y := dm q o.out
    match o.code with
    | 1 => decide (dim3 y = ((dim3 x).1, (dim3 x).2.1, no q)) && isF o.out && (none_ o.in2 || (decide (fm o.in2 = 0) && decide (dm q o.in2 = [no q])))
    | 2 | 3 | 4 | 6 | 0x0C | 0x0D => decide (y = x)
    | 5 => decide (y = x) && (none_ o.in2 || (isF o.in2 && decide (dm q o.in2 = [last q o.in0])))
    | 7 => decide (fm o.out = fm o.in0) && decide (y = (List.range x.length).map (fun i => x.getD (nbits o.a0 (2 * i + 1) (2 * i)) 1))
    | 8 => decide (fm o.out = fm o.in1) && decide (y = x ++ (dm q o.in1).drop 1)
    | 9 =>
      let ax := (descAt b o.in0).seq - 1
      decide (y = x.take ax ++ x.drop (ax + 1)) || decide (y = x.take ax ++ [1] ++ x.drop (ax + 1))
    | 0x0A =>
      decide (y = x) && decide (3 ≤ fm o.out) && decide (fm o.out ≤ 6) && (none_ o.in2 || listOk b o.in2 (last q o.in0)) &&
        (none_ (sc o.out) || (if staticTen b (sc o.out) then decide (sc o.out = o.in1)
          else may (sc o.out) && decide (tsize (dm q (sc o.out)) = chans q)))
    | 0x0B => decide (y = x) && decide (fm o.out = 0)
    | _ => true
  let auxOk := fun (q : Nat) =>
    none_ o.aux || (match o.code with
      | 1 => listOk b o.aux (ni q) && (quantFor before o).any (fun r => r.a1 ≠ 0xFFFF)
      | 0x0A => may o.aux && decide (tbytes (fm o.aux) (dm q o.aux) = 16 * chans q)
      | _ => decide (o.aux < cnt))
  let a0Ok := fun (q : Nat) =>
    match o.code with
    | 1 => if none_ o.aux then decide (o.a0 = 0xFFFF)
      else ok o.a0 && decide (fm o.a0 = 2) && decide (dm q o.a0 = [tsize (dm q o.aux), no q])
    | 4 => decide (o.a0 ≤ 4)
    | 5 => let e : F32 := BitVec.ofNat 32 o.a0; f32Finite e && !f32Zero e && !f32Neg e
    | 7 => permOk o.a0 (descAt b o.in0).rank
    | 9 => decide (o.a0 ≤ 3)
    | 0x0A => decide (o.a0 ≤ 1)
    | _ => decide (o.a0 = 0)
  let a1Ok := fun (q : Nat) =>
    if o.code ≠ 0x0A then decide (o.a1 = 0)
    else none_ o.a1 || (if none_ o.in2 then decide (o.a1 < cnt)
      else may o.a1 && decide (fm o.a1 = 2) && decide (tsize (dm q o.a1) = rows q o.in0 * tsize (dm q o.in2)))
  firstBad [
    offIf (0x0D < o.code || nbits (bword b w) 15 0 ≠ 0 ||
      (if o.code = 1 ∨ o.code = 5 ∨ o.code = 6 then 1 < o.flags else o.flags ≠ 0)) w,
    offIf (o.code ≠ 0 && (none_ o.in0 || !ok o.in0 || (two && none_ o.in1) || (!none_ o.in1 && !ok o.in1) || !each in4Ok)) (w + 4),
    offIf (o.code ≠ 0 && ((!none_ o.in2 && !ok o.in2) || !may o.out || !each out8Ok)) (w + 8),
    offIf (nbits (bword b (w + 12)) 15 0 ≠ 0 || !each auxOk) (w + 12),
    offIf (!each a0Ok) (w + 16),
    offIf (!each a1Ok) (w + 20),
    offIf (if o.code = 1 then !f32Finite (BitVec.ofNat 32 o.a2) else o.a2 ≠ 0) (w + 24),
    offIf (o.a3 ≠ 0) (w + 28)]

/-- Tensors that an operator writes. -/
def opWrites (b : Blob) (o : TOp) : List Nat :=
  if o.code = 0 then [] else [o.out] ++ (if o.code = 0x0A then [o.aux, o.a1, (descAt b o.out).scale] else [])

/-- The checks of R188 in their order: the offset of the first failing word. -/
def olBad (b : Blob) (genOk tableOk : Bool) : Option Nat :=
  match olHeaderBad b genOk tableOk with
  | some o => some o
  | none =>
    match (List.range (olTensors b)).findSome? (olDescBad b) with
    | some o => some o
    | none =>
      match (List.range (olTensors b)).findSome? (olDataBad b) with
      | some o => some o
      | none =>
        match (olOpList b).findSome? (olOutlierBad b) with
        | some o => some o
        | none =>
          let r := (List.range (olOps b)).foldl (fun (acc : Option Nat × List Nat) j =>
            match acc.1 with
            | some _ => acc
            | none => (olOpBad b j acc.2, acc.2 ++ opWrites b (opAt b j))) (none, [])
          match r.1 with
          | some o => some o
          | none =>
            let ds := olDescs b
            let sum := nsum ((ds.filter (fun d => d.role = 1 || d.role = 4)).map (fun d => tbytes d.fmt (d.dims.take d.rank)))
            if sum ≠ olWeight b then some 0x10
            else if (ds.filter (fun d => d.role = 3)).length ≠ 1 then some 0x04 else none

/-! ### Programs (R187, R189, R192-R194) -/

def progFind (n : Node) (id : Nat) : Option Prog := n.progs.find? (fun p => p.id = id)

def progMod (id : Nat) (f : Prog → Prog) (n : Node) : Node := { n with progs := lmodify (fun p => p.id = id) f n.progs }

def tnsCnt (i off k : Nat) (n : Node) : Node := bump (regAddr .tns i off) k n

/-- A TNS report: operator and class in INFO_LO, the encoder in INFO_HI (R196). -/
def tnsReport (i code : Nat) (p : Prog) (n : Node) : Node :=
  report .tns i code (p.op % 4096 + p.cls * 2 ^ 12) (if p.cls = 0 then p.handle else 0) n

/-- Arrays that a class may use: ENCODE_OK and TRAIN_OK (R195). -/
def classOk (n : Node) (cls i : Nat) : Bool :=
  if cls = 1 then rfield n .tns i 0x104 0 0 = 1 else if cls = 2 then rfield n .tns i 0x104 1 1 = 1 else true

/-- Arrays of programs that hold them: those RUNNING. -/
def arrayBusy (n : Node) (i : Nat) : Bool := n.progs.any (fun p => p.state = 1 && p.arrays.contains i)

/-- Arrays that a waiting program may take. -/
def freeArrays (n : Node) (p : Prog) : List Nat :=
  (activeUnits n .tns).filter (fun i => !arrayBusy n i && classOk n p.cls i && !p.avoid.contains i)

/-- A flash-homed page that the program's next operator needs (R192). -/
def coldPages (n : Node) (p : Prog) : List Nat :=
  p.pages.filter (fun q => match ptGet n q with | some e => e.home = 3 | none => false)

/-- Programs that wait for arrays take free groups in order; one that finds too few keeps those it could use from the ones after it
(R193). Which free arrays make up a group is the node's choice. -/
def placeFrom : List Prog → List Nat → Node → Node
  | [], _, n => n
  | p :: l, kept, n =>
    let fr := (freeArrays n p).filter (fun i => !kept.contains i)
    if fr.length < p.need then placeFrom l (kept ++ fr) n
    else
      let (s, n) := selectFree (fun _ _ : Nat => false) p.need fr n
      placeFrom l kept (progMod p.id (fun p => { p with state := 1, arrays := s, ran := false, begun := n.tick }) n)

/-- Programs that wait for arrays, by class and then in order of arrival (R193). -/
def placeWaiting (n : Node) : Node :=
  placeFrom ([0, 1, 2].flatMap (fun c => n.progs.filter (fun p => p.state = 3 && p.cls = c))) [] n

/-- A program at its boundary waits: for its flash-homed pages first (R192), then for arrays. -/
def progWait (id : Nat) (n : Node) : Node :=
  match progFind n id with
  | none => n
  | some p =>
    match coldPages n p with
    | c :: cs =>
      placeWaiting ((c :: cs).foldl (fun n q => tierFault q (2 ^ 21 + id) n) (progMod id (fun p => { p with state := 2 }) n))
    | [] => placeWaiting (progMod id (fun p => { p with state := 3 }) n)

/-- Start a program. -/
def progStart (p : Prog) (n : Node) : Nat × Node :=
  let id := n.nextProg
  (id, progWait id { n with progs := n.progs ++ [{ p with id := id }], nextProg := id + 1 })

/-- A tensor of a list in a run of T tokens: the first T of its SEQ_AXIS dimension (R184, R187; DEDUCED, log 169). -/
def seqTake (d : TDesc) (t : Nat) (x : Ten) : Ten :=
  if d.seq = 0 then x
  else { x with
    dims := runDims d t,
    vals := ((List.range x.vals.length).filter (fun i => decide ((unravel x.dims i).getD (d.seq - 1) 0 < t))).map (tget x) }

def progNew (cls need : Nat) : Prog :=
  { id := 0, cls := cls, state := 3, handle := 0, gen := 0, need := need, arrays := [], ops := [], descs := [], seqLen := 1,
    tens := [], op := 0, ran := false, begun := 0, deadline := none, req := none, key := none, restarted := false,
    saturated := false, zeroNorm := false, pages := [], base := 0, avoid := [] }

/-- A run of an encoder over its input tensor (R189). -/
def encoderProg (e : Encoder) (input : Ten) (t req deadline : Nat) : Prog :=
  let ds := olDescs e.list
  let ws := (ds.mapIdx (fun i d => (i, d))).filter (fun x => x.2.role = 1 || x.2.role = 4)
  { progNew 0 (olArrays e.list) with
    handle := e.handle, gen := e.gen, ops := olOpList e.list, descs := ds, seqLen := t,
    tens := ws.foldl (fun m x => sins m x.1 (seqTake x.2 t (olTen e.list x.2))) [(0, input)], deadline := some deadline, req := some req,
    base := e.base }

/-- The tensor descriptor of a node's own program. -/
def ownDesc (fmt role : Nat) (dims : List Nat) : TDesc :=
  { fmt := fmt, role := role, rank := dims.length, seq := 0, dims := dims, off := 0, scale := 0xFFFF }

def ownOp (code in0 in1 out a0 : Nat) : TOp :=
  { code := code, flags := 0, in0 := in0, in1 := in1, in2 := 0xFFFF, out := out, aux := 0xFFFF, a0 := a0, a1 := 0, a2 := 0, a3 := 0 }

def vecsTen (d : Nat) (vs : List (List F32)) : Ten :=
  { fmt := 0, dims := [vs.length, d], vals := vs.flatMap (fun v => v.map BitVec.toNat) }

/-- Insert encoding of a commit step (R191). -/
def encodeProg (key : ShardKey) (g : IdxGen) (book : Blob) (vs : List (List F32)) : Prog :=
  let m := gM g
  let w := gWidth g
  let bt : Ten := { fmt := 0, dims := [m, 16, w], vals := (List.range (m * 16 * w)).map (fun i => bword book (4 * i)) }
  { progNew 1 1 with
    key := some key, ops := [ownOp 0x0E 0 1 2 0],
    descs := [ownDesc 0 0 [vs.length, gDim g], ownDesc 0 1 [m, 16, w], ownDesc 4 3 [vs.length, m]],
    tens := [(0, vecsTen (gDim g) vs), (1, bt)] }

/-- Codebook training (R190). -/
def trainProg (handle gen m w iters d req : Nat) (vs : List (List F32)) (pages : List Nat) : Prog :=
  { progNew 2 1 with
    handle := handle, gen := gen, req := some req, ops := [ownOp 0x0F 0 0xFFFF 1 iters],
    descs := [ownDesc 0 0 [vs.length, d], ownDesc 0 3 [m, 16, w]], tens := [(0, vecsTen d vs)], pages := pages }

/-- Spread `k` events over a group's arrays: how many each array's tiles met is not the manual's. -/
def groupCnt (off : Nat) : List Nat → Nat → Node → Node
  | [], _, n => n
  | [i], k, n => if k = 0 then n else tnsCnt i off k n
  | i :: j :: l, k, n =>
    if k = 0 then n
    else
      let (v, n) := fresh n
      groupCnt off (j :: l) (k - v % (k + 1)) (if v % (k + 1) = 0 then n else tnsCnt i off (v % (k + 1)) n)

/-- A pinned weight or scale that the operator reads holds a poisoned word: the page is rewritten from the list kept in flash, and
the run fails (R196). -/
def weightBad (n : Node) (p : Prog) (o : TOp) : Option (Nat × Nat) :=
  let ts := opInputs o ++ (opInputs o).map (fun t => (pDesc p t).scale)
  (ts.filter (fun t => (pDesc p t).role = 1 || (pDesc p t).role = 4)).findSome? (fun t =>
    let a := p.base + (pDesc p t).off
    let len := tbytes (pDesc p t).fmt ((pDesc p t).dims.take (pDesc p t).rank)
    if p.cls = 0 && poisoned n a len then some (a, len) else none)

/-- The run of a query's encoder ends without an output: the query answers `status`. -/
def progFail (p : Prog) (status : Nat) (n : Node) : Node :=
  let n := { n with progs := n.progs.filter (fun q => q.id ≠ p.id) }
  let n := match p.req.bind (reqFind n) with
    | some r => finish r bempty { boundResp r with status := status } n
    | none => n
  placeWaiting n

/-- The current operator of a RUNNING program, if it is `code`, computes its outputs (R186). -/
def opRun (code : Nat) (f : Prog → TOp → OpOut) (id : Nat) (n : Node) : Node :=
  match progFind n id with
  | none => n
  | some p =>
    match p.ops[p.op]? with
    | none => n
    | some o =>
      if p.state ≠ 1 ∨ p.ran ∨ o.code ≠ code then n
      else match weightBad n p o with
        | some (a, len) =>
          let (i, n) := pick 0 p.arrays n
          let n := tnsReport i 0x02 p n
          progFail p 6 { n with poison := n.poison.filter (fun w => !(a / 65536 ≤ w * 4 / 65536 && w * 4 / 65536 ≤ (a + len - 1) / 65536)) }
        | none =>
          let r := f p o
          let n := progMod id (fun p => { p with
            ran := true, tens := r.tens.foldl (fun m x => sins m x.1 x.2) p.tens,
            saturated := p.saturated || decide (0 < r.sats), zeroNorm := p.zeroNorm || r.zeroNorm }) n
          let n := groupCnt 0x120 p.arrays r.sats n
          let n := groupCnt 0x124 p.arrays r.zeroRange n
          let n := groupCnt 0x128 p.arrays r.clamped n
          let n := groupCnt 0x118 p.arrays r.macs n
          let n := if r.outliers then p.arrays.foldl (fun n i => tnsCnt i 0x12C 1 n) n else n
          if 0 < r.sats then
            let (i, n) := pick 0 p.arrays n
            tnsReport i 0x03 p n
          else n

/-- A program of a higher class waits, the arrays that lower classes hold and the free ones would make up its group, and this one
holds some of them (R193). -/
def mustYield (n : Node) (p : Prog) : Bool :=
  n.progs.any (fun q => q.state = 3 && decide (q.cls < p.cls) && p.arrays.any (classOk n q.cls) &&
    decide (q.need ≤ ((activeUnits n .tns).filter (fun i => classOk n q.cls i && !q.avoid.contains i &&
      !n.progs.any (fun r => r.state = 1 && r.cls ≤ q.cls && r.arrays.contains i))).length))

/-- An array of the group is no longer active: no new operator starts there (R195). -/
def groupDrains (n : Node) (p : Prog) : Bool := p.arrays.any (fun i => !unitActive n (pageOf .tns i))

/-- An operator boundary: times, counters and samples of its arrays (R195, R341). -/
def boundary (p : Prog) (n : Node) : Node :=
  p.arrays.foldl (fun n i =>
    let n := tnsCnt i 0x110 1 n
    let n := { n with tnsTimes := sset [] n.tnsTimes i (lpushMax 1024 (sget [] n.tnsTimes i) (n.tick - p.begun)) }
    let (m, n) := sampled n
    if m then shadowAdd (pageOf .tns i) (p.op % 4096 + p.cls * 2 ^ 12) (if p.cls = 0 then p.handle else 0) n else n) n

/-- The deadline of a run has passed. -/
def progLate (p : Prog) (n : Node) : Bool := match p.deadline with | some d => decide (d ≤ n.tick) | none => false

/-- The operator has finished on every array: the next one starts, or the program hands its arrays over, waits for pages,
or ends; an encoder run past its deadline stops (R187, R192, R193). The outcome: none while it goes on, some output
tensor when it has ended. -/
def opNext (id : Nat) (n : Node) : Option (Prog × Ten) × Node :=
  match progFind n id with
  | none => (none, n)
  | some p =>
    if p.state ≠ 1 ∨ !p.ran then (none, n)
    else
      let n := boundary p n
      if p.ops.length ≤ p.op + 1 then
        let out := match p.descs.findIdx? (fun d => d.role = 3) with | some i => pTen p i | none => pTen p 0xFFFF
        (some (p, out), placeWaiting { n with progs := n.progs.filter (fun q => q.id ≠ id) })
      else if p.cls = 0 && progLate p n then (none, progFail p 8 n)
      else
        let q := { p with op := p.op + 1, ran := false, begun := n.tick }
        let n := progMod id (fun _ => q) n
        if mustYield n p then
          let n := p.arrays.foldl (fun n i => tnsCnt i 0x130 1 n) n
          (none, placeWaiting (progMod id (fun q => { q with state := 3 }) n))
        else if groupDrains n p then (none, progWait id n)
        else if (coldPages n q).isEmpty then (none, n)
        else (none, progWait id n)

/-- A lost array of its group: the program starts again once on another group, if its deadline leaves room; insert encoding is
repeated however often (R194). -/
def progRestart (id lost : Nat) (n : Node) : Node :=
  match progFind n id with
  | none => n
  | some p =>
    if p.state ≠ 1 ∨ !p.arrays.contains lost then n
    else if (p.restarted || progLate p n) && p.cls ≠ 1 then progFail p 6 n
    else
      let first := (p.descs.mapIdx (fun i d => (i, d))).filter (fun x => x.2.role = 0 || x.2.role = 1 || x.2.role = 4)
      progWait id (progMod id (fun p => { p with
        restarted := true, op := 0, ran := false, state := 3, avoid := ninsert lost p.avoid,
        tens := p.tens.filter (fun t => first.any (fun x => x.1 = t.1)) }) (tnsCnt lost 0x134 1 n))

/-- TNS_CTRL is written (R195). -/
def tnsCtrl (i : Nat) (v : Word) (n : Node) : Node :=
  unitDrain .tns i (v.toNat.testBit 31) (regPut (regAddr .tns i 0x104) (v &&& 0x80000003#32) n)

/-! ### The commands -/

def execTnsNop (prog : Nat) (s : State) : Host.Outcome State Fault Refusal := run s (opRun 0x00 (fun _ _ => outNone) prog)
def execMatmul (prog : Nat) (s : State) : Host.Outcome State Fault Refusal := run s (opRun 0x01 runMatmul prog)
def execAdd (prog : Nat) (s : State) : Host.Outcome State Fault Refusal := run s (opRun 0x02 (runBin addC) prog)
def execMul (prog : Nat) (s : State) : Host.Outcome State Fault Refusal := run s (opRun 0x03 (runBin mulC) prog)
def execAct (prog : Nat) (s : State) : Host.Outcome State Fault Refusal := run s (opRun 0x04 runAct prog)
def execNorm (prog : Nat) (s : State) : Host.Outcome State Fault Refusal :=
  run s (opRun 0x05 (fun p o => rowsOp (normRow p o) p o) prog)
def execSoftmax (prog : Nat) (s : State) : Host.Outcome State Fault Refusal :=
  run s (opRun 0x06 (fun p o => rowsOp (softmaxRow (pTen p o.in0) o) p o) prog)
def execPermute (prog : Nat) (s : State) : Host.Outcome State Fault Refusal := run s (opRun 0x07 runPermute prog)
def execGather (prog : Nat) (s : State) : Host.Outcome State Fault Refusal := run s (opRun 0x08 runGather prog)
def execTnsPool (prog : Nat) (s : State) : Host.Outcome State Fault Refusal := run s (opRun 0x09 runPool prog)
def execQuant (prog : Nat) (s : State) : Host.Outcome State Fault Refusal := run s (opRun 0x0A runQuant prog)
def execDequant (prog : Nat) (s : State) : Host.Outcome State Fault Refusal := run s (opRun 0x0B runDequant prog)
def execConvert (prog : Nat) (s : State) : Host.Outcome State Fault Refusal := run s (opRun 0x0C runConvert prog)
def execL2normalize (prog : Nat) (s : State) : Host.Outcome State Fault Refusal := run s (opRun 0x0D runL2 prog)
def execEncodePq (prog : Nat) (s : State) : Host.Outcome State Fault Refusal := run s (opRun 0x0E runEncodePQ prog)
def execKmeans (prog : Nat) (s : State) : Host.Outcome State Fault Refusal := run s (opRun 0x0F runKmeans prog)

/-- An array is lost to its program, or its tile buffer held an uncorrectable error, which it reports (R194, R196). -/
def execProgramRestart (prog : Nat) (lost : Fin 104) (tile : Bool) (s : State) : Host.Outcome State Fault Refusal :=
  run s (fun n => progRestart prog lost.val (match progFind n prog with
    | some p => if tile then tnsReport lost.val 0x01 p n else n
    | none => n))

def execTnsDrain (tns : Fin 104) (v : Word) (s : State) : Host.Outcome State Fault Refusal := run s (tnsCtrl tns.val v)

end Sys2Proof.Machine
end

