-- ==== Sys2Proof/Machine/Mutate.lean ====
section
/-!
DEFINITION. Sys2Proof/Machine/Mutate.lean: the primary's checks, MSNs and commit steps, the partner's mirror, duplicate
submissions, folding and edge repair, and the fill of a new generation (R39-R49, R63, R151-R173).
-/
namespace Sys2Proof.Machine

/-! ### Result words (R161) -/

def mutWord (msn status rflags shard gen : Nat) : BitVec 128 :=
  BitVec.ofNat 128 (msn % 2 ^ 64 + (shard % 65536) <<< 64 + rflags <<< 80 + status <<< 88 + (gen % 65536) <<< 112)

def wordStatus (w : BitVec 128) : Nat := nbits w.toNat 95 88
def wordMsn (w : BitVec 128) : Nat := w.toNat % 2 ^ 64

/-- The node answers a sub-batch (R161, R264). -/
def answerSub (dst tag : Nat) (words : List (BitVec 128)) (dup draining fwd : Bool) (n : Node) : Node :=
  let (e, n) := measured n
  sendTag dst tag (.subBatchAnswer { words := words, duplicate := dup, draining := draining, energy := e, forwarded := fwd }) n

/-! ### Live keys and local ids (R40, R154) -/

/-- Records of the steps whose writes are still to be done, oldest first. -/
def pendingRecs (s : Shard) : List JRec := (s.steps.filter (fun p => !p.written)).flatMap (fun p => p.step.recs)

/-- The local id of a key's live item after every earlier record of the shard (R154). -/
def liveOf (s : Shard) (key : Nat) : Option Nat :=
  match ((pendingRecs s).filter (fun r => r.ckey = key)).getLast? with
  | some r => if r.kind = 2 then none else some r.lid
  | none => (keyFind s key).map (fun e => slotLid e.2)

/-- Some block of the graph names an item. -/
def edgeNames (s : Shard) (lid : Nat) : Bool :=
  s.adj.any (fun b => (blkNbrs b.2).contains lid) || s.upper.any (fun b => (blkNbrs b.2).contains lid)

/-- A walk or a sub-request of the shard holds a local id in one of its lists, or a folding walk found it. -/
def heldLid (n : Node) (s : Shard) (lid : Nat) : Bool :=
  let has := fun (l : List (Nat × Nat)) => l.any (fun x => x.2 = lid)
  let inCtx := fun (c : Ctx) => c.key = s.key && (has c.cand || has c.res || has c.sums || c.asked.contains lid || c.todo.contains lid || c.curId = lid)
  n.subReqs.any (fun q => q.msg.key = s.key && (q.walk.any (fun w => has w.list) || q.delta.any has ||
    q.prev.any (fun c => c.lid = lid) || q.rerank.any (fun c => c.lid = lid))) ||
  n.ctxs.any (fun k => match k.2 with | some c => inCtx c | none => false) || n.saved.any (fun w => w.ctxs.any inCtx) ||
  s.foldWalks.any (fun w => w.2.contains lid)

/-- The conditions of R40 for a deleted item's local id, with the tick of its delete's commit: queries bound at other holders have
passed their deadline 10 ms after it. The entry item keeps its local id. -/
def reusable (n : Node) (s : Shard) (x : Nat × Nat) : Bool :=
  let del := idmapDel (sget 0 s.idmap x.1)
  del ≠ 0 && del ≤ s.committed && !edgeNames s x.1 && !s.drows.any (fun d => d.kind ≠ 0 && d.ents.any (fun e => e.2 = x.1)) &&
  !n.subReqs.any (fun q => q.msg.key = s.key && (match q.snap with | some m => decide (m < del) | none => false)) &&
  decide (x.2 + ticksMs 10 ≤ n.tick) && s.entryId ≠ x.1 && !heldLid n s x.1

/-- Local ids that an insert may take: any that may be reused, and the next one never used. -/
def freeLids (n : Node) (g : IdxGen) (s : Shard) : List Nat :=
  (s.reuse.filter (reusable n s)).map (·.1) ++ (if s.idHigh < gCapacity g then [s.idHigh] else [])

/-- A deleted item's local id is not yet given again (R63). -/
def awaitsReuse (s : Shard) : Bool :=
  let given := fun lid => (pendingRecs s).any (fun r => r.kind ≠ 2 && r.lid = lid)
  s.idmap.any (fun e => idmapDel e.2 ≠ 0 && !given e.1) || (pendingRecs s).any (fun r => r.kind = 2 || r.oldId ≠ lidNone)

/-- Local ids of inserts whose step has not committed here. -/
def uncommitted (s : Shard) (lid : Nat) : Bool := s.steps.any (fun p => p.step.recs.any (fun r => r.kind ≠ 2 && r.lid = lid))

/-- LIVE_COUNT (R61): items inserted at or below COMMITTED_MSN with DELETE_MSN 0. -/
def liveCount (s : Shard) : Nat := (s.idmap.filter (fun e => idmapDel e.2 = 0 && !uncommitted s e.1)).length

/-- Deleted items that an edge still names: REPAIR_COUNT (R61, R167). -/
def repairIds (s : Shard) : List Nat :=
  (s.idmap.filter (fun e => idmapDel e.2 ≠ 0 && decide (idmapDel e.2 ≤ s.committed) && edgeNames s e.1)).map (·.1)

/-! ### Room in the delta segment (R52, R63) -/

/-- DELTA_COUNT: entries of APPEND and CLOSED rows (R61). -/
def deltaCount (s : Shard) : Nat := nsum ((s.drows.filter (fun d => d.kind = 1 || d.kind = 2)).map (fun d => d.ents.length))

/-- Delta rows of the reservation. -/
def rowsTotal (s : Shard) : Nat := 64 * s.pages.length

def emptyRows (s : Shard) : Nat := rowsTotal s - (s.drows.filter (fun d => d.kind ≠ 0)).length

/-- The lowest EMPTY row of the reservation (log 17). -/
def firstEmpty (s : Shard) : Option Nat :=
  match s.drows.findIdx? (fun d => d.kind = 0) with
  | some i => if i < rowsTotal s then some i else none
  | none => if s.drows.length < rowsTotal s then some s.drows.length else none

/-- The APPEND row. -/
def openDRow (s : Shard) : Option (Nat × DRow) :=
  (s.drows.findIdx? (fun d => d.kind = 1)).map (fun i => (i, s.drows.getD i drowEmpty))

/-- Layout of further entries: count and BASE_MSN of the open row, EMPTY rows left, and whether all were placed. -/
def layOne (cap : Nat) (a : Nat × Nat × Nat × Bool) (msn : Nat) : Nat × Nat × Nat × Bool :=
  let (c, base, emp, ok) := a
  if 0 < c ∧ msn - base ≤ 16777215 then (if c + 1 = cap then 0 else c + 1, base, emp, ok)
  else if emp = 0 then (0, base, 0, false)
  else (if cap = 1 then 0 else 1, msn, emp - 1, ok)

/-- Entries of these MSNs find rows. -/
def rowsFit (g : IdxGen) (s : Shard) (msns : List Nat) : Bool :=
  let o := openDRow s
  let a := match o with | some d => (d.2.ents.length, d.2.base) | none => (0, 0)
  (msns.foldl (layOne (rowCap (gM g / 2 + 8))) (a.1, a.2, emptyRows s, true)).2.2.2

/-! ### Writing a record's objects (R154, R158 step 5) -/

/-- Append an entry to the delta segment; none where no row can take it. -/
def appendEntry (key : ShardKey) (g : IdxGen) (e : DEnt) (n : Node) : Option Node :=
  match shardFind n key with
  | none => none
  | some s =>
    let cap := rowCap (gM g / 2 + 8)
    let fresh := fun (n : Node) => match shardFind n key with
      | none => none
      | some s => (firstEmpty s).map (fun i => writeDRow key (gM g) (physRow s i) i (if cap = 1 then 2 else 1) 0 [e] n)
    match openDRow s with
    | some (i, d) =>
      if d.bad then none
      else
        let es := rowEnts (openRow n (physRow s i))
        if e.msn - d.base ≤ 16777215 then
          let es := es ++ [e]
          some (writeDRow key (gM g) (physRow s i) i (if es.length = cap then 2 else 1) 0 es n)
        else fresh (writeDRow key (gM g) (physRow s i) i 2 0 es n)
    | none => fresh n

/-- Key index slot address. -/
def keyidxAddr (s : Shard) (i : Nat) : Nat := baseOf s 5 + 16 * i

/-- DELETE_MSN of an item (R154). -/
def markDeleted (lid msn : Nat) (s : Shard) : Shard :=
  { s with idmap := sins s.idmap lid (idmapMk (idmapKey (sget 0 s.idmap lid)) msn) }

/-- What is left of a reused local id's earlier item goes: its code and its blocks (R40, R46, R48). -/
def dropItem (lid : Nat) (s : Shard) : Shard :=
  let b := adjGet s lid
  { s with
    code := sdel s.code lid, adj := sdel s.adj lid,
    upper := (List.range (blkTop b)).foldl (fun u l => sdel u (blkUpper b + l)) s.upper,
    reuse := s.reuse.filter (fun x => x.1 ≠ lid), foldWalks := s.foldWalks.filter (fun w => w.1 ≠ blkMsn b) }

/-- The writes of one record: delta entry, id map, attribute word, key index slot, full vector. None while the entry
has no row. -/
def applyRec (key : ShardKey) (g : IdxGen) (r : JRec) (n : Node) : Option Node :=
  match shardFind n key, g.codebook with
  | some s, some book =>
    if r.kind = 2 then
      let n := memWrite (idmapAddr s r.lid) 16 n
      let n := match keyFind s r.ckey with | some (i, _) => memWrite (keyidxAddr s i) 16 n | none => n
      some (shardMod key (fun s => keyClear r.ckey (markDeleted r.lid r.msn s)) n)
    else
      let v := fullValues (gFullFmt g) (gDim g) r.full.bits
      let e : DEnt := { code := encodePQVec book (gM g) (gWidth g) v, folded := false, lid := r.lid, msn := r.msn }
      (appendEntry key g e n).map (fun n =>
        let log2 := keyLog2 (gCapacity g)
        let n := memWrite (attrAddr s r.lid) 16 (memWrite (idmapAddr s r.lid) 16 n)
        let n := if (sfind s.adj r.lid).isSome then memWrite (adjAddr s r.lid) 256 n else n
        let n := storeBytes (fullAddr g s r.lid) (fullSize (gFullFmt g) (gDim g)) g.owner n
        let n := if r.oldId = lidNone then n else memWrite (idmapAddr s r.oldId) 16 n
        let n := shardMod key (fun s =>
          let s := dropItem r.lid s
          let s := { s with
            idmap := sins s.idmap r.lid (idmapMk r.ckey 0), attr := sset 0 s.attr r.lid r.attr.toNat,
            full := sins s.full r.lid r.full.bits, ages := s.ages ++ [(r.msn, n.tick)] }
          let s := if r.oldId = lidNone then s else markDeleted r.oldId r.msn s
          keyPut log2 r.ckey r.lid s) n
        match shardFind n key with
        | some t => (match keyFind t r.ckey with | some (i, _) => memWrite (keyidxAddr t i) 16 n | none => n)
        | none => n)
  | some s, none =>
    if r.kind = 2 then some (shardMod key (fun s => keyClear r.ckey (markDeleted r.lid r.msn s)) (memWrite (idmapAddr s r.lid) 16 n))
    else none
  | none, _ => none

/-- The row that a step's entries are appended to is read first; one found bad is reported and awaits its rebuild
(R126, R127). -/
def appendCheck (key : ShardKey) (recs : List JRec) (n : Node) : Node :=
  match (shardFind n key).bind openDRow with
  | some (i, _) => if recs.any (fun r => r.kind ≠ 2) then (ctlRead key i n).2 else n
  | none => n

/-- Pairs on which a row of the shard has closed since `before` are asked for a compaction (R124). -/
def closedSince (before : List DRow) (key : ShardKey) (n : Node) : Node :=
  match shardFind n key with
  | none => n
  | some s => (s.drows.mapIdx (fun i d => (i, d))).foldl (fun n x =>
      if x.2.kind = 2 && (before.getD x.1 drowEmpty).kind ≠ 2 then compactDue key (physUnit (physRow s x.1)) n else n) n

/-- Every record of a step, when all of its entries find rows. -/
def applyStep (key : ShardKey) (g : IdxGen) (recs : List JRec) (n : Node) : Option Node :=
  match shardFind n key with
  | none => none
  | some s =>
    if !rowsFit g s ((recs.filter (fun r => r.kind ≠ 2)).map (·.msn)) then none
    else (recs.foldl (fun (acc : Option Node) r => acc.bind (applyRec key g r)) (some n)).map (closedSince s.drows key)

/-! ### The journal (R160) -/

def pad8 (x : Nat) : Nat := (x + 7) / 8 * 8

/-- A journal record (R160). -/
def jrecBlob (r : JRec) : Blob :=
  let body := if r.kind = 2 then bempty else bappend (bofNat 16 r.attr.toNat) (bofNat (pad8 r.full.len) r.full.bits)
  let b := bconcat [bofNat 8 r.msn, bofNat 8 r.ckey, bofNat 4 (r.kind * 2 ^ 28 + (0x28 + body.len) / 8 % 65536), bofNat 4 0,
    bofNat 8 (r.lid % 2 ^ 34), bofNat 8 (r.oldId % 2 ^ 34), body]
  bpatch b 0x14 (bofNat 4 (crc32c b))

/-- A request entry: 32 bytes, and a status byte for each record where one is not OK (R160). The order of its fields is the model's
(DESIGN CHOICE, log 170). -/
def reqBlob (q : ReqEntry) : Blob :=
  let bytes := q.words.map (fun w => nbits w.toNat 81 80 * 64 + wordStatus w % 64)
  bappend (bconcat [bofNat 4 q.tid, bofNat 4 q.count, bofNat 8 q.reqId, bofNat 8 q.firstMsn, bofNat 4 q.crc, bofNat 4 0])
    (if q.words.any (fun w => wordStatus w ≠ 0) then bofNat (pad8 bytes.length) (bofList bytes).bits else bempty)

/-- A step in the journal: its 64-byte header, its request entries, its records (R160). The order of the header's fields is the model's
(DESIGN CHOICE, log 170). -/
def stepImage (m : StepRec) : Blob :=
  let head := bconcat [bofNat 8 m.firstMsn, bofNat 8 m.lastMsn, bofNat 4 m.recs.length, bofNat 4 m.reqs.length, bofNat 40 0]
  let b := bconcat (head :: m.reqs.map reqBlob ++ m.recs.map jrecBlob)
  bpatch b 0x18 (bofNat 4 (crc32c b))

/-- The step is written to flash through the JOURNAL stream (R158 step 9, R241). -/
def journalWrite (m : StepRec) (n : Node) : Node :=
  let (uas, n) := ownWrite 0 (some (m.key, m.lastMsn)) none (unitsOf (stepImage m)) n
  ftlMod (fun f => { f with jours := f.jours ++ [(m.key, m.lastMsn, uas)] }) n

/-! ### Commit effects (R62, R158 step 7, R164, R167) -/

/-- Items that a step's records delete. -/
def deletedBy (recs : List JRec) : List Nat :=
  recs.filterMap (fun r => if r.kind = 2 then some r.lid else if r.oldId = lidNone then none else some r.oldId)

def setRepairBit (b : Nat) : Nat := if blkRepair b then b else b + 2 ^ 110
def clearRepairBit (b : Nat) : Nat := if blkRepair b then b - 2 ^ 110 else b

/-- REPAIR is set in the blocks of the deleted item's neighbours that name it (R167). -/
def markRepair (lid : Nat) (s : Shard) : Shard :=
  { s with
    adj := (blkNbrs (adjGet s lid)).foldl (fun a nb =>
      let b := sget 0 a nb
      if (blkNbrs b).contains lid then sset 0 a nb (setRepairBit b) else a) s.adj }

/-- COMMITTED_MSN rises over a step: EMPTY becomes SERVING with the first insert, deleted items await reuse and repair. -/
def commitShard (m : StepRec) (tick : Nat) (s : Shard) : Shard :=
  let ins := m.recs.any (fun r => r.kind ≠ 2)
  let del := deletedBy m.recs
  let s := { s with
    committed := Nat.max s.committed m.lastMsn, state := if s.state = 0 && ins then 1 else s.state,
    reuse := s.reuse.filter (fun x => !del.contains x.1) ++ del.map (fun x => (x, tick)) }
  del.foldl (fun s x => markRepair x s) s

/-- Kept duplicate entries of a step's sub-batches start their window (R162). -/
def dupsCommitted (m : StepRec) (n : Node) : Node :=
  m.reqs.foldl (fun n q => { n with
    dups := lmodify (fun d => d.key = m.key && d.tid = q.tid && d.reqId = q.reqId && d.crc = q.crc && d.at_.isNone)
      (fun d => { d with at_ := some n.tick }) n.dups }) n

/-- A duplicate entry is made, in the place of an equal one; when the table of 16,777,216 is full the oldest goes first (R162). -/
def dupAdd (d : DupEnt) (n : Node) : Node :=
  let l := n.dups.filter (fun x => !(x.key = d.key && x.tid = d.tid && x.reqId = d.reqId && x.crc = d.crc))
  if 16777216 ≤ l.length then { n with dups := l.drop 1 ++ [d], dupLost := n.dupLost + 1 }
  else { n with dups := l ++ [d] }

def dupOf (key : ShardKey) (q : ReqEntry) (at_ : Option Nat) : DupEnt :=
  { key := key, tid := q.tid, reqId := q.reqId, crc := q.crc, words := q.words, at_ := at_ }

/-- The kept entry that a sub-batch meets: of several with its TID and REQ_ID, one with its CRC (R162, R168). -/
def dupFind (n : Node) (key : ShardKey) (tid reqId crc : Nat) : Option DupEnt :=
  let l := n.dups.filter (fun d => d.key = key && d.tid = tid && d.reqId = reqId)
  match l.find? (fun d => d.crc = crc) with
  | some d => some d
  | none => l.head?

/-- Answers of a committed step that no longer wait: those without ACK_DURABLE, and all once it is in flash at both
nodes (R159). -/
def sendAnswers (l : List WaitAns) (n : Node) : Node :=
  l.foldl (fun n a => answerSub a.dst a.tag a.words a.dup false a.fwd n) n

/-- The steps that are in flash at both nodes release their ACK_DURABLE answers. -/
def durableCheck (key : ShardKey) (n : Node) : Node :=
  match shardFind n key with
  | none => n
  | some s =>
    let done := s.doneSteps.filter (fun p => p.here && p.there)
    let n := shardMod key (fun s => { s with doneSteps := s.doneSteps.filter (fun p => !(p.here && p.there)) }) n
    done.foldl (fun n p => sendAnswers p.answers n) n

/-! ### Forwarding to a new generation (R168) -/

/-- The generation that follows g under a handle. -/
def nextGen (g : Nat) : Nat := (g + 1) % 65536

/-- The role record of a shard's primary in the applied map. -/
def primaryOf (n : Node) (key : ShardKey) : Option (BitVec 12) := (shardRole n.map key).bind (fun r => r.primary.map (·.node))

/-- A record as the next generation stores it: its vector converted from the stored one. -/
def convRec (g g2 : IdxGen) (r : JRec) : JRec :=
  if r.kind = 2 then r
  else { r with full := { len := fullSize (gFullFmt g2) (gDim g2),
                          bits := fullRecord (gFullFmt g2) (storedVec g2 (fullValues (gFullFmt g) (gDim g) r.full.bits)) } }

/-- Committed records above the copy point go on to the next generation in MSN order, with their request entries. -/
def forwardStep (s : Shard) (m : StepRec) (n : Node) : Node :=
  match s.copyPoint, genFind n s.key.handle s.key.gen, genFind n s.key.handle (nextGen s.key.gen) with
  | some c, some g, some g2 =>
    let recs := (m.recs.filter (fun r => c < r.msn)).map (convRec g g2)
    (List.range (gShards g2)).foldl (fun n i =>
      let key : ShardKey := { handle := s.key.handle, gen := g2.gen, shard := i }
      let mine := recs.filter (fun r => shardOf r.ckey (gShards g2) = i)
      match primaryOf n key with
      | some p => if mine.isEmpty then n else
          send p.toNat (.stepForward { key := key, firstMsn := m.firstMsn, lastMsn := m.lastMsn, recs := mine, reqs := [] }) n
      | none => n) (shardMod s.key (fun s => { s with forwarded := Nat.max s.forwarded m.lastMsn }) n)
  | _, _, _ => n

/-- Copy (R168 step 1): the primary notes its copy point and sends every visible item as an INSERT. -/
def genCopy (key : ShardKey) (n : Node) : Node :=
  match shardFind n key, genFind n key.handle key.gen, genFind n key.handle (nextGen key.gen) with
  | some s, some g, some g2 =>
    if s.role ≠ 0 ∨ s.copyPoint.isSome then n
    else
      let n := shardMod key (fun s => { s with copyPoint := some s.committed, forwarded := s.committed }) n
      let items := s.idmap.filterMap (fun e =>
        if (idmapDel e.2 = 0 || s.committed < idmapDel e.2) && !uncommitted s e.1 then
          some (convRec g g2 { msn := 0, ckey := idmapKey e.2, kind := 1, lid := e.1, oldId := lidNone,
                               attr := BitVec.ofNat 128 (sget 0 s.attr e.1),
                               full := { len := fullSize (gFullFmt g) (gDim g), bits := sget 0 s.full e.1 } })
        else none)
      (List.range (gShards g2)).foldl (fun n i =>
        let k2 : ShardKey := { handle := key.handle, gen := g2.gen, shard := i }
        let mine := items.filter (fun r => shardOf r.ckey (gShards g2) = i)
        match primaryOf n k2 with
        | some p => if mine.isEmpty then n else send p.toNat (.fill { key := k2, recs := mine }) n
        | none => n) n
  | _, _, _ => n

/-- The primaries of current generations here begin the fill of a next generation that is placed and has its codebook (R168). -/
def genFill (n : Node) : Node :=
  (n.shards.filter (fun s => s.role = 0 && s.copyPoint.isNone && decide (currentGen n.map s.key.handle = some s.key.gen) &&
      n.map.shards.any (fun r => r.key.handle = s.key.handle && r.key.gen = nextGen s.key.gen) &&
      (genFind n s.key.handle (nextGen s.key.gen)).any (·.codebook.isSome))).foldl (fun n s => genCopy s.key n) n

/-! ### Steps at the primary (R157, R158) -/

def stepMod (key : ShardKey) (f : List PStep → List PStep) (n : Node) : Node :=
  shardMod key (fun s => { s with steps := f s.steps }) n

/-- The mirrors of a shard: its partner, or the incoming holder in the place of a partner it lacks (R266, R278). -/
def mirrorOf (r : ShardRole) : List (BitVec 12) :=
  match r.partner with
  | some p => [p.node]
  | none => r.incoming.toList

/-- A sealed primary that has committed every step sends SEAL to the incoming holder and to the council (R278 step 3). -/
def sealSend (key : ShardKey) (n : Node) : Node :=
  match shardFind n key, shardRole n.map key with
  | some s, some r =>
    if s.role = 0 ∧ s.sealed.isSome ∧ !s.sealSent ∧ s.steps.all (fun p => p.closed && p.step.recs.isEmpty) then
      let n := shardMod key (fun s => { s with sealSent := true }) n
      let towards := r.incoming.toList ++ n.map.council.filter (fun c => r.incoming ≠ some c)
      towards.foldl (fun n c => send c.toNat (.seal key s.committed) n) n
    else n
  | _, _ => n

/-- Commit the oldest step when it is accepted and written (R158 step 7). It is kept until it is in flash at both nodes (R160). -/
def commitHead (key : ShardKey) (n : Node) : Option Node :=
  match shardFind n key with
  | none => none
  | some s =>
    match s.steps with
    | [] => none
    | p :: rest =>
      if p.sent && p.accepted && p.written then
        let now := p.answers.filter (fun a => !a.durable)
        let later := p.answers.filter (fun a => a.durable)
        let n := shardMod key (fun s => commitShard p.step n.tick { s with
          steps := rest, doneSteps := s.doneSteps ++ [{ p with answers := later }] }) n
        some (sealSend key (forwardStep s p.step (durableCheck key (sendAnswers now (dupsCommitted p.step n)))))
      else none

def commitLoop (key : ShardKey) : Nat → Node → Node
  | 0, n => n
  | k + 1, n => match commitHead key n with | some n => commitLoop key k n | none => n

def tryCommit (key : ShardKey) (n : Node) : Node :=
  commitLoop key (match shardFind n key with | some s => s.steps.length | none => 0) n

/-- Step 5 of R158 begins: the inserts of a step are encoded on the tensor arrays (R191), one program for each step. -/
def encodeStart (m : StepRec) (n : Node) : Node :=
  let recs := m.recs.filter (fun r => r.kind ≠ 2)
  match genFind n m.key.handle m.key.gen with
  | none => n
  | some g =>
    match g.codebook with
    | none => n
    | some book =>
      if recs.isEmpty then n
      else (progStart (encodeProg m.key g book (recs.map (fun r => fullValues (gFullFmt g) (gDim g) r.full.bits))) n).2

/-- Insert encoding of a shard is under way. -/
def encoding (n : Node) (key : ShardKey) : Bool := n.progs.any (fun p => p.cls = 1 && p.key = some key)

/-- Journal a closed step and send it to the partner (step 4); at most two await acceptance (R157). -/
def sendOne (key : ShardKey) (n : Node) : Option Node :=
  match shardFind n key, shardRole n.map key with
  | some s, some r =>
    match s.steps.find? (fun p => p.closed && !p.sent) with
    | none => none
    | some p =>
      if 2 ≤ (s.steps.filter (fun q => q.sent && !q.accepted)).length then none
      else
        let n := shardMod key (fun s => { s with
          journal := s.journal ++ [p.step],
          steps := lmodifyFirst (fun q => q.closed && !q.sent) (fun q => { q with sent := true, sentAt := n.tick }) s.steps }) n
        let n := (mirrorOf r).foldl (fun n d => send d.toNat (.step p.step) n) n
        let n := match r.partner, r.incoming with
          | some _, some i => send i.toNat (.stepForward p.step) n
          | _, _ => n
        some (encodeStart p.step (journalWrite p.step n))
  | _, _ => none

def sendReady (key : ShardKey) (n : Node) : Node :=
  match sendOne key n with
  | none => n
  | some n => match sendOne key n with | some n => n | none => n

/-- Close the open step. -/
def closeStep (key : ShardKey) (n : Node) : Node := sendReady key (stepMod key (fun l => l.map (fun p => { p with closed := true })) n)

/-- The open step closes at once while no earlier step awaits acceptance (R157). -/
def tryClose (key : ShardKey) (n : Node) : Node :=
  match shardFind n key with
  | none => n
  | some s =>
    if s.steps.any (fun p => p.closed && !p.accepted) then sendReady key n else closeStep key n

/-- A new open step. -/
def stepNew (key : ShardKey) (tick : Nat) : PStep :=
  { step := { key := key, firstMsn := 0, lastMsn := 0, recs := [], reqs := [] }, opened := tick, closed := false, sent := false,
    sentAt := 0, written := false, accepted := false, here := false, there := false, answers := [] }

/-- Change the open step, opening one where there is none. -/
def openStepMod (key : ShardKey) (f : PStep → PStep) (n : Node) : Node :=
  stepMod key (fun l =>
    if l.any (fun p => !p.closed) then lmodify (fun p => !p.closed) f l else l ++ [f (stepNew key n.tick)]) n

/-- Change the newest step, opening one where there is none. -/
def lastStepMod (key : ShardKey) (f : PStep → PStep) (n : Node) : Node :=
  stepMod key (fun l =>
    match l.reverse with
    | [] => [f (stepNew key n.tick)]
    | p :: r => (f p :: r).reverse) n

/-- Place a record in the open step; a step of 4,096 records closes (R157). -/
def placeRec (key : ShardKey) (r : JRec) (n : Node) : Node :=
  openStepMod key (fun p =>
    let st := { p.step with recs := p.step.recs ++ [r], firstMsn := if p.step.recs.isEmpty then r.msn else p.step.firstMsn,
                            lastMsn := r.msn }
    { p with step := st, closed := decide (4096 ≤ st.recs.length) }) n

/-! ### The record checks (R63, R155) -/

/-- Statuses that stop a sub-batch (R155). -/
def stops (st : Nat) : Bool := st = 5 || st = 2 || st = 7 || st = 4 || st = 6

/-- READ_ONLY: a durable record, or one whose journal step finds the node reserve's journal area full (R252). How large
that area is, the manual does not say. -/
def mediaFull (durable : Bool) (n : Node) : Bool × Node :=
  if n.ftl.pool ≠ 4 then (false, n)
  else if durable then (true, n)
  else let (x, n) := fresh n; (x % 2 = 1, n)

/-- One record at the primary: its status with the MSN field of its word, RFLAGS, and the node after it. -/
def doRecord (key : ShardKey) (g : IdxGen) (durable : Bool) (r : MutRec) (n : Node) : (Nat × Nat × Nat) × Node :=
  match shardFind n key with
  | none => ((4, n.map.epoch, 0), n)
  | some s =>
    let ckey := bnum r.body 0 8
    let kind := nbits (bword r.body 8) 31 28
    let live := liveOf s ckey
    let msn := s.lastMsn + 1
    if kind = 2 then
      match deleteCheck r.body with
      | some o => ((1, r.off + o, 0), n)
      | none =>
        match live with
        | none => ((0, 0, 1), n)
        | some lid =>
          let (full, n) := mediaFull durable n
          if full then ((7, 0, 0), n)
          else
            let n := shardMod key (fun s => { s with lastMsn := msn }) n
            ((0, msn, 0), placeRec key { msn := msn, ckey := ckey, kind := 2, lid := lid, oldId := lidNone, attr := 0, full := bempty } n)
    else
      match insertCheck g r.body with
      | .inl o => ((1, r.off + o, 0), n)
      | .inr v =>
        if kind = 1 ∧ live.isSome then ((1, r.off, 0), n)
        else if s.state = 2 ∨ g.codebook.isNone then ((5, 1000, 0), n)
        else
          let pend := ((pendingRecs s).filter (fun x => x.kind ≠ 2)).map (·.msn)
          let noRoom := decide (gDeltaCap g ≤ deltaCount s + pend.length) || !rowsFit g s (pend ++ [msn])
          if noRoom then
            let (x, n) := fresh n
            ((5, Nat.max 50 x, 0), n)
          else
            match freeLids n g s with
            | [] => if awaitsReuse s then ((5, 200, 0), n) else ((2, 0, 0), n)
            | l0 :: ls =>
              let (full, n) := mediaFull durable n
              if full then ((7, 0, 0), n)
              else
                let (lid, n) := pick l0 (l0 :: ls) n
                let n := shardMod key (fun s => { s with
                  lastMsn := msn, idHigh := Nat.max s.idHigh (lid + 1), reuse := s.reuse.filter (fun x => x.1 ≠ lid) }) n
                let rec_ : JRec := { msn := msn, ckey := ckey, kind := kind, lid := lid, oldId := live.getD lidNone,
                                     attr := BitVec.ofNat 128 (bnum r.body 0x10 16),
                                     full := { len := fullSize (gFullFmt g) (gDim g), bits := fullRecord (gFullFmt g) v } }
                ((0, msn, if live.isSome then 2 else 0), placeRec key rec_ n)

/-- The records of a sub-batch in order; one whose status stops it gives that status to every later one (R155). -/
def doRecords (key : ShardKey) (g : IdxGen) (durable : Bool) :
    List MutRec → Option (Nat × Nat) → Node → List (BitVec 128) × Node
  | [], _, n => ([], n)
  | r :: rs, stop, n =>
    match stop with
    | some (st, d) =>
      let (ws, n) := doRecords key g durable rs stop n
      (mutWord d st 0 key.shard key.gen :: ws, n)
    | none =>
      let (w, n) := doRecord key g durable r n
      let (ws, n) := doRecords key g durable rs (if stops w.1 then some (w.1, w.2.1) else none) n
      (mutWord w.2.1 w.1 w.2.2 key.shard key.gen :: ws, n)

/-- CRC-32C of a sub-batch's record bytes (R160). -/
def batchCrc (l : List MutRec) : Nat := crc32c (bconcat (l.map (·.body)))

/-- Every record of a sub-batch answered with one status. -/
def wholeWords (m : SubBatchMsg) (status detail : Nat) : List (BitVec 128) :=
  m.records.map (fun _ => mutWord detail status 0 m.key.shard m.key.gen)

/-- A resubmission waits on the step that holds the original's entry: until it commits, or with ACK_DURABLE until it is in flash at both
nodes; otherwise it is answered at once (R159, R162). -/
def dupAnswer (m : SubBatchMsg) (ans : WaitAns) (crc : Nat) (n : Node) : Node :=
  let holds := fun (p : PStep) => p.step.reqs.any (fun q => q.tid = m.tid && q.reqId = m.reqId && q.crc = crc)
  let put := fun (p : PStep) => { p with answers := p.answers ++ [ans] }
  match shardFind n m.key with
  | none => sendAnswers [ans] n
  | some s =>
    if s.steps.any holds then stepMod m.key (lmodifyFirst holds put) n
    else if m.ackDurable && s.doneSteps.any holds then
      shardMod m.key (fun s => { s with doneSteps := lmodifyFirst holds put s.doneSteps }) n
    else sendAnswers [ans] n

/-- A sub-batch that this node, as primary, checks and places (R154-R158, R162). -/
def subBatchServe (h : MsgHdr) (m : SubBatchMsg) (s : Shard) (g : IdxGen) (n : Node) : Node :=
  let crc := batchCrc m.records
  let src := h.src.toNat
  let tag := h.tag.toNat
  let ansOf := fun (words : List (BitVec 128)) (msn : Nat) (dup : Bool) =>
    ({ dst := src, tag := tag, msn := msn, durable := m.ackDurable, words := words, dup := dup, fwd := m.forwarded } : WaitAns)
  match (if m.reqId = 0 then none else dupFind n m.key m.tid m.reqId crc) with
  | some d =>
    if d.crc ≠ crc then answerSub src tag (wholeWords m 1 0x28) false false m.forwarded n
    else dupAnswer m (ansOf d.words s.lastMsn true) crc n
  | none =>
    let (words, n) := doRecords m.key g m.ackDurable m.records none n
    let last := match shardFind n m.key with | some t => t.lastMsn | none => 0
    let placed := last - s.lastMsn
    if placed = 0 ∧ m.reqId = 0 then answerSub src tag words false false m.forwarded n
    else
      let entry : ReqEntry := {
        tid := m.tid, reqId := m.reqId, crc := crc, firstMsn := if placed = 0 then 0 else s.lastMsn + 1,
        count := m.records.length, words := words }
      let put := fun (p : PStep) => { p with
        answers := p.answers ++ [ansOf words last false],
        step := if m.reqId = 0 then p.step else { p.step with reqs := p.step.reqs ++ [entry] } }
      let n := if placed = 0 then openStepMod m.key put n else lastStepMod m.key put n
      let n := if m.reqId = 0 then n else dupAdd (dupOf m.key entry none) n
      tryClose m.key n

/-- Steps above the checkpoint are still to come from the other holder after a restart (R173 step 4). -/
def rebuildOut (n : Node) (key : ShardKey) : Bool := n.awaits.any (fun a => match a.m with | .rebuildRead x => x.key = key | _ => false)

/-- A SUB_BATCH arrives (R21, R153, R168, R275, R276, R278, R283). No MSN is given while a rebuild's answer is outstanding (R156, R173;
log 171). -/
def subBatchIn (h : MsgHdr) (m : SubBatchMsg) (n : Node) : Node :=
  match shardFind n m.key, genFind n m.key.handle m.key.gen with
  | some s, some g =>
    if s.role ≠ 0 then
      match fwdFind n m.key false with
      | some f => forwardMsg h f.towards (.subBatch { m with forwarded := true }) n
      | none => sendMisroute h (primaryOf n m.key) n
    else if s.state = 3 then answerSub h.src.toNat h.tag.toNat [] false true m.forwarded n
    else
      let noPartner : Bool := match shardRole n.map m.key with | some r => (mirrorOf r).isEmpty | none => true
      let later := fun d => answerSub h.src.toNat h.tag.toNat (wholeWords m 5 d) false false m.forwarded n
      if !n.quorum ∨ noPartner then later 10000
      else if rebuildOut n m.key then let (x, n) := fresh n; answerSub h.src.toNat h.tag.toNat (wholeWords m 5 (x % 2 ^ 32)) false false m.forwarded n
      else match s.sealed with
        | some t =>
          if n.tick ≤ t + ticksMs 1 then { n with heldSubs := n.heldSubs ++ [{ h := h, m := m, at_ := n.tick }] }
          else later 1000
        | none => subBatchServe h m s g n
  | _, _ =>
    match fwdFind n m.key false with
    | some f => forwardMsg h f.towards (.subBatch { m with forwarded := true }) n
    | none => sendMisroute h (primaryOf n m.key) n

/-! ### The partner and further holders (R158 step 6, R164) -/

/-- Apply and commit the steps that wait at a holder, oldest first, while their entries find rows. An incoming holder keeps them until
it takes its role. -/
def waitLoop (key : ShardKey) : Nat → Node → Node
  | 0, n => n
  | k + 1, n =>
    match shardFind n key, genFind n key.handle key.gen with
    | some s, some g =>
      match s.waiting with
      | [] => n
      | m :: rest =>
        let done := fun (n : Node) => dupsCommitted m (shardMod key (fun s => commitShard m n.tick { s with waiting := rest }) n)
        if 3 ≤ s.role then n
        else if gReplicas g < 2 ∧ s.role = 1 then waitLoop key k (dupsCommitted m (shardMod key (fun s => { s with
            waiting := rest, committed := Nat.max s.committed m.lastMsn }) n))
        else
          let n := appendCheck key m.recs n
          match applyStep key g m.recs n with
          | some n => waitLoop key k (done n)
          | none => n
    | _, _ => n

def tryWaiting (key : ShardKey) (n : Node) : Node :=
  waitLoop key (match shardFind n key with | some s => s.waiting.length | none => 0) n

/-- A holder takes a step into its journal and applies it (R158 step 6, R162, R164). -/
def mirrorStep (m : StepRec) (n : Node) : Node :=
  let n := shardMod m.key (fun s => { s with
    journal := s.journal ++ [m], waiting := s.waiting ++ [m], lastMsn := Nat.max s.lastMsn m.lastMsn,
    idHigh := Nat.max s.idHigh (nmaxl ((m.recs.filter (fun r => r.kind ≠ 2)).map (fun r => r.lid + 1))),
    reuse := s.reuse.filter (fun x => !m.recs.any (fun r => r.kind ≠ 2 && r.lid = x.1)) }) n
  tryWaiting m.key (journalWrite m (m.reqs.foldl (fun n q => dupAdd (dupOf m.key q none) n) n))

/-- A step without the records that the holder has already. -/
def stepBeyond (last : Nat) (m : StepRec) : StepRec :=
  if m.lastMsn = 0 then m
  else { m with firstMsn := Nat.max m.firstMsn (last + 1), recs := m.recs.filter (fun r => decide (last < r.msn)) }

/-- A STEP arrives: from the primary of this node's map only (R275). A partner or incoming holder answers. A holder without any step takes
the first that comes; one that a step has passed by asks the primary for what it lacks, up to this step (R164, R169). -/
def stepIn (h : MsgHdr) (m : StepRec) (n : Node) : Node :=
  match shardFind n m.key, shardRole n.map m.key with
  | some s, some r =>
    if s.role = 0 ∨ !(r.primary.any (fun p => p.node = h.src)) then dropMsg 0x02 h n
    else
      let mirror := (mirrorOf r).contains n.nodeId || r.incoming = some n.nodeId
      let reply := fun n => if mirror then sendTag h.src.toNat h.tag.toNat (.stepAccept m.key m.lastMsn) n else n
      if m.lastMsn ≠ 0 ∧ m.lastMsn ≤ s.lastMsn then reply n
      else if m.lastMsn = 0 ∨ s.lastMsn = 0 ∨ m.firstMsn ≤ s.lastMsn + 1 then reply (mirrorStep (stepBeyond s.lastMsn m) n)
      else if rebuildOut n m.key then n
      else sendAwait h.src.toNat (.rebuildRead { key := m.key, firstMsn := s.lastMsn + 1, lastMsn := m.lastMsn, lids := [] }) n
  | _, _ => dropMsg 0x02 h n

/-- A mirror's acceptance (R158 step 7); said a second time for a step, it says that the step is in flash there
(log 18). -/
def stepAcceptIn (key : ShardKey) (last : Nat) (n : Node) : Node :=
  match shardFind n key with
  | none => n
  | some s =>
    if s.role ≠ 0 then n
    else
      let first := fun (p : PStep) => p.sent && !p.accepted && p.step.lastMsn = last
      let again := fun (p : PStep) => p.sent && p.accepted && !p.there && p.step.lastMsn = last
      match s.steps.find? first with
      | some p =>
        let n := stepMod key (lmodifyFirst first (fun p => { p with accepted := true })) n
        let reps := match shardRole n.map key with | some r => r.replicas | none => []
        let n := reps.foldl (fun n x => send x.node.toNat (.step p.step) n) n
        tryClose key (tryCommit key n)
      | none =>
        durableCheck key (shardMod key (fun s => { s with
          steps := lmodifyFirst again (fun p => { p with there := true }) s.steps,
          doneSteps := lmodifyFirst again (fun p => { p with there := true }) s.doneSteps }) n)

/-- A map that this council member accepted is in its flash: it answers (R272 step 4). -/
def mapInFlash (epoch : Nat) (n : Node) : Node :=
  let (done, rest) := n.council.writes.partition (fun w => w.1 = epoch)
  done.foldl (fun n w => sendTag w.2.2.1 w.2.2.2 (.accepted { epoch := epoch, ballot := w.2.1 }) n)
    { n with council := { n.council with writes := rest } }

/-- A step's journal units are all in flash at this node (R158 step 9). Index handle 0, which no index has, stands for
the maps that a council member writes. -/
def stepInFlash (key : ShardKey) (last : Nat) (n : Node) : Node :=
  if key.handle = 0 then mapInFlash last n
  else match shardFind n key with
  | none => n
  | some s =>
    if s.role = 0 then
      let mine := fun (p : PStep) => p.sent && !p.here && p.step.lastMsn = last
      durableCheck key (shardMod key (fun s => { s with
        steps := lmodifyFirst mine (fun p => { p with here := true }) s.steps,
        doneSteps := lmodifyFirst mine (fun p => { p with here := true }) s.doneSteps }) n)
    else
      match primaryOf n key, shardRole n.map key with
      | some p, some r => if (mirrorOf r).contains n.nodeId then send p.toNat (.stepAccept key last) n else n
      | _, _ => n

/-- Report a partner whose acceptance is overdue (R158, R274). -/
def suspectNode (node : BitVec 12) (cause : SuspectCause) (n : Node) : Node :=
  n.map.council.foldl (fun n c => send c.toNat (.suspect node cause) n) n

/-! ### Folding and repair (R46, R48, R166, R167) -/

/-- The place of an unfolded entry of the lowest MSN: row, entry. -/
def oldestUnfolded (n : Node) (s : Shard) : Option (Nat × DEnt) :=
  lleast (fun a b => decide (a.2.msn < b.2.msn)) (unfoldedEnts n s)

/-- FOLDED is set in the entry's row, in one row write (R53, R123), after the controller's read of the row (R100). -/
def setFolded (key : ShardKey) (g : IdxGen) (i : Nat) (lid : Nat) (n : Node) : Node :=
  match ctlRead key i n, shardFind n key with
  | (some row, n), some s =>
    let d := s.drows.getD i drowEmpty
    let es := (rowEnts row).map (fun e => if e.lid = lid then { e with folded := true } else e)
    writeDRow key (gM g) (physRow s i) i d.kind d.release es n
  | (_, n), _ => n

/-- Neighbours that a block may take: items that are linked, at most DEGREE, each once, none of them itself (R45, R48). -/
def okNbrs (g : IdxGen) (s : Shard) (lid : Nat) (l : List Nat) : List Nat :=
  ((l.filter (fun x => x ≠ lid && decide (x < s.idHigh) && blkLinked (adjGet s x))).foldl
    (fun acc x => if acc.contains x then acc else acc ++ [x]) []).take (gDegree g)

/-- The REPAIR bit of a level-0 block as its neighbours need it (R167). -/
def withRepair (s : Shard) (b : Nat) : Nat :=
  if (blkNbrs b).any (fun x => idmapDel (sget 0 s.idmap x) ≠ 0 && decide (idmapDel (sget 0 s.idmap x) ≤ s.committed)) then setRepairBit b
  else clearRepairBit b

/-- Put a neighbour into a block: a free slot, or, in a full block, a slot of the firmware's choice or none (R166). -/
def addNbr (g : IdxGen) (b lid : Nat) (n : Node) : Nat × Node :=
  let ns := blkNbrs b
  let put := fun (l : List Nat) => b % 2 ^ 100 + (b >>> 106 % 2 ^ 22) <<< 106 + l.length <<< 100 + slotBits l <<< 128
  if ns.contains lid then (b, n)
  else if ns.length < gDegree g then (put (ns ++ [lid]), n)
  else
    let (x, n) := fresh n
    let j := x % (ns.length + 1)
    (if j < ns.length then put (ns.set j lid) else b, n)

/-- Blocks that hold a level of an item. -/
def levelBlock (s : Shard) (lid l : Nat) : Option Nat :=
  if blkTop (adjGet s lid) < l then none else some (blkUpper (adjGet s lid) + l - 1)

/-- The blocks of the upper-level area, of capacity / 16, that an item of top level `k` takes; none where too few are free (R46): the
lowest run, which starts at block 0 or next to a block in use (DESIGN CHOICE, log 172). -/
def upperRoom (g : IdxGen) (s : Shard) (k : Nat) : Option Nat :=
  let cap := gCapacity g / 16
  let free := fun b => decide (b + k ≤ cap) && (List.range k).all (fun l => (sfind s.upper (b + l)).isNone)
  if cap < s.upper.length + k then none else (0 :: s.upper.map (fun e => e.1 + 1)).find? free

/-- Link an item at its levels, in the order of R48, its upper blocks from `up` on. `nbrs` are firmware's choices, level by level. -/
def linkItem (key : ShardKey) (g : IdxGen) (e : DEnt) (top up : Nat) (nbrs : List (List Nat)) (n : Node) : Node :=
  match shardFind n key with
  | none => n
  | some s =>
    let n := memWrite (codeAddr g s e.lid) (gM g / 2) n
    let n := memWrite (adjAddr s e.lid) 256 n
    let n := (List.range top).foldl (fun n l => memWrite (upperAddr s (up + l)) 256 n) n
    let at_ := fun l => (okNbrs g s e.lid (nbrs.getD l [])).filter (fun x => decide (l ≤ blkTop (adjGet s x)))
    let n := shardMod key (fun s => { s with
      code := sset 0 s.code e.lid e.code,
      adj := sset 0 s.adj e.lid (withRepair s (blk0Mk e.msn false true top up (at_ 0))),
      upper := (List.range top).foldl (fun u l => sset 0 u (up + l) (blkUpMk e.msn (l + 1) e.lid (at_ (l + 1)))) s.upper }) n
    (List.range (top + 1)).foldl (fun n l =>
      (at_ l).foldl (fun n x =>
        match shardFind n key with
        | none => n
        | some s =>
          if l = 0 then
            let (b, n) := addNbr g (adjGet s x) e.lid n
            memWrite (adjAddr s x) 256 (shardMod key (fun s => { s with adj := sset 0 s.adj x (withRepair s b) }) n)
          else
            match levelBlock s x l with
            | none => n
            | some k =>
              let (b, n) := addNbr g (upperGet s k) e.lid n
              memWrite (upperAddr s k) 256 (shardMod key (fun s => { s with upper := sset 0 s.upper k b }) n)) n) n

/-- A deleted entry item gives way to another live item at the highest level held, in one write of the entry pair; which
of several, the manual leaves open (R71, R167). -/
def renameEntry (key : ShardKey) (n : Node) : Node :=
  match shardFind n key with
  | none => n
  | some s =>
    let del := idmapDel (sget 0 s.idmap s.entryId)
    if s.entryId = lidNone ∨ del = 0 ∨ s.committed < del then n
    else
      let live := s.adj.filter (fun b => blkLinked b.2 && decide (idmapDel (sget 0 s.idmap b.1) = 0))
      let top := nmaxl (live.map (fun b => blkTop b.2))
      match (live.filter (fun b => blkTop b.2 = top)).map (·.1) with
      | [] => n
      | x :: l =>
        let (e, n) := pick x (x :: l) n
        shardMod key (fun s => { s with entryId := e, entryLvl := top }) n

/-- Fold the oldest unfolded entry at or below COMMITTED_MSN, once its folding walk has ended, among the items that the walk found (R166).
A block needed from a flash-homed page starts its promotion instead (R221). -/
def foldEntry (key : ShardKey) (topLevel : Nat) (nbrs : List (List Nat)) (n : Node) : Node :=
  let n := ctlReads key (fun _ => true) n
  match shardFind n key, genFind n key.handle key.gen with
  | some s, some g =>
    match oldestUnfolded n s with
    | none => renameEntry key n
    | some (i, e) =>
      if s.committed < e.msn then renameEntry key n
      else
        let finish := fun (n : Node) =>
          let n := shardMod key (fun s => { s with
            folded := s.folded + 1, ages := s.ages.filter (fun a => a.1 ≠ e.msn), foldWalks := s.foldWalks.filter (fun w => w.1 ≠ e.msn) }) n
          let n : Node := { n with sched := { n.sched with folds := n.sched.folds.filter (fun t => n.tick < t + ticksS 1) ++ [n.tick] } }
          compactDue key (physUnit (physRow s i)) (renameEntry key n)
        if idmapDel (sget 0 s.idmap e.lid) ≠ 0 then finish (setFolded key g i e.lid n)
        else match s.foldWalks.find? (fun w => w.1 = e.msn) with
        | none => n
        | some w =>
          let nbrs := nbrs.map (fun l => l.filter w.2.contains)
          let cold := (adjAddr s e.lid :: (okNbrs g s e.lid (nbrs.getD 0 [])).map (adjAddr s)).filter (inFlash n)
          match cold with
          | a :: _ => tierFault (tpage a) (2 ^ 20) n
          | [] =>
            let t := Nat.min 7 topLevel
            let room := if t = 0 then some 0 else upperRoom g s t
            let top := if room.isSome then t else 0
            let n := linkItem key g e top (if top = 0 then 0 else room.getD 0) nbrs n
            let n := setFolded key g i e.lid n
            let n := shardMod key (fun s => { s with
              level0 := s.level0 + b2n room.isNone,
              entryId := if s.entryId = lidNone ∨ s.entryLvl < top then e.lid else s.entryId,
              entryLvl := if s.entryId = lidNone ∨ s.entryLvl < top then top else s.entryLvl }) n
            finish n
  | _, _ => n

/-- A block with its neighbours replaced. -/
def blkWith (b : Nat) (l : List Nat) : Nat := b % 2 ^ 100 + (b >>> 106 % 2 ^ 22) <<< 106 + l.length <<< 100 + slotBits l <<< 128

/-- The repaired block: the slot takes a neighbour of the deleted item that the block does not name, which of them
being firmware's choice, or is removed by the last used slot (R167). -/
def repairBlk (b owner deleted : Nat) (nbs : List Nat) (n : Node) : Nat × Node :=
  let ns := blkNbrs b
  match ns.findIdx? (fun x => x = deleted) with
  | none => (b, n)
  | some j =>
    match nbs.filter (fun x => x ≠ owner && x ≠ deleted && !ns.contains x) with
    | x :: xs =>
      let (y, n) := pick x (x :: xs) n
      (blkWith b (ns.set j y), n)
    | [] =>
      let last := ns.getLast?.getD 0
      (blkWith b ((ns.set j last).dropLast), n)

/-- EDGE_REPAIR of one block: a level-0 block by its local id, an upper-level block b as 2^34 + b. -/
def edgeRepair (key : ShardKey) (block deleted : Nat) (n : Node) : Node :=
  match shardFind n key with
  | none => n
  | some s =>
    if idmapDel (sget 0 s.idmap deleted) = 0 ∨ s.committed < idmapDel (sget 0 s.idmap deleted) then n
    else
      let isUp := decide (2 ^ 34 ≤ block)
      let b := if isUp then upperGet s (block - 2 ^ 34) else adjGet s block
      if !(blkNbrs b).contains deleted then n
      else
        let lvl := if isUp then blkTop b else 0
        let owner := if isUp then blkOwner b else block
        let nbs := if isUp then (match levelBlock s deleted lvl with | some k => blkNbrs (upperGet s k) | none => [])
          else blkNbrs (adjGet s deleted)
        let (b, n) := repairBlk b owner deleted nbs n
        let b := if isUp then b else withRepair s b
        let n := memWrite (if isUp then upperAddr s (block - 2 ^ 34) else adjAddr s block) 256 n
        shardMod key (fun s =>
          let s := if isUp then { s with upper := sset 0 s.upper (block - 2 ^ 34) b } else { s with adj := sset 0 s.adj block b }
          { s with repaired := s.repaired + 1 }) n

/-- The sweep sets REPAIR in the next `count` blocks that name an item deleted at or below COMMITTED_MSN (R167). -/
def repairSweep (key : ShardKey) (count : Nat) (n : Node) : Node :=
  shardMod key (fun s =>
    let inWin := fun i => decide (s.sweepAt ≤ i) && decide (i < s.sweepAt + count)
    { s with
      adj := s.adj.map (fun b =>
        if inWin b.1 && (blkNbrs b.2).any (fun x =>
            idmapDel (sget 0 s.idmap x) ≠ 0 && idmapDel (sget 0 s.idmap x) ≤ s.committed) then (b.1, setRepairBit b.2) else b),
      sweepAt := if s.idHigh ≤ s.sweepAt + count then 0 else s.sweepAt + count }) n

/-! ### The response (R159, R161) -/

/-- The MUTATE response: words in record order. -/
def mutateAnswer (r : Req) (n : Node) : Node :=
  let ws := r.words.map (·.2)
  let bad := ws.filter (fun w => wordStatus w ≠ 0)
  let status := match bad with | w :: _ => wordStatus w | [] => 0
  let applied := (ws.filter (fun w => wordStatus w = 0 && wordMsn w ≠ 0)).length
  let cls := applied * 2 ^ 16 + bad.length + b2n r.duplicate <<< 32
  let err := match bad with
    | w :: _ => if wordStatus w = 1 ∨ wordStatus w = 4 ∨ wordStatus w = 5 then wordMsn w % 2 ^ 32 else 0
    | [] => 0
  finish r (recsBlob ws) { boundResp r with k := 0, status := status, count := ws.length, err := err, cls := cls } n

/-- Set the words of a sub-batch's records, by their descriptor offset. -/
def setWords (recs : List MutRec) (ws : List (BitVec 128)) (m : Sparse (BitVec 128)) : Sparse (BitVec 128) :=
  (recs.zip ws).foldl (fun m x => sins m x.1.off x.2) m

/-- Every sub-batch is answered: the response leaves. -/
def mutateCheck (id : Nat) (n : Node) : Node :=
  match reqFind n id with
  | some r => if r.subs.all (fun s => s.state ≠ 0) then mutateAnswer r n else n
  | none => n

/-- The request and sub that a tag answers (R285). -/
def tagOwner (n : Node) (tag : Nat) : Option (Req × Sub) :=
  (n.reqs.filterMap (fun r => (r.subs.find? (fun s => s.tag = tag && s.sent && s.state = 0)).map (fun s => (r, s)))).head?

def subsMod (id tag : Nat) (f : Sub → Sub) (n : Node) : Node :=
  reqMod id (fun r => { r with subs := lmodify (fun s => s.tag = tag) f r.subs }) n

/-- The sub-batch holds back later ones of its queue pair and shard: it met MISROUTE and is not answered yet (R153). -/
def holdsBack (s : Sub) : Bool := s.state = 0 && (s.rerouted || s.parked)

/-- Sub-batches of a queue pair and shard that wait go out in their order, up to one that holds the others back (R153). -/
def releaseFrom : List (Nat × Sub) → Node → Node
  | [], n => n
  | (id, s) :: l, n =>
    if holdsBack s then n
    else if s.sent then releaseFrom l n
    else releaseFrom l (subsMod id s.tag (fun s => { s with sent := true, sentAt := n.tick }) (sendTag s.dst s.tag s.msg n))

def releaseBehind (qp shard handle : Nat) (n : Node) : Node :=
  releaseFrom ((n.reqs.filter (fun r => r.qp = qp && r.op = 2 && r.handle = handle)).flatMap (fun r =>
    (r.subs.filter (fun s => s.shard = shard && s.state = 0)).map (fun s => (r.id, s)))) n

/-- The sub is answered with these words. -/
def subAnswered (r : Req) (s : Sub) (ws : List (BitVec 128)) (dup fwd : Bool) (energy : Nat) (n : Node) : Node :=
  match s.msg with
  | .subBatch m =>
    let n := subsMod r.id s.tag (fun s => { s with state := 1 }) n
    let n := reqMod r.id (fun r => { r with
      words := setWords m.records ws r.words, duplicate := r.duplicate || dup, rerouted := r.rerouted || fwd,
      energy := r.energy + energy }) n
    mutateCheck r.id (releaseBehind r.qp s.shard r.handle n)
  | _ => n

/-- A sub-batch goes to another node under the same request, once (R153). -/
def resendSub (r : Req) (s : Sub) (dst : BitVec 12) (msg : Msg) (n : Node) : Node :=
  let tag := n.nextTag
  let n := { n with nextTag := (n.nextTag + 1) % 2 ^ 32 }
  let n := frtCnt 0x118 (sendTag dst.toNat tag msg n)
  reqMod r.id (fun r => { r with
    rerouted := true,
    subs := lmodify (fun x => x.tag = s.tag) (fun x => { x with
      tag := tag, olds := x.tag :: x.olds, dst := dst.toNat, msg := msg, rerouted := true, parked := false, sentAt := n.tick }) r.subs }) n

/-- The generation's re-binding of a sub-batch that met a DRAINING shard (R168 step 4): its records go to the shards of
the current generation that hold their keys. -/
def rebindSub (r : Req) (s : Sub) (m : SubBatchMsg) (n : Node) : Node :=
  match currentGen n.map m.key.handle with
  | none => subAnswered r s (wholeWords m 4 n.map.epoch) false false 0 n
  | some g2 =>
    match genFind n m.key.handle g2 with
    | none => subAnswered r s (wholeWords m 4 n.map.epoch) false false 0 n
    | some g =>
      let n := reqMod r.id (fun r => { r with gen := g2, subs := r.subs.filter (fun x => x.tag ≠ s.tag) }) n
      let shards := (m.records.map (fun x => shardOf (bnum x.body 0 8) (gShards g))).foldl (fun acc i => ninsert i acc) []
      let n := shards.foldl (fun n i =>
        let key : ShardKey := { handle := m.key.handle, gen := g2, shard := i }
        let m2 := { m with key := key, records := m.records.filter (fun x => shardOf (bnum x.body 0 8) (gShards g) = i) }
        match primaryOf n key with
        | none =>
          reqMod r.id (fun r => { r with words := setWords m2.records (wholeWords m2 5 10000) r.words }) n
        | some p =>
          let (tag, n) := sendNew p.toNat (.subBatch m2) n
          reqMod r.id (fun r => { r with rerouted := true, subs := r.subs ++ [{
            tag := tag, olds := [], dst := p.toNat, shard := i, msg := .subBatch m2, rerouted := s.rerouted, rerun := true, parked := false,
            sent := true, sentAt := n.tick, state := 0 }] }) n) n
      mutateCheck r.id n

/-- A SUB_BATCH_ANSWER arrives (R161, R168, R285). -/
def subAnswerIn (h : MsgHdr) (m : SubBatchAnswerMsg) (n : Node) : Node :=
  match tagOwner n h.tag.toNat with
  | none => n
  | some (r, s) =>
    match s.msg with
    | .subBatch b =>
      if m.draining then
        (if s.rerun then subAnswered r s (wholeWords b 4 h.epoch.toNat) false false 0 n else rebindSub r s b n)
      else subAnswered r s m.words m.duplicate m.forwarded m.energy n
    | _ => n

/-- Every unanswered sub-batch of a request answers one status. -/
def failSubs (id : Nat) (p : Sub → Bool) (status : Nat) (n : Node) : Node :=
  match reqFind n id with
  | none => n
  | some r =>
    (r.subs.filter (fun s => s.state = 0 && p s)).foldl (fun n s =>
      match reqFind n id with
      | none => n
      | some r => match s.msg with
        | .subBatch m => subAnswered r s (wholeWords m status 0) false false 0 n
        | _ => n) n

/-! ### A new generation's primaries (R168) -/

/-- A forwarded record that finds no local id waits, and those after it (R168). -/
def forwardOne (key : ShardKey) (r : JRec) (n : Node) : Option Node :=
  match shardFind n key, genFind n key.handle key.gen with
  | some s, some g =>
    let live := liveOf s r.ckey
    let msn := s.lastMsn + 1
    if r.kind = 2 then
      match live with
      | none => some n
      | some lid => some (placeRec key { r with msn := msn, lid := lid, oldId := lidNone } (shardMod key (fun s => { s with lastMsn := msn }) n))
    else
      match freeLids n g s with
      | [] => none
      | l0 :: ls =>
        let (lid, n) := pick l0 (l0 :: ls) n
        let n := shardMod key (fun s => { s with
          lastMsn := msn, idHigh := Nat.max s.idHigh (lid + 1), reuse := s.reuse.filter (fun x => x.1 ≠ lid) }) n
        some (placeRec key { r with
          msn := msn, lid := lid, oldId := live.getD lidNone, kind := if live.isSome then 3 else r.kind } n)
  | _, _ => some n

/-- Forwarded records that waited are placed in their order. -/
def forwardLoop (key : ShardKey) : Nat → Node → Node
  | 0, n => n
  | k + 1, n =>
    match (shardFind n key).bind (fun s => s.fwdQ.head?) with
    | none => n
    | some r =>
      match forwardOne key r n with
      | none => n
      | some n => forwardLoop key k (shardMod key (fun s => { s with fwdQ := s.fwdQ.drop 1 }) n)

def forwardDrain (key : ShardKey) (n : Node) : Node :=
  forwardLoop key (match shardFind n key with | some s => s.fwdQ.length | none => 0) n

/-- A record of the previous generation is applied here as a mutation of its own, after the ones that wait. -/
def forwardRec (key : ShardKey) (r : JRec) (n : Node) : Node :=
  forwardDrain key (shardMod key (fun s => { s with fwdQ := s.fwdQ ++ [r] }) n)

/-- A STEP_FORWARD arrives: at a primary of the new generation its records are applied in MSN order and its duplicate
entries honoured; at an incoming holder it is mirrored (R168, R278). -/
def stepForwardIn (m : StepRec) (n : Node) : Node :=
  match shardFind n m.key with
  | none => n
  | some s =>
    if s.role = 0 then
      let n := shardMod m.key (fun s => { s with fwdKeys := m.recs.foldl (fun l r => ninsert r.ckey l) s.fwdKeys }) n
      let n := m.recs.foldl (fun n r => forwardRec m.key r n) n
      let n := m.reqs.foldl (fun n q => dupAdd (dupOf m.key q (some n.tick)) n) n
      if m.recs.isEmpty then n else tryClose m.key n
    else if m.lastMsn ≠ 0 ∧ m.lastMsn ≤ s.lastMsn then n
    else mirrorStep (stepBeyond s.lastMsn m) n

/-- FILL: an item whose key a forwarded record names is older than that record, and is not written. -/
def fillIn (m : FillMsg) (n : Node) : Node :=
  let n := m.recs.foldl (fun n r =>
    match shardFind n m.key with
    | some s => if s.fwdKeys.contains r.ckey ∨ (liveOf s r.ckey).isSome ∨ s.role ≠ 0 then n else forwardRec m.key r n
    | none => n) n
  tryClose m.key n

/-- Forwarded records that waited for a local id go on, and their step closes where it may (R157, R168). -/
def forwardGo (key : ShardKey) (n : Node) : Node :=
  if (shardFind n key).any (fun s => !s.fwdQ.isEmpty) then tryClose key (forwardDrain key n) else n

/-- DRAINING: the primary closes its open step, forwards it, and carries its duplicate entries over (R168 steps 3, 5). -/
def genDrain (key : ShardKey) (n : Node) : Node :=
  match shardFind n key with
  | none => n
  | some s =>
    if s.state = 3 then n
    else
      let n := if s.role = 0 then closeStep key n else n
      let n := shardMod key (fun s => { s with state := 3 }) n
      if s.role ≠ 0 then n
      else match genFind n key.handle (nextGen key.gen) with
        | none => n
        | some g2 =>
          let reqs := (n.dups.filter (fun d => d.key = key)).map (fun d =>
            ({ tid := d.tid, reqId := d.reqId, crc := d.crc, firstMsn := 0, count := d.words.length, words := d.words } : ReqEntry))
          if reqs.isEmpty then n
          else (List.range (gShards g2)).foldl (fun n i =>
            let k2 : ShardKey := { handle := key.handle, gen := g2.gen, shard := i }
            match primaryOf n k2 with
            | some p => send p.toNat (.stepForward { key := k2, firstMsn := 0, lastMsn := 0, recs := [], reqs := reqs }) n
            | none => n) n

/-! ### The commands -/

def execSubBatch (h : MsgHdr) (m : SubBatchMsg) (s : State) : Host.Outcome State Fault Refusal :=
  run s (fabricIn h (.subBatch m) (subBatchIn h m))

/-- 500 µs after its first record the open step closes (R157). -/
def execCommitStepTimer (key : ShardKey) (s : State) : Host.Outcome State Fault Refusal :=
  run s (fun n => match shardFind n key with
    | some sh => (match sh.steps.find? (fun p => !p.closed) with
      | some p => closeStep key (reach (p.opened + ticksUs 500) n)
      | none => n)
    | none => n)

/-- The writes of the oldest journaled step complete (R158 step 5); they hold while its inserts are being encoded, and while the
APPEND row is under rebuild. -/
def execPrimaryWritesComplete (key : ShardKey) (s : State) : Host.Outcome State Fault Refusal :=
  run s (fun n =>
    match shardFind n key, genFind n key.handle key.gen with
    | some sh, some g =>
      match sh.steps.find? (fun p => p.sent && !p.written) with
      | none => n
      | some p =>
        if encoding n key then n
        else
          let n := appendCheck key p.step.recs n
          match applyStep key g p.step.recs n with
          | none => n
          | some n => forwardGo key (tryCommit key (stepMod key (lmodifyFirst (fun p => p.sent && !p.written) (fun p => { p with written := true })) n))
    | _, _ => n)

def execStep (h : MsgHdr) (m : StepRec) (s : State) : Host.Outcome State Fault Refusal :=
  run s (fabricIn h (.step m) (stepIn h m))

def execStepAccept (h : MsgHdr) (key : ShardKey) (lastMsn : Nat) (s : State) : Host.Outcome State Fault Refusal :=
  run s (fabricIn h (.stepAccept key lastMsn) (fun n => forwardGo key (stepAcceptIn key lastMsn n)))

/-- No acceptance within 50 µs after step 4: the mirror is reported (R158, R274). -/
def execPartnerAcceptTimeout (key : ShardKey) (s : State) : Host.Outcome State Fault Refusal :=
  run s (fun n =>
    match shardFind n key, shardRole n.map key with
    | some sh, some r =>
      match sh.steps.find? (fun p => p.sent && !p.accepted) with
      | some p => (mirrorOf r).foldl (fun n d => suspectNode d .stepTimeout n) (reach (p.sentAt + ticksUs 50) n)
      | none => n
    | _, _ => n)

/-- 100 ms after admission (R159). -/
def execMutateResponseTimeout (req : Nat) (s : State) : Host.Outcome State Fault Refusal :=
  run s (fun n => match reqFind n req with
    | some r => if r.op = 2 then failSubs req (fun _ => true) 6 (reach (r.arrive + ticksMs 100) n) else n
    | none => n)

def execSubBatchAnswer (h : MsgHdr) (m : SubBatchAnswerMsg) (s : State) : Host.Outcome State Fault Refusal :=
  run s (fabricIn h (.subBatchAnswer m) (subAnswerIn h m))

/-- IDX_DEDUP_S of an index (R162). -/
def dedupTicks (n : Node) (handle : Nat) : Nat := ticksS (sget 30 n.idxDedup handle)

/-- A duplicate entry's IDX_DEDUP_S has passed (R162). -/
def dupOver (n : Node) (d : DupEnt) : Bool := d.at_.any (fun t => decide (t + dedupTicks n d.key.handle ≤ n.tick))

def execDedupEntryExpiry (key : ShardKey) (tid : Nat) (reqId : Nat) (s : State) : Host.Outcome State Fault Refusal :=
  run s (fun n =>
    let mine := fun (d : DupEnt) => d.key = key && d.tid = tid && d.reqId = reqId
    match (n.dups.find? (fun d => mine d && d.at_.isSome)).bind (·.at_) with
    | some t =>
      let n := reach (t + dedupTicks n key.handle) n
      { n with dups := n.dups.filter (fun d => !(mine d && dupOver n d)) }
    | none => n)

def execFoldEntry (key : ShardKey) (topLevel : Nat) (nbrs : List (List Nat)) (s : State) : Host.Outcome State Fault Refusal :=
  run s (fun n => forwardGo key (foldEntry key topLevel nbrs n))

def execEdgeRepair (key : ShardKey) (block : Nat) (deleted : Nat) (s : State) : Host.Outcome State Fault Refusal :=
  run s (fun n => forwardGo key (edgeRepair key block deleted n))

def execRepairSweep (key : ShardKey) (count : Nat) (s : State) : Host.Outcome State Fault Refusal :=
  run s (repairSweep key count)

def execStepForward (h : MsgHdr) (m : StepRec) (s : State) : Host.Outcome State Fault Refusal :=
  run s (fabricIn h (.stepForward m) (stepForwardIn m))

def execFill (h : MsgHdr) (m : FillMsg) (s : State) : Host.Outcome State Fault Refusal :=
  run s (fabricIn h (.fill m) (fillIn m))

/-- Superseded rows become EMPTY, and the steps that waited for a free row go on (R124, R164). -/
def execCompactedRowRelease (key : ShardKey) (s : State) : Host.Outcome State Fault Refusal :=
  run s (fun n => forwardGo key (tryWaiting key (releaseRows key n)))

end Sys2Proof.Machine
end

