-- ==== Sys2Proof/Machine/Embed.lean ====
section
/-!
DEFINITION. Sys2Proof/Machine/Embed.lean: embedding tables (R197-R213): row homes, the LOOKUP request, pooling, row order
and updates, load and migration.
-/
namespace Sys2Proof.Machine

/-! ### Table generations (R197-R199) -/

def tabFind (n : Node) (h g : Nat) : Option TabSt := n.tabs.find? (fun t => t.handle = h && t.gen = g)

def tabMod (h g : Nat) (f : TabSt → TabSt) (n : Node) : Node :=
  { n with tabs := lmodify (fun t => t.handle = h && t.gen = g) f n.tabs }

def tFmt (t : TabSt) : Nat := bnum t.desc 5 1
def tDimm (t : TabSt) : Bool := nbit (bword t.desc 4) 0
def tRows (t : TabSt) : Nat := bnum t.desc 8 8
def tWidth (t : TabSt) : Nat := bnum t.desc 0x12 2
def tShards (t : TabSt) : Nat := bnum t.desc 0x10 2
def tMigrate (t : TabSt) : Nat := bnum t.desc 0x17 1
def tWindow (t : TabSt) : Nat := bnum t.desc 0x14 2
def tSlots (t : TabSt) : Nat := bword t.desc 0x18
/-- Bytes of a row record (R198). -/
def tRowBytes (t : TabSt) : Nat := fullSize (tFmt t) (tWidth t)
def tShardOf (t : TabSt) (row : Nat) : Nat := shardOf row (tShards t)
def rowAddr (t : TabSt) (row : Nat) : Nat := t.base + row * tRowBytes t

def tRole (n : Node) (t : TabSt) (shard : Nat) : Option TableRole :=
  n.map.tables.find? (fun r => r.key = { handle := t.handle, gen := t.gen, shard := shard })

/-- The default home of a row (R199). -/
def defaultHome (n : Node) (t : TabSt) (row : Nat) : Option (BitVec 12) :=
  ((tRole n t (tShardOf t row)).bind (fun r => r.home)).map (·.node)

def rowPartner (n : Node) (t : TabSt) (row : Nat) : Option (BitVec 12) :=
  ((tRole n t (tShardOf t row)).bind (fun r => r.partner)).map (·.node)

/-- This node is the row's home. -/
def isHome (n : Node) (t : TabSt) (row : Nat) : Bool :=
  t.here.contains row ||
  (defaultHome n t row = some n.nodeId && !(t.away.any (fun o => o.row = row)) && sget 0 t.redirect row = 0)

def trowZero : TRow := { record := 0, rseq := 0 }
def rowGet (t : TabSt) (row : Nat) : TRow := sget trowZero t.rows row

/-- A row as FP32 values, each with whether it was held at the FP32 range's end: only an INT8 row's product with its SCALE can be
(R203). -/
def rowElems (t : TabSt) (row : Nat) : List (F32 × Bool) := fullElems (tFmt t) (tWidth t) (rowGet t row).record
def rowVals (t : TabSt) (row : Nat) : List F32 := (rowElems t row).map (·.1)
def rowSat (t : TabSt) (row : Nat) : Bool := (rowElems t row).any (·.2)

/-- -0 is stored as +0. -/
def posZero (x : F32) : F32 := if f32Zero x then 0 else x

/-- A row record of FP32 values; an element beyond the format's largest value is held there (R205). -/
def encodeRow (fmt : Nat) (v : List F32) : Nat × Bool :=
  let v := v.map posZero
  if fmt = 1 ∨ fmt = 2 then
    let f := if fmt = 1 then fmtF16 else fmtBF16
    v.foldr (fun x acc =>
      let r := fmtSat f (f32Dy x)
      (r.1 + (if f32Neg x then 2 ^ 15 else 0) + acc.1 <<< 16, acc.2 || r.2)) (0, false)
  else (fullRecord fmt v, false)

/-! ### The admitting node: destinations (R203, R206, R209) -/

def routeOf (n : Node) (h row : Nat) : Option Nat :=
  (n.routes.find? (fun x => x.1 = h && x.2.1 = row)).map (fun x => x.2.2)

def routeDrop (h row : Nat) (n : Node) : Node :=
  { n with routes := n.routes.filter (fun x => !(x.1 = h && x.2.1 = row)) }

/-- A route hint enters the cache of 1,048,576 entries as the most recently used. -/
def routeAdd (h row node : Nat) (n : Node) : Node :=
  let n := routeDrop h row n
  { n with routes := lpushMax 1048576 n.routes (h, row, node) }

/-- A hint that is used becomes the most recently used. -/
def routeUse (h row : Nat) (n : Node) : Node :=
  match routeOf n h row with | some d => routeAdd h row d n | none => n

/-- The rows that an outstanding operation names. -/
def subRows (s : Sub) : List Nat :=
  match s.msg with
  | .subBag m => m.items.map (·.row)
  | .rowOp m => [m.row]
  | _ => []

/-- Outstanding operations of a queue pair on a row of a table. -/
def rowOuts (n : Node) (qp h row : Nat) : List Sub :=
  n.reqs.flatMap (fun r => if r.qp = qp && r.tabHandle = h then
    r.subs.filter (fun s => s.state = 0 && (subRows s).contains row) else [])

/-- Where an operation on a row goes, and whether it waits for earlier ones that are being re-routed (R206). -/
def rowDest (qp : Nat) (t : TabSt) (row : Nat) (n : Node) : Option Nat × Bool :=
  let outs := rowOuts n qp t.handle row
  match outs.getLast? with
  | some s => (some s.dst, outs.any (fun o => o.dst ≠ s.dst || o.rerouted || !o.sent))
  | none =>
    match routeOf n t.handle row with
    | some d => (some d, false)
    | none => ((defaultHome n t row).map (·.toNat), false)

def newSub (tag dst shard : Nat) (m : Msg) (rerouted sent : Bool) (tick : Nat) : Sub :=
  { tag := tag, olds := [], dst := dst, shard := shard, msg := m, rerouted := rerouted, rerun := false, parked := false, sent := sent,
    sentAt := tick, state := 0 }

/-- Add an operation to a request, sent at once or held. -/
def subAdd (id dst shard : Nat) (m : Msg) (rerouted held : Bool) (n : Node) : Node :=
  let tag := n.nextTag
  let n := { n with nextTag := (n.nextTag + 1) % 2 ^ 32 }
  let n := reqMod id (fun r => { r with subs := r.subs ++ [newSub tag dst shard m rerouted (!held) n.tick] }) n
  if held then n else sendTag dst tag m n

/-- The request that pools or updates ends with a status alone. -/
def lookupFail (id status detail : Nat) (n : Node) : Node :=
  match reqFind n id with
  | none => n
  | some r => finish r bempty { boundResp r with status := status, err := detail } n

/-- One sub-bag to each destination (R203). -/
def bagSend (id : Nat) (t : TabSt) (mean : Bool) (items : List BagItem) (toDefault : Bool) (n : Node) : Node :=
  match reqFind n id with
  | none => n
  | some r =>
    let ds := items.map (fun it =>
      if toDefault then (it, ((defaultHome n t it.row).map (·.toNat), false)) else (it, rowDest r.qp t it.row n))
    if ds.any (fun x => x.2.1.isNone) then lookupFail id 6 0 n
    else
      let dsts := ds.foldl (fun acc x => let d := x.2.1.getD 0; if acc.contains d then acc else acc ++ [d]) []
      let n := items.foldl (fun n it => routeUse t.handle it.row n) n
      dsts.foldl (fun n d =>
        let mine := ds.filter (fun x => x.2.1 = some d)
        subAdd id d 0 (.subBag {
          handle := t.handle, gen := t.gen, mean := mean, width := tWidth t, items := mine.map (·.1), forwarded := false })
          toDefault (mine.any (fun x => x.2.2)) n) n

/-! ### Bags of a request (R16, R200-R203) -/

/-- Row ids of the bags of a LOOKUP or of a QUERY of payload kind 1 or 3. -/
def reqBags (r : Req) : List (List Nat) :=
  if r.op = 1 then
    [(List.range (bnum r.d 0x2C 2)).map (fun i => bnum r.d (bnum r.d 0x2E 2 + 8 * i) 8)]
  else
    let off := bnum r.d 0x2A 2
    let bo := bnum r.d 0x28 2
    let counts := (List.range (bnum r.d 5 1)).map (fun b => bnum r.d (bo + 2 * b) 2)
    (counts.foldl (fun (acc : List (List Nat) × Nat) c =>
      (acc.1 ++ [(List.range c).map (fun i => bnum r.d (off + 8 * (acc.2 + i)) 8)], acc.2 + c)) ([], 0)).1

def reqMean (r : Req) : Bool := if r.op = 1 then bnum r.d 0x32 1 = 1 else bnum r.d 4 1 = 1

def bagItems (bags : List (List Nat)) : List BagItem :=
  (bags.mapIdx (fun b rows => rows.mapIdx (fun p row => ({ row := row, bag := b, pos := p, fseq := 0 } : BagItem)))).flatten

/-- Add vectors element by element, counting saturations. -/
def vecAdd : List F32 → List F32 → Nat → List F32 × Nat
  | x :: xs, y :: ys, k =>
    let s := addC x y k
    let r := vecAdd xs ys s.2
    (s.1 :: r.1, r.2)
  | xs, [], k => (xs, k)
  | [], ys, k => (ys, k)

def vecSum (width : Nat) (vs : List (List F32)) : List F32 × Nat :=
  match vs with
  | [] => (List.replicate width 0, 0)
  | v :: l => l.foldl (fun acc w => vecAdd acc.1 w acc.2) (v, 0)

/-- The pooled vector of a bag from its partials (R203), and whether an element saturated. -/
def bagVec (width count : Nat) (mean : Bool) (ps : List PPart) : List F32 × Bool :=
  let ps := lsort (fun a b => decide (a.pos < b.pos)) ps
  let s := vecSum width (ps.map (·.elems))
  let v := if mean && 0 < count then s.1.map (fun x => f32Div x (f32OfNat count)) else s.1
  (v.map posZero, decide (0 < s.2) || ps.any (·.sat))

def f32Blob (v : List F32) : Blob := { len := 4 * v.length, bits := v.foldr (fun x acc => x.toNat + acc <<< 32) 0 }

/-- CLASS_WORDS of a LOOKUP response (R202), as the 24 bytes from 0x28. -/
def lookupWords (rows sats : Nat) : Nat := sats % 65536 + rows % 65536 * 65536

/-- Start an encoder on its input (R189); a request whose encoder is gone fails. -/
def encoderStart (id : Nat) (input : Ten) (t : Nat) (n : Node) : Node :=
  match reqFind n id with
  | none => n
  | some r =>
    match n.encoders.find? (fun e => e.handle = bword r.d 0x34 && e.gen = r.auxGen) with
    | none => lookupFail id 6 0 n
    | some e =>
      let (p, n) := progStart (encoderProg e input t id r.deadline) n
      reqMod id (fun r => { r with prog := some p }) n

/-- Every row of every bag is in: the response leaves, or the query vector is ready, or its encoder starts (R202, R213). -/
def bagCheck (id : Nat) (n : Node) : Node :=
  match reqFind n id with
  | none => n
  | some r =>
    match tabFind n r.tabHandle r.tabGen with
    | none => n
    | some t =>
      let bags := reqBags r
      let full := (bags.mapIdx (fun b rows => decide <|
        nsum ((r.pooled.filter (fun p => p.bag = b)).map (·.rows)) = rows.length)).all (fun b => b)
      if !full then n
      else
        let vs := bags.mapIdx (fun b rows => bagVec (tWidth t) rows.length (reqMean r) (r.pooled.filter (fun p => p.bag = b)))
        if r.op = 1 then
          let v := match vs with | x :: _ => x.1 | [] => []
          if bnum r.d 2 1 % 16 = 1 then reqMod id (fun r => { r with vec := some v }) n
          else encoderStart id { fmt := 0, dims := [tWidth t], vals := v.map (·.toNat) } 1 n
        else
          let sats := (vs.filter (·.2)).length
          finish r (bconcat (vs.map (fun x => f32Blob x.1)))
            { boundResp r with count := bags.length, cls := lookupWords (bnum r.d 6 2) sats } n

/-- Send the bags of a request; with no row at all its vectors are ready at once. -/
def poolStart (id : Nat) (n : Node) : Node :=
  match reqFind n id with
  | none => n
  | some r =>
    match tabFind n r.tabHandle r.tabGen with
    | none => lookupFail id 6 0 n
    | some t =>
      let items := bagItems (reqBags r)
      if items.isEmpty then bagCheck id n else bagSend id t (reqMean r) items false n

/-- Operations of the queue pair that waited behind this one go out in order (R206). -/
def rowRelease (qp h : Nat) (n : Node) : Node :=
  let held := n.reqs.flatMap (fun r => if r.qp = qp && r.tabHandle = h then
    (r.subs.filter (fun s => s.state = 0 && !s.sent)).map (fun s => (r.id, s)) else [])
  held.foldl (fun n x =>
    let earlier := fun row => (rowOuts n qp h row).takeWhile (fun o => o.tag ≠ x.2.tag)
    if (subRows x.2).any (fun row => !(earlier row).isEmpty) then n
    else
      match x.2.msg with
      | .subBag m =>
        match tabFind n m.handle m.gen with
        | none => n
        | some t =>
          let n := reqMod x.1 (fun r => { r with subs := r.subs.filter (fun s => s.tag ≠ x.2.tag) }) n
          bagSend x.1 t m.mean m.items x.2.rerouted n
      | .rowOp m =>
        match tabFind n m.handle m.gen with
        | none => n
        | some t =>
          let d := match (if x.2.rerouted then none else routeOf n h m.row) with
            | some d => d
            | none => ((defaultHome n t m.row).map (·.toNat)).getD x.2.dst
          subsMod x.1 x.2.tag (fun s => { s with sent := true, sentAt := n.tick, dst := d }) (sendTag d x.2.tag x.2.msg n)
      | _ => n) n

/-- A POOLED partial arrives (R203, R204, R209, R285). -/
def pooledIn (h : MsgHdr) (m : PooledMsg) (n : Node) : Node :=
  match tagOwner n h.tag.toNat with
  | none => n
  | some (r, s) =>
    match s.msg with
    | .subBag b =>
      if m.status ≠ 0 then rowRelease r.qp r.tabHandle (lookupFail r.id m.status m.detail n)
      else
        let part : PPart := { tag := s.tag, bag := m.bag, pos := m.firstPos, rows := m.rows, sat := m.saturated, elems := m.elems }
        let n := m.hints.foldl (fun n x => routeAdd r.tabHandle x.1 x.2.toNat n) n
        let n := reqMod r.id (fun r => { r with
          pooled := r.pooled ++ [part], rerouted := r.rerouted || m.forwarded, energy := r.energy + m.energy }) n
        let got := nsum ((((reqFind n r.id).map (·.pooled)).getD []).map (fun p => if p.tag = s.tag then p.rows else 0))
        let n := if b.items.length ≤ got then subsMod r.id s.tag (fun s => { s with state := 1 }) n else n
        bagCheck r.id (rowRelease r.qp r.tabHandle n)
    | _ => n

/-! ### WRITE and ADD at the admitting node (R202, R205, R206) -/

/-- The result word of a record (R202). -/
def rowWord (rseq status : Nat) (sat : Bool) (shard : Nat) : BitVec 128 :=
  BitVec.ofNat 128 (rseq % 2 ^ 64 + (status % 256) <<< 88 + b2n sat <<< 64 + (shard % 65536) <<< 96)

/-- Every record is answered: the response leaves. Its STATUS is that of the first record that is not OK. TABLE_FILL answers the count
of records applied (R388). -/
def rowCheck (id : Nat) (n : Node) : Node :=
  match reqFind n id with
  | none => n
  | some r =>
    if r.subs.all (fun s => s.state ≠ 0) then
      let count := bnum r.d 6 2
      let ws := (List.range count).map (fun i => sget 0 r.words i)
      let st := ((ws.map wordStatus).find? (fun x => x ≠ 0)).getD 0
      let fs := r.words.map (fun x => wordStatus x.2)
      let ft := (fs.find? (fun x => x ≠ 0)).getD 0
      if r.op = 4 then finish r bempty { boundResp r with
          status := ft, err := if ft = 5 then r.detail else 0,
          cls := mgmtWords (fs.filter (fun x => x = 0)).length 0 0 false } n
      else finish r (recsBlob ws)
        { boundResp r with
          status := st, count := count, err := if st = 5 then r.detail else 0,
          cls := lookupWords (ws.filter (fun w => wordStatus w = 0)).length r.sats } n
    else n

/-- The table shard of a row, from the table's descriptor (R199). -/
def rowTShard (n : Node) (h g row : Nat) : Nat :=
  match tabFind n h g with
  | some t => tShardOf t row
  | none => match n.map.descs.find? (fun d => d.handle = h && d.gen = g && d.kind = 1) with
    | some d => shardOf row (bnum d.desc 0x10 2)
    | none => 0

/-- A record's answer enters the response. -/
def rowAnswered (r : Req) (s : Sub) (shard rseq status detail : Nat) (sat : Bool) (n : Node) : Node :=
  let n := reqMod r.id (fun r => { r with
    words := sins r.words s.shard (rowWord rseq status sat shard), sats := r.sats + b2n sat,
    detail := if r.detail = 0 then detail else r.detail }) n
  rowCheck r.id (rowRelease r.qp r.tabHandle (subsMod r.id s.tag (fun s => { s with state := 1 }) n))

def rowAnswerIn (h : MsgHdr) (m : RowAnswerMsg) (n : Node) : Node :=
  match tagOwner n h.tag.toNat with
  | none => n
  | some (r, s) =>
    match s.msg with
    | .rowOp b =>
      let n := if m.home.toNat ≠ s.dst then routeAdd r.tabHandle b.row m.home.toNat n else n
      let n := reqMod r.id (fun r => { r with rerouted := r.rerouted || m.forwarded, energy := r.energy + m.energy }) n
      rowAnswered r s (rowTShard n b.handle b.gen b.row) m.rseq m.status m.detail m.saturated n
    | _ => n

/-- An earlier operation of the queue pair on one of the sub's rows is outstanding (R206). -/
def rowBehind (n : Node) (r : Req) (s : Sub) : Bool :=
  (subRows s).any (fun row => !((rowOuts n r.qp r.tabHandle row).takeWhile (fun o => o.tag ≠ s.tag)).isEmpty)

/-- MISROUTE for a row operation or a sub-bag: the hint is dropped and the operation goes once to the default home, when no earlier
operation of its queue pair on its rows is outstanding (R204, R206, R209). -/
def lookupMisroute (r : Req) (s : Sub) (n : Node) : Node :=
  match s.msg with
  | .subBag m =>
    let n := m.items.foldl (fun n it => routeDrop m.handle it.row n) n
    if s.rerouted then lookupFail r.id 6 0 n
    else
      match tabFind n m.handle m.gen with
      | none => lookupFail r.id 6 0 n
      | some t =>
        if rowBehind n r s then
          subsMod r.id s.tag (fun s => { s with sent := false, rerouted := true }) (reqMod r.id (fun r => { r with rerouted := true }) (frtCnt 0x118 n))
        else
          let n := reqMod r.id (fun r => { r with rerouted := true, subs := r.subs.filter (fun x => x.tag ≠ s.tag) }) n
          bagSend r.id t m.mean m.items true (frtCnt 0x118 n)
  | .rowOp m =>
    let n := routeDrop m.handle m.row n
    match tabFind n m.handle m.gen with
    | none => rowAnswered r s (rowTShard n m.handle m.gen m.row) 0 6 0 false n
    | some t =>
      match defaultHome n t m.row with
      | none => rowAnswered r s (tShardOf t m.row) 0 6 0 false n
      | some d =>
        if s.rerouted then rowAnswered r s (tShardOf t m.row) 0 6 0 false n
        else if rowBehind n r s then
          subsMod r.id s.tag (fun s => { s with sent := false, rerouted := true }) (reqMod r.id (fun r => { r with rerouted := true }) (frtCnt 0x118 n))
        else resendSub r s d s.msg n
  | _ => n

/-! ### The LOOKUP descriptor (R200, R201) -/

def lookupHeaderBad (x : Qp) (op : Nat) (d : Blob) (t : Option TabSt) : Option Nat :=
  let w0 := bword d 0
  let len := nbits w0 8 0 * 64
  let items := bnum d 6 2
  let bags := bnum d 5 1
  let width := match t with | some t => tWidth t | none => 0
  let rec_ := 8 + 4 * width
  let ioff := bnum d 0x2A 2
  let boff := bnum d 0x28 2
  let ilen := if op = 0 then 8 * items else rec_ * items
  let blen := (2 * bags + 7) / 8 * 8
  firstBad [
    offIf (nbits w0 31 24 ≠ 3 || nbits w0 23 20 ≠ 1 || nbits w0 19 16 ≠ op || nbits w0 15 9 ≠ 0 || len = 0 ||
      2 ^ x.cfg.slotLog2 < len) 0,
    offIf (if op = 0 then decide (4032 < items) || bags = 0 || decide (64 < bags) || decide (1 < bnum d 4 1)
      else decide (len < 64 + rec_ * items) || bags ≠ 0 || bnum d 4 1 ≠ 0) 4,
    offIf t.isNone 8,
    offIf (nbits (bword d 0xC) 31 15 ≠ 0 || 10000 < nbits (bword d 0xC) 14 0) 0xC,
    offIf (bnum d 0x18 8 % 16 ≠ 0) 0x18,
    offIf (bword d 0x24 < 64 + (if op = 0 then 4 * width * bags else 16 * items)) 0x24,
    offIf ((items ≠ 0 && (ioff < 64 || ioff % 8 ≠ 0 || len < ioff + ilen)) ||
      (if op = 0 then boff < 64 || boff % 8 ≠ 0 || len < boff + blen else boff ≠ 0) ||
      (op = 0 && items ≠ 0 && ioff < boff + blen && boff < ioff + ilen)) 0x28,
    [0x2C, 0x30, 0x34, 0x38, 0x3C].find? (fun o => bword d o ≠ 0)]

def lookupItemsBad (op : Nat) (d : Blob) (t : TabSt) : Option Nat :=
  let items := bnum d 6 2
  let bags := bnum d 5 1
  let ioff := bnum d 0x2A 2
  let boff := bnum d 0x28 2
  if op = 0 then
    let counts := (List.range bags).map (fun b => bnum d (boff + 2 * b) 2)
    if nsum counts ≠ items then some 4
    else
      let bagBad := if bnum d 4 1 = 1 then (counts.findIdx? (fun c => c = 0)).map (fun b => (boff + 2 * b) / 4 * 4) else none
      let rowBad := ((List.range items).find? (fun i => tRows t ≤ bnum d (ioff + 8 * i) 8)).map (fun i => ioff + 8 * i)
      match bagBad, rowBad with
      | some a, some b => some (Nat.min a b)
      | some a, none => some a
      | none, b => b
  else
    let size := 8 + 4 * tWidth t
    firstBad ((List.range items).map (fun i =>
      let o := ioff + size * i
      if tRows t ≤ bnum d o 8 then some o
      else ((List.range (tWidth t)).find? (fun j => !f32Finite (w32 (bword d (o + 8 + 4 * j))))).map (fun j => o + 8 + 4 * j)))

/-- The table generation that a handle addresses (R17, R212). -/
def currentTab (n : Node) (h : Nat) : Option TabSt := (currentGen n.map h).bind (fun g => tabFind n h g)

/-- The update records of a WRITE or ADD go to the rows' homes, in record order. -/
def updatesSend (id op : Nat) (h g ioff count : Nat) (d : Blob) (n : Node) : Node :=
  match tabFind n h g with
  | none => lookupFail id 6 0 n
  | some t =>
    let size := 8 + 4 * tWidth t
    let n := (List.range count).foldl (fun n i =>
      let o := ioff + size * i
      let row := bnum d o 8
      let elems : List F32 := (List.range (tWidth t)).map (fun j => posZero (w32 (bword d (o + 8 + 4 * j))))
      let m : RowOpMsg := { handle := h, gen := g, row := row, fseq := 0, op := op, elems := elems, forwarded := false }
      match reqFind n id with
      | none => n
      | some r =>
        let (dst, held) := rowDest r.qp t row n
        match dst with
        | none => reqMod id (fun r => { r with words := sins r.words i (rowWord 0 6 false (tShardOf t row)) }) n
        | some dst => subAdd id dst i (.rowOp m) false held (routeUse h row n)) n
    rowCheck id n

/-- Checks 2 to 4 of R12 on a LOOKUP, its binding, and its operations. -/
def lookupIn (op : Nat) (d : Blob) (x : Qp) (t : RespTo) (n : Node) : Node :=
  let h := bword d 8
  let tab := currentTab n h
  let bad := match lookupHeaderBad x op d tab, tab with
    | some o, _ => some o
    | none, some tb => lookupItemsBad op d tb
    | none, none => some 8
  match bad, tab with
  | some o, _ => answerStatus t (bnum d 3 1) 0 1 o n
  | none, none => answerStatus t 3 0 1 8 n
  | none, some tb =>
    if !hasRights n (decide (op ≠ 0)) x.cfg.tid h then answerStatus t 3 0 2 0 n
    else
      let (wait, n) := clientEntry x.cfg.tid n
      match wait with
      | some w => answerStatus t 3 0 5 w n
      | none =>
        let us := nbits (bword d 0xC) 14 0
        let (id, n) := reqNew x t d h tb.gen 0 (t.arrive + ticksUs (if us = 0 then 1000 else us)) n
        let n := reqMod id (fun r => { r with tabHandle := h, tabGen := tb.gen }) n
        if op = 0 then poolStart id n
        else updatesSend id op h tb.gen (bnum d 0x2A 2) (bnum d 6 2) d n

/-! ### The home (R203-R207) -/

/-- A sampled row enters the table of its shard's 1,024 most-read rows; a full table gives up its least-read row (R208; which of several
is the model's choice, log 173). -/
def hotAdd (t : TabSt) (row : Nat) : Sparse Nat :=
  let mine := t.hot.filter (fun x => tShardOf t x.1 = tShardOf t row)
  let hot := if (sfind t.hot row).isSome ∨ mine.length < 1024 then t.hot
    else match lleast (fun a b => decide (a.2 < b.2)) mine with | some x => sdel t.hot x.1 | none => t.hot
  sset 0 hot row (sget 0 hot row + 1)

/-- Operations that a home counts by table shard (R208). -/
def countRead (h g row : Nat) (n : Node) : Node :=
  tabMod h g (fun t =>
    let s := tShardOf t row
    let k := sget 0 t.total s + 1
    { t with
      reads := sset 0 t.reads s (sget 0 t.reads s + 1), total := sset 0 t.total s k,
      hot := if k % 64 = 0 then hotAdd t row else t.hot }) n

/-- A row cannot be read whole now: it is being restored, or a word of it is poisoned (R204, R232, R337). -/
def rowLost (n : Node) (t : TabSt) (row : Nat) : Bool :=
  t.restoring.contains (tShardOf t row) || t.bad.contains row || poisoned n (rowAddr t row) (tRowBytes t)

/-- Where an operation on a row goes at this node (R209, R276): itself, or another node and whether under a forward
sequence. -/
def rowRoute (n : Node) (t : TabSt) (row : Nat) : Option (BitVec 12 × Bool) :=
  if isHome n t row then some (n.nodeId, false)
  else
    match t.away.find? (fun o => o.row = row) with
    | some o => some (o.towards, true)
    | none =>
      match sget 0 t.redirect row with
      | k + 1 => if defaultHome n t row = some n.nodeId then some (BitVec.ofNat 12 k, false) else none
      | 0 => (fwdFind n { handle := t.handle, gen := t.gen, shard := tShardOf t row } true).map (fun f => (f.towards, false))

/-- The next forward sequence of a row handed off. -/
def takeFseq (h g row : Nat) (n : Node) : Nat × Node :=
  let k := match (tabFind n h g).bind (fun t => t.away.find? (fun o => o.row = row)) with | some o => o.fseq + 1 | none => 1
  (k, tabMod h g (fun t => { t with away := lmodify (fun o => o.row = row) (fun o => { o with fseq := k }) t.away }) n)

def countForward (h g row : Nat) (n : Node) : Node :=
  tabMod h g (fun t => { t with fwdN := sset 0 t.fwdN (tShardOf t row) (sget 0 t.fwdN (tShardOf t row) + 1) }) n

/-- A bag's items that this node homes: its partial vector leaves for the admitting node. -/
def poolBag (h : MsgHdr) (m : SubBagMsg) (bag : Nat) (items : List BagItem) (n : Node) : Node :=
  match tabFind n m.handle m.gen with
  | none => n
  | some t =>
    let items := lsort (fun a b => decide (a.pos < b.pos)) items
    let first := match items with | x :: _ => x.pos | [] => 0
    let lost := items.any (fun it => rowLost n t it.row)
    let bads := (items.filter (fun it => poisoned n (rowAddr t it.row) (tRowBytes t))).map (·.row)
    let (e, n) := measured n
    let n := tabMod m.handle m.gen (fun t => { t with bad := bads.foldl (fun acc r => ninsert r acc) t.bad }) n
    let n := items.foldl (fun n it =>
      let n := countRead m.handle m.gen it.row n
      if (ptGet n (tpage (rowAddr t it.row))).isSome then (memRead (rowAddr t it.row) (tRowBytes t) n).2 else n) n
    let s := vecSum (tWidth t) (items.map (fun it => rowVals t it.row))
    let (wait, n) := if lost then fresh n else (0, n)
    sendTag h.src.toNat h.tag.toNat (.pooled {
      bag := bag, firstPos := first, energy := e, status := if lost then 5 else 0, detail := if lost then wait % 2 ^ 32 else 0,
      saturated := decide (0 < s.2) || items.any (fun it => rowSat t it.row), rows := items.length,
      hints := if m.forwarded then items.map (fun it => (it.row, n.nodeId)) else [],
      forwarded := m.forwarded, elems := if lost then [] else s.1.map posZero }) n

/-- Pool the items of a sub-bag that this node homes, bag by bag. -/
def poolItems (h : MsgHdr) (m : SubBagMsg) (items : List BagItem) (n : Node) : Node :=
  let bags := (items.map (·.bag)).foldl (fun acc b => ninsert b acc) []
  bags.foldl (fun n b => poolBag h m b (items.filter (fun it => it.bag = b)) n) n

/-- An update at the home (R205): RSEQ rises, the record is stored and goes to the partner; its answer waits for the
partner to hold it (R207). -/
def rowUpdate (h : MsgHdr) (m : RowOpMsg) (t : TabSt) (n : Node) : Node :=
  let shard := tShardOf t m.row
  let old := rowGet t m.row
  let sum := if m.op = 1 then (m.elems, 0) else vecAdd (rowVals t m.row) m.elems 0
  let enc := encodeRow (tFmt t) sum.1
  let sat := enc.2 || decide (0 < sum.2) || (m.op ≠ 1 && rowSat t m.row)
  let row : TRow := { record := enc.1, rseq := (old.rseq + 1) % 2 ^ 64 }
  let (e, n) := measured n
  let n := tabMod m.handle m.gen (fun t => { t with
    rows := sset trowZero t.rows m.row row, updates := sset 0 t.updates shard (sget 0 t.updates shard + 1) }) n
  let n := memWrite (rowAddr t m.row) (tRowBytes t) n
  let ans : RowAnswerMsg := { row := m.row, rseq := row.rseq, status := 0, detail := 0, saturated := sat, home := n.nodeId, energy := e, forwarded := m.forwarded }
  match rowPartner n t m.row with
  | none => n
  | some p =>
    if p = n.nodeId then
      sendTag h.src.toNat h.tag.toNat (.rowAnswer ans)
        (tabMod m.handle m.gen (fun t => { t with image := sset trowZero t.image m.row row }) n)
    else
      let (tag, n) := sendNew p.toNat (.rowMove { handle := m.handle, gen := m.gen, row := m.row, rseq := row.rseq, record := row.record, mirror := true }) n
      tabMod m.handle m.gen (fun t => { t with
        acks := t.acks ++ [{ tag := tag, dst := h.src.toNat, rtag := h.tag.toNat, ans := ans }] }) n

/-- A row operation at its home (R204, R205, R275, R283). A WRITE replaces a poisoned row whole, but waits for one being restored. -/
def rowServe (h : MsgHdr) (m : RowOpMsg) (t : TabSt) (n : Node) : Node :=
  let ans := fun (status detail : Nat) (n : Node) =>
    sendTag h.src.toNat h.tag.toNat (.rowAnswer {
      row := m.row, rseq := (rowGet t m.row).rseq, status := status, detail := detail, saturated := false, home := n.nodeId,
      energy := 0, forwarded := m.forwarded }) n
  if t.restoring.contains (tShardOf t m.row) || t.bad.contains m.row || (rowLost n t m.row && m.op ≠ 1) then
    let (x, n) := fresh n
    ans 5 (x % 2 ^ 32) (tabMod m.handle m.gen (fun t =>
      { t with bad := if poisoned n (rowAddr t m.row) (tRowBytes t) then ninsert m.row t.bad else t.bad }) n)
  else if m.op = 0 then ans 0 0 (countRead m.handle m.gen m.row n)
  else if !n.quorum || (rowPartner n t m.row).isNone then ans 5 10000 n
  else rowUpdate h m t n

/-! ### Forwarded operations at the new home (R210) -/

/-- Rows and forward sequences of a waiting operation. -/
def waitSeqs (m : Msg) : List (Nat × Nat) :=
  match m with
  | .subBag b => b.items.map (fun it => (it.row, it.fseq))
  | .rowOp b => [(b.row, b.fseq)]
  | _ => []

/-- Forward sequences follow one another from the last served. -/
def seqReady : List (Nat × Nat) → Sparse Nat → Bool
  | [], _ => true
  | (row, q) :: l, served => q = 0 || (q = sget 0 served row + 1 && seqReady l (sset 0 served row q))

def waitReady (t : TabSt) (m : Msg) : Bool :=
  seqReady ((waitSeqs m).filter (fun x => x.2 ≠ 0)) t.served

/-- Serve one operation whose forward sequence has come. -/
def waitServe (h g : Nat) (w : RowWait) (n : Node) : Node :=
  let n := tabMod h g (fun t => { t with
    served := (waitSeqs w.m).foldl (fun s x => if x.2 = 0 then s else sset 0 s x.1 x.2) t.served }) n
  match tabFind n h g with
  | none => n
  | some t =>
    match w.m with
    | .subBag m => poolItems w.h m m.items n
    | .rowOp m => rowServe w.h m t n
    | _ => n

/-- Serve the waiting operations that have become ready, in their order. -/
def waitLoopRows (h g : Nat) : Nat → Node → Node
  | 0, n => n
  | k + 1, n =>
    match tabFind n h g with
    | none => n
    | some t =>
      match t.waits.find? (fun w => (waitSeqs w.m).all (fun x => x.2 = 0 || isHome n t x.1) && waitReady t w.m) with
      | none => n
      | some w => waitLoopRows h g k (waitServe h g w (tabMod h g (fun t => { t with waits := lremoveFirst (fun y => y = w) t.waits }) n))

/-- Keep a forwarded operation until its turn, and serve what is ready. -/
def waitAdd (h g : Nat) (w : RowWait) (n : Node) : Node :=
  let n := tabMod h g (fun t => { t with waits := t.waits ++ [w] }) n
  waitLoopRows h g ((((tabFind n h g).map (fun t => t.waits.length)).getD 0) + 1) n

/-- A SUB_BAG arrives: pooled here, forwarded by destination, or answered MISROUTE (R203, R209, R210). -/
def subBagIn (h : MsgHdr) (m : SubBagMsg) (n : Node) : Node :=
  match tabFind n m.handle m.gen with
  | none => sendMisroute h none n
  | some t =>
    if m.items.any (fun it => it.fseq ≠ 0) then waitAdd m.handle m.gen { h := h, m := .subBag m } n
    else
      let rs := m.items.map (fun it => (it, rowRoute n t it.row))
      if rs.any (fun x => x.2.isNone) then sendMisroute h none n
      else
        let me := n.nodeId
        let n := poolItems h m ((rs.filter (fun x => x.2.any (fun y => y.1 = me))).map (·.1)) n
        let others := (rs.filter (fun x => x.2.all (fun y => y.1 ≠ me))).filterMap (fun x => x.2.map (fun y => (x.1, y.1, y.2)))
        let dsts := others.foldl (fun (acc : List (BitVec 12)) x => if acc.contains x.2.1 then acc else acc ++ [x.2.1]) []
        dsts.foldl (fun n d =>
          let (items, n) := (others.filter (fun x => x.2.1 = d)).foldl (fun (acc : List BagItem × Node) x =>
            let n := countForward m.handle m.gen x.1.row acc.2
            if x.2.2 then
              let (q, n) := takeFseq m.handle m.gen x.1.row n
              (acc.1 ++ [{ x.1 with fseq := q }], n)
            else (acc.1 ++ [x.1], n)) ([], n)
          forwardMsg h d (.subBag { m with items := items, forwarded := true }) n) n

/-- The generation that a row operation is applied to: an update that reaches a home after its generation was replaced is
re-bound once to the current one (R212). -/
def rowRebind (n : Node) (m : RowOpMsg) : RowOpMsg :=
  match currentGen n.map m.handle with
  | some g => if m.op ≠ 0 && g = nextGen m.gen && (tabFind n m.handle g).isSome then { m with gen := g } else m
  | none => m

/-- A ROW_OP arrives (R205, R209, R210, R212). -/
def rowOpIn (h : MsgHdr) (m0 : RowOpMsg) (n : Node) : Node :=
  let m := rowRebind n m0
  match tabFind n m.handle m.gen with
  | none => sendMisroute h none n
  | some t =>
    if m.fseq ≠ 0 ∧ m.gen = m0.gen then waitAdd m.handle m.gen { h := h, m := .rowOp m } n
    else
      match rowRoute n t m.row with
      | none =>
        if m.gen ≠ m0.gen then
          match defaultHome n t m.row with
          | some d => forwardMsg h d (.rowOp { m with forwarded := true, fseq := 0 }) (countForward m.handle m.gen m.row n)
          | none => sendMisroute h none n
        else sendMisroute h none n
      | some (d, seq) =>
        if d = n.nodeId then rowServe h m t n
        else
          let n := countForward m.handle m.gen m.row n
          let (q, n) := if seq then takeFseq m.handle m.gen m.row n else (0, n)
          forwardMsg h d (.rowOp { m with fseq := q, forwarded := true }) n

/-! ### Load and migration (R208, R210) -/

/-- The handoff point (steps 2 and 3): the row goes to its new home. The shard's partner, which takes the default home's place, learns
the redirect as well (DESIGN CHOICE, log 174). -/
def rowHandoff (h g row : Nat) (towards : BitVec 12) (n : Node) : Node :=
  match tabFind n h g with
  | none => n
  | some t =>
    let r := rowGet t row
    let d := defaultHome n t row
    let n := tabMod h g (fun t => { t with
      here := t.here.filter (fun x => x ≠ row), away := t.away ++ [{ row := row, towards := towards, fseq := 0, conf := none }],
      redirect := if d = some n.nodeId then sset 0 t.redirect row (towards.toNat + 1) else t.redirect }) n
    let n := sendAwait towards.toNat (.rowMove { handle := h, gen := g, row := row, rseq := r.rseq, record := r.record, mirror := false }) n
    let tell := (d.toList ++ (rowPartner n t row).toList).filter (fun x => x ≠ n.nodeId && x ≠ towards)
    tell.foldl (fun n x => send x.toNat (.redirectSet { handle := h, gen := g, row := row, home := towards }) n) n

/-- LOAD_WINDOW_MS ends: a node over the composition mean by MIGRATE_PCT percent in three windows in a row moves its
most-read rows, hottest first, to the member with the lowest load that has free slots; how many of at most 4,096 is the
node's choice (R208, R280). -/
def loadWindow (h g : Nat) (loads : List MemberLoad) (n : Node) : Node :=
  match tabFind n h g with
  | none => n
  | some t =>
    let n := reach (t.windowAt + ticksMs (tWindow t)) n
    let mine := nsum (t.reads.map (·.2))
    let others := loads.filter (fun l => l.node ≠ n.nodeId && isMemberAny n l.node)
    let total := mine + nsum (others.map (·.reads))
    let count := others.length + 1
    let overLim := tMigrate t ≠ 0 && total * (100 + tMigrate t) < mine * count * 100
    let runs := if overLim then t.overLim + 1 else 0
    let fit := others.filter (fun l => 0 < l.free && 2 ≤ levelWith n l.node.toNat)
    let hot := lsort (fun a b => decide (b.2 < a.2)) (t.hot.filter (fun x => isHome n t x.1 && !rowLost n t x.1))
    let n := tabMod h g (fun t => { t with
      lastReads := t.reads, lastUpd := t.updates, reads := [], updates := [], hot := [], overLim := runs, windowAt := n.tick }) n
    if runs < 3 then n
    else
      match lleast (fun a b => decide (a.reads < b.reads)) fit with
      | none => n
      | some l =>
        let k := Nat.min (Nat.min 4096 l.free) hot.length
        if k = 0 then n
        else
          let (x, n) := fresh n
          (hot.take (1 + x % k)).foldl (fun n r => rowHandoff h g r.1 l.node n) n
where
  isMemberAny (n : Node) (id : BitVec 12) : Bool := isMember n id.toNat && !isFenced n id.toNat

/-- A ROW_MOVE arrives: an update record for the partner, which writes it to flash and folds it into the shard's image (R207), or a row to
install in the slot reserved for it (steps 3 and 5). -/
def rowMoveIn (h : MsgHdr) (m : RowMoveMsg) (n : Node) : Node :=
  match tabFind n m.handle m.gen with
  | none => n
  | some t =>
    let row : TRow := { record := m.record, rseq := m.rseq }
    let ok := fun n => sendTag h.src.toNat h.tag.toNat (.rowInstalled { handle := m.handle, gen := m.gen, row := m.row }) n
    if m.mirror then
      let (uas, n) := ownWrite 0 none none [bofNat (tRowBytes t) m.record] n
      let n := ownRelease (sget [] t.imgUas m.row) n
      ok (tabMod m.handle m.gen (fun t => { t with
        image := sset trowZero t.image m.row row, imgUas := sset [] t.imgUas m.row uas,
        redirect := if defaultHome n t m.row = some n.nodeId then t.redirect
          else sset 0 t.redirect m.row (if defaultHome n t m.row = some h.src then 0 else h.src.toNat + 1) }) n)
    else
      let back := defaultHome n t m.row = some n.nodeId
      let n := tabMod m.handle m.gen (fun t => { t with
        rows := sset trowZero t.rows m.row row, here := if back then t.here else ninsert m.row t.here,
        away := t.away.filter (fun o => o.row ≠ m.row), bad := t.bad.filter (fun r => r ≠ m.row),
        redirect := if back then sset 0 t.redirect m.row 0 else t.redirect, served := sset 0 t.served m.row 0,
        inN := sset 0 t.inN (tShardOf t m.row) (sget 0 t.inN (tShardOf t m.row) + 1) }) n
      let n := ok (memWrite (rowAddr t m.row) (tRowBytes t) n)
      waitLoopRows m.handle m.gen ((((tabFind n m.handle m.gen).map (fun t => t.waits.length)).getD 0) + 1) n

/-- A ROW_INSTALLED confirmation: an update is held by the partner, or the forwarding window starts (R207, step 5). -/
def rowInstalledIn (h : MsgHdr) (m : RowRefMsg) (n : Node) : Node :=
  match tabFind n m.handle m.gen with
  | none => n
  | some t =>
    match t.acks.find? (fun a => a.tag = h.tag.toNat) with
    | some a =>
      sendTag a.dst a.rtag (.rowAnswer a.ans)
        (tabMod m.handle m.gen (fun t => { t with acks := t.acks.filter (fun x => x.tag ≠ a.tag) }) n)
    | none =>
      let (w, n) := awaitTake h.tag.toNat n
      if w.isNone then n
      else
        tabMod m.handle m.gen (fun t => { t with
          away := lmodify (fun o => o.row = m.row && o.towards = h.src) (fun o => { o with conf := some n.tick }) t.away,
          outN := sset 0 t.outN (tShardOf t m.row) (sget 0 t.outN (tShardOf t m.row) + 1) }) n

/-- The forwarding window ends 1 ms after the confirmation (step 6). -/
def rowWindowEnd (h g row : Nat) (n : Node) : Node :=
  match (tabFind n h g).bind (fun t => t.away.find? (fun o => o.row = row)) with
  | none => n
  | some o =>
    match o.conf with
    | none => n
    | some c =>
      tabMod h g (fun t => { t with
        away := t.away.filter (fun x => x.row ≠ row), rows := sset trowZero t.rows row trowZero }) (reach (c + ticksMs 1) n)

/-- The default home's redirect entry, or the partner's copy of it, is set (R199); for a row back at its default home it is dropped. -/
def redirectIn (m : RedirectMsg) (n : Node) : Node :=
  tabMod m.handle m.gen (fun t => { t with
    redirect := sset 0 t.redirect m.row (if m.home = n.nodeId ∨ defaultHome n t m.row = some m.home then 0 else m.home.toNat + 1) }) n

/-! ### The commands -/

def execLookupPool (qp : Nat) (d : Blob) (s : State) : Host.Outcome State Fault Refusal := run s (receive qp d (lookupIn 0 d))
def execLookupWrite (qp : Nat) (d : Blob) (s : State) : Host.Outcome State Fault Refusal := run s (receive qp d (lookupIn 1 d))
def execLookupAdd (qp : Nat) (d : Blob) (s : State) : Host.Outcome State Fault Refusal := run s (receive qp d (lookupIn 2 d))

def execSubBag (h : MsgHdr) (m : SubBagMsg) (s : State) : Host.Outcome State Fault Refusal :=
  run s (fabricIn h (.subBag m) (subBagIn h m))

def execPooled (h : MsgHdr) (m : PooledMsg) (s : State) : Host.Outcome State Fault Refusal :=
  run s (fabricIn h (.pooled m) (pooledIn h m))

def execRowOp (h : MsgHdr) (m : RowOpMsg) (s : State) : Host.Outcome State Fault Refusal :=
  run s (fabricIn h (.rowOp m) (rowOpIn h m))

def execRowAnswer (h : MsgHdr) (m : RowAnswerMsg) (s : State) : Host.Outcome State Fault Refusal :=
  run s (fabricIn h (.rowAnswer m) (rowAnswerIn h m))

def execLoadWindowExpiry (handle gen : Nat) (loads : List MemberLoad) (s : State) : Host.Outcome State Fault Refusal :=
  run s (loadWindow handle gen loads)

def execRowMove (h : MsgHdr) (m : RowMoveMsg) (s : State) : Host.Outcome State Fault Refusal :=
  run s (fabricIn h (.rowMove m) (rowMoveIn h m))

def execRowInstalled (h : MsgHdr) (m : RowRefMsg) (s : State) : Host.Outcome State Fault Refusal :=
  run s (fabricIn h (.rowInstalled m) (rowInstalledIn h m))

def execRowForwardingExpiry (handle gen row : Nat) (s : State) : Host.Outcome State Fault Refusal :=
  run s (rowWindowEnd handle gen row)

def execRedirectSet (h : MsgHdr) (m : RedirectMsg) (s : State) : Host.Outcome State Fault Refusal :=
  run s (fabricIn h (.redirectSet m) (fun n => redirectIn m n))

end Sys2Proof.Machine
end

