-- ==== Sys2Proof/Machine/Objects.lean ====
section
/-!
DEFINITION. Sys2Proof/Machine/Objects.lean: the bytes of objects at node linear addresses (R31, R55, R198), the DMA
channels that move them (R225-R227), and the MGMT response (R393).
-/
namespace Sys2Proof.Machine

/-! ### The MGMT response (R393) -/

/-- The answer of an admitted MGMT request. -/
def mgmtAnswer (id status detail result epoch : Nat) (inPayload : Bool) (data : Blob) (n : Node) : Node :=
  match reqFind n id with
  | none => n
  | some r =>
    finish r data { boundResp r with
      status := status, err := detail, cls := mgmtWords result data.len epoch inPayload } n

def mgmtOk (id result : Nat) (data : Blob) (n : Node) : Node := mgmtAnswer id 0 0 result 0 false data n

/-! ### Bytes of an object, in groups of `objGroup` bytes -/

/-- Bytes of one group: an item, or the 4 KiB unit that full-vector records share (R55). -/
def objGroup (n : Node) (o : ObjRange) : Nat :=
  let g := genFind n o.key.handle o.key.gen
  match o.what with
  | 0 => 4
  | 1 => match g with | some g => gM g / 2 | none => 1
  | 2 => 256
  | 3 => 256
  | 4 => 16
  | 5 => 16
  | 6 => 16
  | 7 => match g with
    | some g => let s := fullSize (gFullFmt g) (gDim g); if s ≤ 4096 then 4096 else (s + 4095) / 4096 * 4096
    | none => 4096
  | 8 => 1024
  | 9 => match tabFind n o.key.handle o.key.gen with | some t => tRowBytes t | none => 8
  | _ => 8

def shardOr (n : Node) (k : ShardKey) (d : α) (f : Shard → α) : α :=
  match shardFind n k with | some s => f s | none => d

/-- Group i of an object as a number. -/
def objGet (n : Node) (o : ObjRange) (i : Nat) : Nat :=
  match o.what with
  | 0 => match (genFind n o.key.handle o.key.gen).bind (·.codebook) with | some b => bnum b (4 * i) 4 | none => 0
  | 1 => shardOr n o.key 0 (fun s => sget 0 s.code i)
  | 2 => shardOr n o.key 0 (fun s => sget 0 s.adj i)
  | 3 => shardOr n o.key 0 (fun s => sget 0 s.upper i)
  | 4 => shardOr n o.key 0 (fun s => sget 0 s.attr i)
  | 5 => shardOr n o.key 0 (fun s => sget 0 s.idmap i)
  | 6 => shardOr n o.key 0 (fun s => sget 0 s.keyidx i)
  | 7 => match genFind n o.key.handle o.key.gen with
    | some g =>
      let s := fullSize (gFullFmt g) (gDim g)
      if s ≤ 4096 then
        let per := 4096 / s
        shardOr n o.key 0 (fun sh => (List.range per).foldl (fun acc j => acc + sget 0 sh.full (per * i + j) <<< (8 * s * j)) 0)
      else shardOr n o.key 0 (fun sh => sget 0 sh.full i)
    | none => 0
  | 8 => shardOr n o.key 0 (fun s => if i / 64 < s.pages.length then openRow n (physRow s i) else 0)
  | 9 => match tabFind n o.key.handle o.key.gen with | some t => (rowGet t i).record | none => 0
  | 10 => match n.encoders.find? (fun e => e.handle = o.key.handle && e.gen = o.key.gen) with
    | some e => bnum e.list (olData e.list + 8 * i) 8
    | none => 0
  | _ => 0

/-- Store group i of an object. -/
def objSet (o : ObjRange) (i v : Nat) (n : Node) : Node :=
  match o.what with
  | 0 => { n with
      gens := lmodify (fun g => g.handle = o.key.handle && g.gen = o.key.gen)
        (fun g => { g with codebook := g.codebook.map (fun b => if 4 * i + 4 ≤ b.len then bpatch b (4 * i) (bofNat 4 v) else b) }) n.gens }
  | 1 => shardMod o.key (fun s => { s with code := sset 0 s.code i v }) n
  | 2 => shardMod o.key (fun s => { s with adj := sset 0 s.adj i v }) n
  | 3 => shardMod o.key (fun s => { s with upper := sset 0 s.upper i v }) n
  | 4 => shardMod o.key (fun s => { s with attr := sset 0 s.attr i v }) n
  | 5 => shardMod o.key (fun s => { s with idmap := if i < s.idHigh then sins s.idmap i v else sset 0 s.idmap i v }) n
  | 6 => shardMod o.key (fun s => { s with keyidx := sset 0 s.keyidx i v }) n
  | 7 => match genFind n o.key.handle o.key.gen with
    | some g =>
      let s := fullSize (gFullFmt g) (gDim g)
      if s ≤ 4096 then
        let per := 4096 / s
        shardMod o.key (fun sh => { sh with
          full := (List.range per).foldl (fun m j => sset 0 m (per * i + j) ((v >>> (8 * s * j)) % 2 ^ (8 * s))) sh.full }) n
      else shardMod o.key (fun sh => { sh with full := sset 0 sh.full i (v % 2 ^ (8 * s)) }) n
    | none => n
  | 8 => match shardFind n o.key with
    | some s => if i / 64 < s.pages.length then putRow (physRow s i) v n else n
    | none => n
  | 9 => tabMod o.key.handle o.key.gen (fun t =>
      { t with rows := sset trowZero t.rows i { rowGet t i with record := v } }) n
  | 10 => { n with
      encoders := lmodify (fun e => e.handle = o.key.handle && e.gen = o.key.gen)
        (fun e => let o := olData e.list + 8 * i
          { e with list := if o + 8 ≤ e.list.len then bpatch e.list o (bofNat 8 v) else e.list }) n.encoders }
  | _ => n

/-- The bytes of whole groups i0 .. i1. -/
def objGroups (n : Node) (o : ObjRange) (i0 i1 : Nat) : Blob :=
  bconcat ((List.range (i1 + 1 - i0)).map (fun j => bofNat (objGroup n o) (objGet n o (i0 + j))))

/-- Read `len` bytes at a node linear address of an object. -/
def objRead (n : Node) (o : ObjRange) (addr len : Nat) : Blob :=
  if len = 0 then bempty
  else
    let off := addr - o.base * 65536
    let g := objGroup n o
    bslice (objGroups n o (off / g) ((off + len - 1) / g)) (off % g) len

/-- Write bytes at a node linear address of an object. -/
def objWrite (o : ObjRange) (addr : Nat) (d : Blob) (n : Node) : Node :=
  if d.len = 0 then n
  else
    let off := addr - o.base * 65536
    let g := objGroup n o
    let i0 := off / g
    let i1 := (off + d.len - 1) / g
    let b := bpatch (objGroups n o i0 i1) (off % g) d
    (List.range (i1 + 1 - i0)).foldl (fun n j => objSet o (i0 + j) (bnum b (g * j) g) n) n

/-! ### DMA channels (R225-R227) -/

def dmaIdle : Dma :=
  { state := 0, tid := 0, cls := 0, total := 0, progress := 0, deadline := 0, job := none, addr := 0, write := false,
    data := bempty, page := none }

def dmaGet (n : Node) (c : Nat) : Dma := sget dmaIdle n.mmu.dmas c
def dmaSet (c : Nat) (d : Dma) (n : Node) : Node := { n with mmu := { n.mmu with dmas := sset dmaIdle n.mmu.dmas c d } }

/-- A channel without a transfer in progress. -/
def dmaFree (n : Node) : List Nat :=
  (List.range 64).filter (fun c => let s := (dmaGet n c).state; s = 0 || s = 4 || s = 5)

/-- A transfer ends: its request answers. -/
def dmaDone (c : Nat) (n : Node) : Node :=
  let d := dmaGet n c
  let n := dmaSet c { d with state := 4 } n
  match d.job with
  | some id => mgmtOk id 0 (if d.write then bempty else d.data) n
  | none => n

/-- A transfer fails; its request answers as for lost state. -/
def dmaFail (c : Nat) (n : Node) : Node :=
  let d := dmaGet n c
  let n := dmaSet c { d with state := 5 } n
  match d.job with
  | some id => mgmtAnswer id 6 0 0 0 false bempty n
  | none => n

/-- The bytes of the next chunk. -/
def chunkLen (d : Dma) (len : Nat) : Nat := Nat.min 4096 (len - 4096 * d.progress)

/-- Bytes of a transfer: what is written, or what is to be read, held in `cls`-independent form as the data's length. -/
def dmaLen (n : Node) (d : Dma) : Nat :=
  if d.write then d.data.len
  else match d.job.bind (reqFind n) with | some r => bword r.d 0x3C | none => 4096 * d.total

/-- A chunk completes, or meets a tier fault, a hold, or lost data. A write of part of a unit in a page that no memory tier may hold
waits for no promotion: it goes through the flash translation layer with the unit's other bytes (DESIGN CHOICE, log 175). -/
def dmaChunk (c : Nat) (n : Node) : Node :=
  let d := dmaGet n c
  if d.state ≠ 1 then n
  else
    let len := chunkLen d (dmaLen n d)
    let a := d.addr + 4096 * d.progress
    match objOf n (tpage a) with
    | none => dmaFail c (mmuReport 0x03 a d.tid n)
    | some o =>
      let e := ptGet n (tpage a)
      let flash : Bool := match e with | some e => e.home = 3 | none => false
      let held : Bool := match e with | some e => e.hold | none => false
      let part : Bool := flash && d.write && (a % 4096 ≠ 0 || len ≠ 4096)
      let movable : Bool := match e with | some e => !(promoTiers e).isEmpty | none => false
      let lost : Bool := flash && (List.range 2).any (fun i =>
        match e with
        | some e => (match fmapGet n (e.frame * 16 + a % 65536 / 4096 + i) with
          | some m => m.mstate = 3 && (i = 0 || a % 4096 + len > 4096)
          | none => false)
        | none => false)
      if held then mmuCnt 0x150 1 (dmaSet c { d with state := 3, page := some (tpage a) } n)
      else if part && movable then
        tierFault (tpage a) (2 ^ 19 + c) (dmaSet c { d with state := 2, page := some (tpage a) } n)
      else
        let finishChunk := fun (d : Dma) (n : Node) =>
          let d := { d with progress := d.progress + 1 }
          let n := dmaSet c d n
          if d.total ≤ d.progress then dmaDone c n else n
        if part && lost then dmaFail c n
        else if d.write then
          finishChunk d (storeBytes a len d.tid (objWrite o a (bslice d.data (4096 * d.progress) len) n))
        else
          if lost || poisoned n a len then dmaFail c n
          else
            let n := match e with | some _ => (memRead a len n).2 | none => n
            let (b, n) := flashBytes a (objRead n o a len) n
            finishChunk { d with data := bappend d.data b } n

/-- A stopped transfer goes on from PROGRESS, on the same channel or another; past its deadline it fails (R226). -/
def dmaRestart (c onto : Nat) (n : Node) : Node :=
  let d := dmaGet n c
  if d.state ≠ 2 ∧ d.state ≠ 3 then n
  else if d.deadline ≠ 0 ∧ d.deadline ≤ n.tick then
    dmaFail c (mmuReport 0x07 (d.addr + 4096 * d.progress) d.tid n)
  else
    let blocked := match d.page with
      | some p => (match ptGet n p with | some e => e.hold || (d.state = 2 && e.home = 3) | none => false)
      | none => false
    if blocked then n
    else if c = onto then dmaSet c { d with state := 1, page := none } n
    else if (dmaFree n).contains onto then
      dmaSet onto { d with state := 1, page := none } (dmaSet c dmaIdle n)
    else n

/-- Start a transfer for a request; none where no channel is free. -/
def dmaStart (id tid addr len : Nat) (write : Bool) (data : Blob) (n : Node) : Option Node :=
  match dmaFree n with
  | [] => none
  | c :: _ => some (dmaSet c {
      dmaIdle with
      state := 1, tid := tid, total := (len + 4095) / 4096, job := some id, addr := addr, write := write, data := data } n)

end Sys2Proof.Machine
end

