-- ==== Sys2Proof/Machine/TierCmd.lean ====
section
/-!
DEFINITION. Sys2Proof/Machine/TierCmd.lean: the commands of the memory tiers (R220-R227, R232, R347).
-/
namespace Sys2Proof.Machine

/-! ### Promotions (R222, R227) -/

/-- A walk context leaves TIER_WAIT: it re-issues the block read, or after a failed read treats the item as having no neighbours, as
an empty block gives it none (R88). -/
def wakeCtx (e c page : Nat) (ok : Bool) (n : Node) : Node :=
  match ctxGet n e c with
  | none => n
  | some x =>
    if x.state ≠ 4 ∨ x.page ≠ some page then n
    else
      let n := ctxMod e c (fun x => { x with page := none, issued := n.tick }) n
      if ok then ctxReady e c n
      else ctxReady e c (skipRep e c 0x06 (page * 65536) 1 (ctxMod e c (fun x => { x with arrived := true, buf := 0, bufBad := false }) n))

/-- A waiter of a page is signalled: a context by engine * 512 + number, a DMA channel from 2^19 on, the folding from 2^20 on, which
tries its item again by itself, a tensor program from 2^21 on. -/
def wake (page : Nat) (ok : Bool) (w : Nat) (n : Node) : Node :=
  if 2 ^ 21 ≤ w then
    match progFind n (w - 2 ^ 21) with
    | none => n
    | some p =>
      if p.state ≠ 2 then n
      else if !ok then progFail p 6 n
      else if (coldPages n p).isEmpty then placeWaiting (progMod p.id (fun p => { p with state := 3 }) n)
      else
        ((coldPages n p).filter (fun q => match ptGet n q with | some e => !e.waiters.contains w | none => false)).foldl
          (fun n q => tierFault q w n) n
  else if 2 ^ 20 ≤ w then n
  else if 2 ^ 19 ≤ w then
    let c := w - 2 ^ 19
    let d := dmaGet n c
    if d.state ≠ 2 ∨ d.page ≠ some page then n
    else if ok then dmaSet c { d with state := 1, page := none } n
    else dmaFail c n
  else wakeCtx (w / 512) (w % 512) page ok n

/-- What a promoted page then holds of units that were DISCARDED (R247). -/
def promoFill (page : Nat) (n : Node) : Node :=
  match objOf n page with
  | none => n
  | some o =>
    if (List.range 16).any (fun i => discardedAt n (page * 65536 + 4096 * i)) then
      let (b, n) := unitsRead 16 (page * 65536) (objRead n o (page * 65536) 65536) n
      objWrite o (page * 65536) b n
    else n

/-- The promotion of a page ends. -/
def promoEnd (page : Nat) (ok : Bool) (n : Node) : Node :=
  match ptGet n page with
  | none => n
  | some e =>
    if !e.moving ∨ e.home ≠ 3 then n
    else
      let lost := (List.range 16).any (fun i => match fmapGet n (e.frame * 16 + i) with | some m => m.mstate = 3 | none => false)
      let ok := ok && !lost
      let n := if ok then
          let n := ptSet page (some { e with
            home := e.target, frame := e.tframe, moving := false, promoted := true, order := n.mmu.promos, clean := some e.frame,
            waiters := [], idleAt := n.tick }) (promoFill page n)
          mmuCnt 0x144 1 { n with mmu := { n.mmu with promos := n.mmu.promos + 1 } }
        else mmuReport 0x06 (page * 65536) e.tid (ptSet page (some { e with moving := false, waiters := [] }) n)
      promoRetry (e.waiters.foldl (fun n w => wake page ok w n) n)

/-! ### Moves between memory homes, and demotion (R223, R224) -/

/-- The target tier of a background move of a page, where the policy asks for one. -/
def policyTarget (n : Node) (e : PgEnt) : Option Nat :=
  let ctrl := regStored n (regAddr .mmu 0 0x100)
  let hot := rfield n .mmu 0 0x104 30 28
  let cold := rfield n .mmu 0 0x104 26 24
  let idle := ticksS (Nat.max 1 (rfield n .mmu 0 0x108 15 0))
  if e.pinned || e.open_ || e.moving then none
  else if nbit ctrl.toNat 31 && e.home = 2 && hot ≤ e.heat && nbit e.allowed 0 then some 1
  else if nbit ctrl.toNat 31 && e.home = 1 && e.heat ≤ cold && e.defHome = 2 then some 2
  else if nbit ctrl.toNat 30 && e.promoted && nbit e.allowed 2 && e.heat = 0 && e.idleAt + idle ≤ n.tick then some 3
  else none

/-- BACKGROUND_MOVE of a page, at no more than MOVES_PER_MS in a millisecond; a move uses only frames that the tenant has
reserved in the target tier and not yet taken (R220, R223). -/
def bgMove (page : Nat) (n : Node) : Node :=
  match ptGet n page with
  | none => n
  | some e =>
    match policyTarget n e with
    | none => n
    | some t =>
      let win := n.tick / ticksMs 1
      let used := if n.mmu.moveWin = win then n.mmu.moveN else 0
      let q := quotaGet n e.tid
      let room := t = 3 || (if t = 1 then decide (takenIn n e.tid 1 < q.usedStack) else decide (takenIn n e.tid 2 < q.usedDimm))
      if rfield n .mmu 0 0x108 31 16 ≤ used ∨ !room then n
      else
        let m := moveBegin page t n
        if (match ptGet m page with | some e => e.moving | none => false) then { m with mmu := { m.mmu with moveWin := win, moveN := used + 1 } }
        else n

/-- The copy pass ends and the hold begins (steps 2 and 3). -/
def moveCopied (page : Nat) (n : Node) : Node :=
  match ptGet n page with
  | some e => if e.moving && e.home ≠ 3 && !e.hold then ptSet page (some { e with hold := true, heldN := n.tick }) n else n
  | none => n

/-- A channel that stopped at the hold goes on. -/
def unhold (page : Nat) (n : Node) : Node :=
  (List.range 64).foldl (fun n c =>
    let d := dmaGet n c
    if d.state = 3 ∧ d.page = some page then dmaSet c { d with state := 1, page := none } n else n) n

/-- The frame that a move leaves is retired, where that is what it was moved for (R232). -/
def frameRetired (e : PgEnt) (n : Node) : Node :=
  if e.retire then { n with mmu := { n.mmu with retired := n.mmu.retired ++ [e.home * 2 ^ 32 + e.frame], retiredN := n.mmu.retiredN + 1 } } else n

/-- The switch (steps 4 and 5), or the page stays where it is; a frame that comes free can take a promotion that waits for one. -/
def moveSwitchAt (page : Nat) (ok : Bool) (n : Node) : Node :=
  match ptGet n page with
  | none => n
  | some e =>
    if !e.moving ∨ !e.hold then n
    else if !ok then
      unhold page (mmuReport 0x05 (page * 65536) e.tid (ptSet page (some { e with moving := false, hold := false, retire := false, dirty := 0 }) n))
    else
      let n := cntMax (regAddr .mmu 0 0x154) (Nat.min 2000 ((n.tick - e.heldN) * 10)) n
      let fresh_ := e.target = 3 && e.clean ≠ some e.tframe
      let e' := { e with
        home := e.target, frame := e.tframe, moving := false, hold := false, retire := false, dirty := 0, ceTicks := [],
        promoted := e.promoted && e.target ≠ 3, clean := if e.target = 3 then none else e.clean }
      let n := frameRetired e (ptSet page (some e') n)
      let n := if fresh_ then
          (List.range 16).foldl (fun n i => (unitWrite (e.tframe * 16 + i) 2 e.tid bempty none none n).2) n
        else n
      promoRetry (unhold page (if e.target = 3 then mmuCnt 0x148 1 n else if e.target ≠ e.home then mmuCnt 0x14C 1 n else n))

/-- Every DECAY_MS, every HEAT is halved (R223). -/
def decay (n : Node) : Node :=
  let n := reach (n.mmu.decayAt + ticksMs (rfield n .mmu 0 0x104 15 0)) n
  let f := fun (e : PgEnt) => { e with heat := e.heat / 2, idleAt := if e.heat = 1 then n.tick else e.idleAt }
  { n with mmu := { n.mmu with decayAt := n.tick, ptab := n.mmu.ptab.map (fun x => (x.1, x.2.map f)) } }

/-! ### Error correction and patrol (R232, R347) -/

/-- Raise BLK_ERR_CNT of the page of the block that detected an error. -/
def errCount (b : Blk) (i : Nat) (n : Node) : Node :=
  let a := regAddr b i 0x28
  { n with cnts := sset 0 n.cnts a (sat32 (sget 0 n.cnts a + 1)) }

/-- The block whose code covers a memory-homed address: the stack controller or the DIMM channel (R215). -/
def eccBlock (e : PgEnt) (addr : Nat) : Blk × Nat :=
  if e.home = 1 then (.msc, e.frame / 2 ^ 21) else (.dch, (addr % 65536 / 256 + e.frame) % 8)

/-- A corrected error: the frame that takes CE_RETIRE corrections within 60 s is retired, once its page has moved to another frame of
its tier (R232). -/
def corrected (addr : Nat) (n : Node) : Node :=
  let p := tpage addr
  match ptGet n p with
  | none => n
  | some e =>
    if e.home = 3 ∨ e.open_ then n
    else
      let (b, i) := eccBlock e addr
      let n := mmuCnt 0x158 1 (errCount b i n)
      let n := if e.home = 2 then bump (regAddr .dch i 0x110) 1 n else n
      let recent := (e.ceTicks.filter (fun t => n.tick < t + ticksS 60)) ++ [n.tick]
      let limit := rfield n .mmu 0 0x100 7 0
      if limit ≠ 0 ∧ limit ≤ recent.length ∧ !e.retire then
        let n := mmuReport 0x02 addr e.tid (ptSet p (some { e with ceTicks := recent }) n)
        let n := if e.moving then n else moveBegin p e.home n
        match ptGet n p with
        | some e => if e.moving then ptSet p (some { e with ceTicks := [], retire := true }) n else n
        | none => n
      else ptSet p (some { e with ceTicks := recent }) n

/-- An uncorrectable error poisons its word. -/
def uncorrected (addr : Nat) (n : Node) : Node :=
  match ptGet n (tpage addr) with
  | none => n
  | some e =>
    if e.home = 3 ∨ e.open_ then n
    else
      let (b, i) := eccBlock e addr
      let n := mmuCnt 0x15C 1 (errCount b i n)
      let n := if e.home = 2 then bump (regAddr .dch i 0x114) 1 n else n
      mmuReport 0x01 addr e.tid { n with poison := ninsert (addr / 4) n.poison }

/-! ### The commands -/

def execPromotionComplete (page : Nat) (ok : Bool) (s : State) : Host.Outcome State Fault Refusal := run s (promoEnd page ok)
def execBackgroundMove (page : Nat) (s : State) : Host.Outcome State Fault Refusal := run s (bgMove page)
def execHeatDecay (s : State) : Host.Outcome State Fault Refusal := run s decay
def execMoveCopyComplete (page : Nat) (s : State) : Host.Outcome State Fault Refusal := run s (moveCopied page)
def execMoveSwitch (page : Nat) (ok : Bool) (s : State) : Host.Outcome State Fault Refusal := run s (moveSwitchAt page ok)
def execDmaChunkComplete (ch : Fin 64) (s : State) : Host.Outcome State Fault Refusal := run s (dmaChunk ch.val)
def execDmaRestart (ch onto : Fin 64) (s : State) : Host.Outcome State Fault Refusal := run s (dmaRestart ch.val onto.val)

end Sys2Proof.Machine
end

