-- ==== Sys2Proof/Machine/FlashCmd.lean ====
section
/-!
DEFINITION. Sys2Proof/Machine/FlashCmd.lean: the commands of the flash translation layer and its channels (R241-R254).
-/
namespace Sys2Proof.Machine

/-! ### Programs (R241, R246) -/

/-- Pages of a block that share a word line: one in single-bit mode. -/
def lineOf (p : Pkg) (stream : Nat) : Nat := if singleBit p stream then 1 else Nat.max 1 p.wl

/-- The steps of a shard's journal that the primary's checkpoint at c makes superfluous leave it, with their units in flash; one that is
not yet in flash at both nodes stays in memory (R160). -/
def journalTrim (key : ShardKey) (c : Nat) (n : Node) : Node :=
  match shardFind n key with
  | none => n
  | some s =>
    let need := fun (last : Nat) => (s.steps ++ s.doneSteps).any (fun p => p.step.lastMsn = last && !(p.here && p.there))
    let goes := fun (last : Nat) => decide (last ≤ c) && !need last
    let (gone, rest) := n.ftl.jours.partition (fun j => j.1 = key && goes j.2.1)
    let n := ownRelease (gone.flatMap (fun j => j.2.2)) (ftlMod (fun f => { f with jours := rest }) n)
    shardMod key (fun s => { s with journal := s.journal.filter (fun m => !goes m.lastMsn) }) n

/-- The checkpoint of a shard is complete at c: the previous checkpoint's units are released (R248), and at the primary the journal up
to c (R160). No message of the fabric tells another holder of it: the other holders keep their journals (DESIGN CHOICE, log 166). -/
def ckptDone (k : Ckpt) (n : Node) : Node :=
  let old := (n.ftl.ckpts.filter (fun x => x.key = k.key && x.done)).flatMap (·.units)
  let n := ownRelease (old.filter (fun u => !k.units.contains u)) (ftlMod (fun f => { f with
    ckpts := (f.ckpts.filter (fun x => !(x.key = k.key && x.done))).map (fun x => if x = k then { x with done := true } else x) }) n)
  let n := shardMod k.key (fun s => { s with ckpt := k.c }) n
  match shardFind n k.key with
  | some s => if s.role = 0 then journalTrim k.key k.c n else n
  | none => n

/-- One unit of a shard's checkpoint is in flash; after the last one the record is written, and with it the checkpoint is
complete (R248). -/
def ckptUnit (key : ShardKey) (n : Node) : Node :=
  match n.ftl.ckpts.find? (fun k => k.key = key && !k.done) with
  | none => n
  | some k =>
    if k.left = 0 then ckptDone k n
    else
      let k' := { k with left := k.left - 1 }
      let n := ftlMod (fun f => { f with ckpts := f.ckpts.map (fun x => if x = k then k' else x) }) n
      if k'.left ≠ 0 then n
      else
        let (us, n) := ownWrite 3 none (some key) [bempty] n
        ftlMod (fun f => { f with ckpts := f.ckpts.map (fun x => if x = k' then { x with units := x.units ++ us } else x) }) n

/-- A unit is in flash: the map entry is switched unless a later write stands, and the writer is signalled (R241, R242). -/
def unitInFlash (u : WUnit) (n : Node) : Node :=
  if u.stream = 5 then n
  else
    let newer : Bool := match fmapGet n u.ua with | some m => decide (u.seq < m.seq) | none => false
    let n := if newer then n
      else fmapSet u.ua (some { mstate := 1, blk := u.blk, page := u.page, slot := u.slot, seq := u.seq, tid := u.tid, data := u.data }) n
    let n := ftlCnt 0x12C 1 n
    let n := if streamCode u.stream ≠ 4 then healthAdd 0x48 1 n else n
    let n := match u.jour with
      | some (key, last) => if n.ftl.buf.any (fun x => x.jour = u.jour) then n else stepInFlash key last n
      | none => n
    match u.ckpt with | some key => ckptUnit key n | none => n

/-- A program on a block completes with pass status. -/
def programDone (b : Nat) (n : Node) : Node :=
  let mine := n.ftl.buf.filter (fun u => u.blk = b && u.stage = 1)
  match lleast (fun x y => decide (x < y)) (mine.map (·.page)) with
  | none => n
  | some pg =>
    let p := pkgOf n b
    let k := fblkGet n b
    let line := lineOf p k.stream
    let w := pg / line
    let n := ftlMod (fun f => { f with
      susp := sset 0 f.susp (lunOf b) 0,
      buf := f.buf.map (fun u => if u.blk = b && u.stage = 1 && u.page = pg then { u with stage := 2 } else u) }) n
    if k.next < (w + 1) * line * setSlots p ∨ n.ftl.buf.any (fun u => u.blk = b && u.page / line = w && u.stage ≠ 2) then n
    else
      let ready := n.ftl.buf.filter (fun u => u.blk = b && u.page / line = w)
      let n := ftlMod (fun f => { f with buf := f.buf.filter (fun u => !(u.blk = b && u.page / line = w)) }) n
      ready.foldl (fun n u => unitInFlash u n) n

/-- A program fails: the buffered units go to another block, the failed one is closed, emptied and retired (R246). -/
def programFailed (b : Nat) (n : Node) : Node :=
  let mine := n.ftl.buf.filter (fun u => u.blk = b && u.stage = 1)
  match lleast (fun x y => decide (x < y)) (mine.map (·.page)) with
  | none => n
  | some pg =>
    let n := flashReport .fch (chOf b) 0x02 b 0 pg 0 n
    let n := closeBlock b n
    retire b 0x2C (moveUnits b (replaceUnits b n))

/-! ### Reads (R239, R242, R243) -/

/-- The unit's map page, most recently used. -/
def mapTouch (page : Nat) (n : Node) : Node :=
  ftlMod (fun f => { f with cached := f.cached.filter (fun x => x ≠ page) ++ [page] }) n

def queueRead (ua cls : Nat) (onMap : Bool) (n : Node) : Node :=
  ftlMod (fun f => { f with reads := f.reads ++ [{
    ua := ua, cls := cls, at_ := n.tick, onMap := onMap,
    blk := match fmapGet n ua with | some m => if m.mstate = 1 then m.blk + 1 else 0 | none => 0 }] }) n

/-- A unit read is queued by class; it waits first for its map page where that is not cached. -/
def unitReadReq (ua cls : Nat) (n : Node) : Node :=
  if n.ftl.cached.contains (ua / 512) then
    queueRead ua cls false (ftlCnt 0x118 1 (mapTouch (ua / 512) n))
  else
    let n := if n.ftl.reads.any (fun r => r.onMap && r.ua / 512 = ua / 512) then n else ftlCnt 0x120 1 n
    queueRead ua cls true n

/-- What a read does to the counts and refresh triggers of a block (R245). -/
def readOutcome (b : Nat) (r : ReadEnd) (n : Node) : Node :=
  let limit := rfield n .ftl 0 0x108 31 16 * 1000
  let n := fchCnt (chOf b) 0x10C 1 n
  let n := fblkMod b (fun k => { k with reads := k.reads + 1, due := k.due || decide (limit ≤ k.reads + 1) }) n
  match r with
  | .hard c _ _ =>
    let n := if 0 < c then healthAdd 0x58 1 n else n
    if rfield n .ftl 0 0x108 15 8 < c then fblkMod b (fun k => { k with due := true }) n else n
  | .soft _ _ =>
    let (x, n) := fresh n
    fblkMod b (fun k => { k with due := true }) (healthAdd 0x60 1 (fchCnt (chOf b) 0x11C (1 + x % 8) n))
  | .uncorrectable =>
    fblkMod b (fun k => { k with due := true, uncorr := k.uncorr + 1 }) (fchCnt (chOf b) 0x11C 8 n)

/-- What a read of a unit gives, a slot of another UA or a wrong DATA_CRC counting as uncorrectable (R243). -/
def readJudged (ua : Nat) (r : ReadEnd) : ReadEnd :=
  match r with
  | .hard _ hdr data | .soft hdr data => if slotGood ua hdr data then r else .uncorrectable
  | .uncorrectable => .uncorrectable

/-- A slot read of a unit ends: the first waiting read of the lowest class. -/
def flashRead (ua : Nat) (r : ReadEnd) (n : Node) : Node :=
  match lleast (fun (x y : FRead) => decide (x.cls < y.cls)) (n.ftl.reads.filter (fun x => x.ua = ua && !x.onMap)) with
  | none => n
  | some q =>
    let n := ftlCnt 0x124 1 (ftlMod (fun f => { f with reads := lremoveFirst (fun x => x = q) f.reads }) n)
    match fmapGet n ua with
    | none => n
    | some m =>
      if m.mstate ≠ 1 then n
      else
        let r := readJudged ua r
        let n := readOutcome m.blk r n
        match r with
        | .uncorrectable =>
          flashReport .ftl 0 0x03 m.blk (m.slot / 4) m.page (m.slot % 4) (loseUnit ua n)
        | _ => n

/-- A read has waited SUSPEND_US behind a program or erase on its LUN: at most four suspensions of one operation. -/
def suspendOp (l : Nat) (n : Node) : Node :=
  let waiting := n.ftl.reads.filter (fun r => !r.onMap && (match fmapGet n r.ua with | some m => m.mstate = 1 && lunOf m.blk = l | none => false))
  let busy := n.ftl.buf.any (fun u => lunOf u.blk = l && u.stage = 1) ||
    n.ftl.blocks.any (fun b => lunOf b.1 = l && (match b.2 with | some k => k.state = 4 | none => false) && (validIn n b.1).isEmpty)
  match waiting with
  | [] => n
  | r :: _ =>
    if !busy ∨ 4 ≤ sget 0 n.ftl.susp l then n
    else
      let n := reach (r.at_ + ticksUs (rfield n .ftl 0 0x104 7 0)) n
      fchCnt (l / 32) 0x120 1 (ftlMod (fun f => { f with susp := sset 0 f.susp l (sget 0 f.susp l + 1) }) n)

/-- Map pages that the cache holds. -/
def mapCachePages (n : Node) : Nat := n.ftl.cacheGiB * 262144

/-- The least recently used map page leaves; a dirty one is written first (R239). -/
def mapEvict : Nat → Node → Node
  | 0, n => n
  | k + 1, n =>
    if n.ftl.cached.length ≤ mapCachePages n then n
    else
      match n.ftl.cached with
      | [] => n
      | p :: l =>
        let d := n.ftl.dirty.contains p
        let n := ftlMod (fun f => { f with cached := l, dirty := f.dirty.filter (fun x => x ≠ p) }) n
        mapEvict k (if d then mapPageWrite p n else n)

/-- A map page arrives: the accesses that waited for it proceed. -/
def mapPageIn (p : Nat) (n : Node) : Node :=
  if n.ftl.reads.any (fun r => r.onMap && r.ua / 512 = p) then
    mapEvict 2 (mapTouch p (ftlMod (fun f => { f with
      reads := f.reads.map (fun r => if r.onMap && r.ua / 512 = p then { r with onMap := false } else r) }) n))
  else n

/-! ### Reclaim, wear and refresh (R244-R246) -/

/-- A block of few erases gives its data to one of many, and its erase follows (R244). -/
def wearBlock (b : Nat) (n : Node) : Node := fblkMod b (fun k => { k with state := 4, due := false }) (wearUnits b n)

/-- Empty a block: its valid units move, and its erase follows (R244). -/
def emptyBlock (b : Nat) (n : Node) : Node :=
  fblkMod b (fun k => { k with state := 4, due := false }) (moveUnits b n)

def closedBlocks (n : Node) : List (Nat × FBlk) :=
  n.ftl.blocks.filterMap (fun x => match x.2 with | some k => if k.state = 2 then some (x.1, k) else none | none => none)

/-- RECLAIM: the closed block with the fewest valid units, among equals the one written longest ago; and where erase
counts differ by more than SPREAD, the data of the least-erased block moves too. -/
def reclaimOne (n : Node) : Node :=
  if !poolFormatted n then n
  else
    let cs := closedBlocks n
    match lleast (fun a b => decide ((validIn n a.1).length < (validIn n b.1).length) ||
        ((validIn n a.1).length = (validIn n b.1).length && decide (a.2.closed < b.2.closed))) cs with
    | none => n
    | some (b, _) =>
      let spread := rfield n .ftl 0 0x110 15 0
      let most := nmaxl (n.ftl.blocks.map (fun x => match x.2 with | some k => if k.state = 3 then 0 else k.erases | none => 0))
      let n := emptyBlock b n
      match lleast (fun (a b : Nat × FBlk) => decide (a.2.erases < b.2.erases)) (cs.filter (fun x => x.1 ≠ b)) with
      | some (w, k) => if k.erases + spread < most then wearBlock w n else n
      | none => n

/-- A block's erase ends (R246); it is issued once nothing valid is left and every read against it is over. -/
def eraseDone (b : Nat) (ok : Bool) (n : Node) : Node :=
  let k := fblkGet n b
  let pending := n.ftl.reads.any (fun r => r.blk = b + 1)
  if k.state ≠ 4 ∨ !(validIn n b).isEmpty ∨ pending then n
  else
    let n := fchCnt (chOf b) 0x118 1 (ftlMod (fun f => { f with susp := sset 0 f.susp (lunOf b) 0 }) n)
    if ok then fblkSet b { fblkNew with erases := k.erases + 1 } n
    else retire b 0x28 (flashReport .fch (chOf b) 0x01 b 0 0 0 n)

/-- A block reaches a refresh trigger (R245); with a second uncorrectable slot it is retired (R246). -/
def refreshBlock (b : Nat) (n : Node) : Node :=
  let k := fblkGet n b
  let readsDue := decide (rfield n .ftl 0 0x108 31 16 * 1000 ≤ k.reads)
  let heldDue := decide (k.held + ticksS (86400 * rfield n .ftl 0 0x108 7 0) ≤ powered n)
  if (k.state ≠ 1 ∧ k.state ≠ 2) ∨ !(readsDue || heldDue || k.due || decide (0 < k.uncorr)) ∨ !poolFormatted n then n
  else
    let n := closeBlock b (ftlCnt 0x138 1 n)
    let n := healthAdd (if readsDue then 0x70 else if k.due || decide (0 < k.uncorr) then 0x78 else 0x80) 1 n
    if 2 ≤ k.uncorr then retire b 0x30 (moveUnits b (replaceUnits b n)) else emptyBlock b n

/-- One page of a closed block is read after power-up. -/
def scanBlock (b : Nat) (r : ReadEnd) (n : Node) : Node :=
  let k := fblkGet n b
  if k.state ≠ 2 ∨ k.scanned then n
  else readOutcome b r (fblkMod b (fun k => { k with scanned := true }) n)

/-- A LUN is taken out of the pool whole: its units become LOST (R246). -/
def lunOut (l : Nat) (n : Node) : Node :=
  if n.ftl.lunOut.contains l then n
  else
    let p := pkgOf n (l * 2 ^ 17)
    let n := fchCnt (l / 32) 0x124 1 (flashReport .ftl 0 0x04 (l * 2 ^ 17) 0 0 0 n)
    let n := ftlMod (fun f => { f with
      lunOut := f.lunOut ++ [l], opens := f.opens.filter (fun x => lunOf (x.2 - 1) ≠ l),
      resv := f.resv.filterMap (fun x => match x.2.filter (fun b => lunOf b ≠ l) with | [] => none | r => some (x.1, r)) }) n
    let bs := (n.ftl.blocks.map (·.1)).filter (fun b => lunOf b = l)
    let n := bs.foldl (fun n b => replaceUnits b n) n
    let n := bs.foldl (fun n b => (validIn n b).foldl (fun n u => loseUnit u.1 n) (fblkMod b (fun k => { k with state := 3 }) n)) n
    let n := healthAdd 0x34 p.blocks (ftlCnt 0x13C p.blocks n)
    if n.ftl.spareNow < p.blocks then goReadOnly (l * 2 ^ 17) (ftlMod (fun f => { f with spareNow := 0 }) n)
    else
      let n := ftlMod (fun f => { f with spareNow := f.spareNow - p.blocks }) n
      if n.ftl.pool = 2 ∧ n.ftl.spareNow * 100 < rfield n .ftl 0 0x110 23 16 * n.ftl.spareInit then
        flashReport .ftl 0 0x07 (l * 2 ^ 17) 0 0 0 (ftlMod (fun f => { f with pool := 3 }) n)
      else n

/-! ### Checkpoints (R248, R249) -/

/-- Memory-homed pages of a shard's objects that were written since its last mark. -/
def changedPages (n : Node) (key : ShardKey) : List Nat :=
  n.mmu.changed.filter (fun p =>
    (match objOf n p with | some o => o.key = key && o.what ≤ 8 | none => false) &&
    (match ptGet n p with | some e => e.home ≠ 3 | none => false))

def markOf (n : Node) (key : ShardKey) : Nat :=
  match n.ftl.marks.find? (fun m => m.1 = key) with | some m => m.2 | none => 0

def markSet (key : ShardKey) (t : Nat) (n : Node) : Node :=
  ftlMod (fun f => { f with marks := f.marks.filter (fun m => m.1 ≠ key) ++ [(key, t)] }) n

/-- Delta pages of a shard, as places of its reservation, in which a row differs from the last complete checkpoint's. -/
def changedDelta (n : Node) (s : Shard) (rows : Sparse Nat) : List Nat :=
  let old := match n.ftl.ckpts.find? (fun k => k.key = s.key && k.done) with | some k => k.rows | none => []
  (List.range s.pages.length).filter (fun j =>
    (List.range 64).any (fun r => sget emptyRow rows (64 * j + r) ≠ sget emptyRow old (64 * j + r)))

/-- A checkpoint mark: c is the committed MSN; the pages changed since the last checkpoint are written as they stand. -/
def ckptMark (key : ShardKey) (room : Bool) (n : Node) : Node :=
  match shardFind n key with
  | none => n
  | some s =>
    if !poolFormatted n then n
    else if !room then markSet key n.tick (ftlMod (fun f => { f with postponed := f.postponed + 1 }) n)
    else
      let ps := changedPages n key
      let rows := (List.range s.drows.length).foldl (fun m i => sset emptyRow m i (openRow n (physRow s i))) []
      let units := 16 * (ps.length + (changedDelta n s rows).length)
      let k : Ckpt := { key := key, c := s.committed, left := units, done := false, units := [], image := s, rows := rows }
      let n := { n with mmu := { n.mmu with changed := n.mmu.changed.filter (fun p => !ps.contains p) } }
      let left := (n.ftl.ckpts.filter (fun x => x.key = key && !x.done)).flatMap (·.units)
      let n := ownRelease left (ftlMod (fun f => { f with
        ckpts := f.ckpts.filter (fun x => !(x.key = key && !x.done)) ++ [k],
        buf := f.buf.map (fun u => if u.ckpt = some key then { u with ckpt := none } else u) }) n)
      let (us, n) := ownWrite 3 none (some key) (List.replicate (if units = 0 then 1 else units) bempty) (markSet key n.tick n)
      ftlMod (fun f => { f with ckpts := f.ckpts.map (fun x => if x = k then { x with units := us } else x) }) n

/-- Journal bytes of a shard since its last checkpoint. -/
def journalBytes (s : Shard) : Nat := nsum ((s.journal.filter (fun m => s.ckpt < m.lastMsn)).map (fun m => (stepImage m).len))

/-- The health log of a moment (R254): counters kept, with the pool's figures. -/
def healthNow (n : Node) : Sparse Nat :=
  let h := n.ftl.health
  let es := n.ftl.blocks.filterMap (fun x => x.2.map (fun k => k.erases + n.ftl.formats))
  let p := (n.ftl.pkgs.filterMap (·.2)).head?
  let total := nsum (n.ftl.pkgs.filterMap (fun x => x.2.map (fun k => k.luns * k.blocks)))
  let mean := if total = 0 then 0 else (nsum (es.map (fun e => e - n.ftl.formats)) + total * n.ftl.formats) / total
  let rated := match p with | some p => p.rated | none => 0
  let raw := nsum (n.ftl.pkgs.filterMap (fun x => x.2.map (fun k => k.luns * k.blocks * k.planes * k.pages * 16384)))
  [(0x00, 0x10000 + n.ftl.pool * 256 + n.ftl.reserve), (0x08, raw), (0x10, n.mmu.capFlash), (0x18, n.ftl.spareInit),
   (0x20, n.ftl.spareNow), (0x38, mean), (0x3C, Nat.max (nmaxl es) n.ftl.formats), (0x40, rated),
   (0x44, if rated = 0 then 0 else Nat.min 65535 (100 * mean / rated))].foldl (fun h x => sset 0 h x.1 x.2) h

/-- A root is written, alternately to the two root blocks (R249). -/
def rootWrite (n : Node) : Node :=
  let secs := (n.tick - n.ftl.rootAt) / ticksS 1
  let n := reserveBlocks (healthAdd 0x98 secs n)
  let opens := n.ftl.opens.map (fun x => (x.2 - 1, (fblkGet n (x.2 - 1)).next))
  let r : Root := { ckptSeq := n.ftl.ckptSeq + 1, seq := n.ftl.seq, pool := n.ftl.pool, reserve := n.ftl.reserve,
                    health := healthNow n, opens := opens, resv := n.ftl.resv, map := n.ftl.map }
  ftlMod (fun f => { f with
    ckptSeq := f.ckptSeq + 1, roots := lpushMax 2 f.roots r, rootAt := f.rootAt + secs * ticksS 1 }) n

/-- MAP_CHECKPOINT: dirty map pages and the directory through the MAP stream, then the root. -/
def mapCkpt (n : Node) : Node :=
  if n.ftl.pool = 2 ∨ n.ftl.pool = 3 then
    let d := n.ftl.dirty
    let n := d.foldl (fun n p => mapPageWrite p n) (ftlMod (fun f => { f with dirty := [] }) n)
    rootWrite (ownWrite 1 none none [bempty] n).2
  else if n.ftl.pool = 4 then rootWrite n
  else n

/-! ### Format (R253) and temperatures (R254) -/

/-- Logical frames and spare blocks of the accepted packages at a RESERVE_PCT (R237). -/
def poolShape (n : Node) (reserve : Nat) : Nat × Nat :=
  let luns := poolLuns n
  let p := match luns with | l :: _ => pkgOf n (l * 2 ^ 17) | [] => { luns := 0, planes := 1, blocks := 0, pages := 0, wl := 1, single := true, rated := 0 }
  let blocks := luns.length * p.blocks
  let perBlock := p.pages * setSlots p
  let raw := blocks * perBlock * 4096
  let frames := raw * (100 - reserve) / 100 / 65536
  let mapBlocks := if perBlock = 0 then 0 else (frames * 16 / 512 + perBlock) / perBlock
  let retired := (n.ftl.blocks.filter (fun x => match x.2 with | some k => k.state = 3 && !n.ftl.lunOut.contains (lunOf x.1) | none => false)).length
  (frames, blocks * (reserve - 3) / 100 - mapBlocks - 2 - retired)

/-- The node holds a shard, table or encoder role in the applied map. -/
def holdsAnyRole (n : Node) : Bool :=
  n.map.shards.any (holdsRole n.nodeId) ||
  n.map.tables.any (fun r => (r.home.toList ++ r.partner.toList).any (fun p => p.node = n.nodeId)) ||
  !n.encoders.isEmpty

/-- A write of FTL_FORMAT. -/
def ftlFormat (v : Word) (n : Node) : Node :=
  let pct := wbits v 7 0
  let ok := wbits v 31 16 = 0xF1A5 && decide (7 ≤ pct) && decide (pct ≤ 28) &&
    (!holdsAnyRole n || n.ftl.pool = 0 || n.ftl.pool = 5)
  if !ok then flashReport .ftl 0 0x0A 0 0 0 0 n
  else
    let (frames, spares) := poolShape n pct
    let n := ftlMod (fun f => { f with
      pool := 2, reserve := pct, map := [], buf := [], opens := [], resv := [], jours := [], reads := [], cached := [], dirty := [],
      blocks := f.blocks.filterMap (fun x => match x.2 with
        | some k => if k.state = 3 then some x else some (x.1, some { fblkNew with erases := k.erases })
        | none => none),
      susp := [], spareInit := spares, spareNow := spares, oldRetired := retiredBlocks n, ckpts := [], marks := [], roots := [], formats := f.formats + 1 }) n
    { n with mmu := { n.mmu with capFlash := frames } }

/-- The band of a temperature in the health log. -/
def tempBand (t : Nat) : Nat :=
  if t < 40 then 0 else if t < 55 then 1 else if t < 70 then 2 else if t < 80 then 3 else if t < 90 then 4 else 5

/-- Every second the package temperatures are read: one hottest value for each channel. -/
def temperatures (ts : List Nat) (n : Node) : Node :=
  let ts := ts.take 32
  let n := ftlMod (fun f => { f with
    temps := ts, tempTop := (List.range 32).map (fun i => Nat.max (f.tempTop.getD i 0) (ts.getD i 0)) }) n
  let n := (List.range ts.length).foldl (fun n i => healthSet (0xD0 + i) (Nat.max (sget 0 n.ftl.health (0xD0 + i)) (ts.getD i 0)) n) n
  healthAdd (0xA0 + 8 * tempBand (nmaxl ts)) 1 n

/-! ### The commands -/

def execUnitWrite (ua : Nat) (stream : Stream) (tid : Nat) (data : Blob) (s : State) : Host.Outcome State Fault Refusal :=
  run s (fun n => (unitWrite ua (streamNo stream) tid data none none n).2)

def execPageSetFlush (stream : Stream) (s : State) : Host.Outcome State Fault Refusal := run s (flushStream (streamNo stream))
def execFillerTimeout (stream : Stream) (s : State) : Host.Outcome State Fault Refusal := run s (fillWordLine (streamNo stream))
def execProgramComplete (block : BlockId) (s : State) : Host.Outcome State Fault Refusal := run s (programDone (codeOf block))
def execProgramFail (block : BlockId) (s : State) : Host.Outcome State Fault Refusal := run s (programFailed (codeOf block))
def execUnitRead (ua cls : Nat) (s : State) : Host.Outcome State Fault Refusal := run s (unitReadReq ua cls)
def execFlashReadComplete (ua : Nat) (r : ReadEnd) (s : State) : Host.Outcome State Fault Refusal := run s (flashRead ua r)

def execSuspendTimeout (ch : Fin 32) (ce : Fin 8) (lun : Fin 4) (s : State) : Host.Outcome State Fault Refusal :=
  run s (suspendOp ((ch.val * 8 + ce.val) * 4 + lun.val))

def execMapPageReadComplete (page : Nat) (s : State) : Host.Outcome State Fault Refusal := run s (mapPageIn page)
def execReclaim (s : State) : Host.Outcome State Fault Refusal := run s reclaimOne
def execEraseComplete (block : BlockId) (ok : Bool) (s : State) : Host.Outcome State Fault Refusal := run s (eraseDone (codeOf block) ok)
def execBlockRefresh (block : BlockId) (s : State) : Host.Outcome State Fault Refusal := run s (refreshBlock (codeOf block))

def execPowerUpReadScan (block : BlockId) (r : ReadEnd) (s : State) : Host.Outcome State Fault Refusal :=
  run s (scanBlock (codeOf block) r)

def execLunTimeout (ch : Fin 32) (ce : Fin 8) (lun : Fin 4) (s : State) : Host.Outcome State Fault Refusal :=
  run s (lunOut ((ch.val * 8 + ce.val) * 4 + lun.val))

/-- CKPT_S has passed since the shard's last mark, or CKPT_GIB of journal has accumulated (R248). -/
def execShardCheckpoint (key : ShardKey) (room : Bool) (s : State) : Host.Outcome State Fault Refusal :=
  run s (fun n =>
    let full : Bool := match shardFind n key with
      | some sh => decide (rfield n .ftl 0 0x10C 15 8 * 2 ^ 30 ≤ journalBytes sh)
      | none => false
    ckptMark key room (if full then n else reach (markOf n key + ticksS (rfield n .ftl 0 0x10C 31 16)) n))

/-- Every MAP_CKPT_S (R249). -/
def execMapCheckpoint (s : State) : Host.Outcome State Fault Refusal := run s mapCkpt

/-- ZQ calibration trims drivers only: it leaves no architectural state (R235). -/
def execZqCalibration (_ch : Fin 32) (s : State) : Host.Outcome State Fault Refusal := run s (fun n => n)

def execFtlFormat (v : Word) (s : State) : Host.Outcome State Fault Refusal := run s (ftlFormat v)
def execPackageTemperatureRead (temps : List Nat) (s : State) : Host.Outcome State Fault Refusal := run s (temperatures temps)

/-- A mark postponed by 1 s is tried again (R248). -/
def execPostponedMark (key : ShardKey) (room : Bool) (s : State) : Host.Outcome State Fault Refusal :=
  run s (fun n => ckptMark key room (reach (markOf n key + ticksS 1) n))

end Sys2Proof.Machine
end

