-- ==== Sys2Proof/Machine/Link.lean ====
section
/-!
DEFINITION. Sys2Proof/Machine/Link.lean: lanes and links (R257-R261), routes lost with a link (R268, R269, R274), and the
timeouts of messages that expect a reply.
-/
namespace Sys2Proof.Machine

def laneNew : Lane := { state := 0, link := none, pos := 0, rate := 0, peer := 0, peerLane := 0 }

def laneGet (n : Node) (i : Nat) : Lane := (sget none n.lanes i).getD laneNew
def laneSet (i : Nat) (l : Lane) (n : Node) : Node :=
  { n with lanes := sset none n.lanes i (if l = laneNew then none else some l) }

def linkNew : Link :=
  { state := 0, cabled := [], active := [], spare := none, peer := 0xFFF, serial := 0, compat := 0, rxSeq := 0, acked := 0,
    replays := 0, credits := [], heard := 0 }

def linkGet (n : Node) (i : Nat) : Option Link := sget none n.links i
def linkSet (i : Nat) (l : Link) (n : Node) : Node := { n with links := sset none n.links i (some l) }
def linkMod (i : Nat) (f : Link → Link) (n : Node) : Node :=
  match linkGet n i with | some l => linkSet i (f l) n | none => n

/-- A PL report (R288). -/
def plReport (lane code link peer : Nat) (n : Node) : Node :=
  report .pl lane code (link % 128 + peer % 4096 * 2 ^ 16) 0 n

/-- Link-level counters stand on the page of the position-0 lane (R287). -/
def linkCnt (i off : Nat) (n : Node) : Node :=
  match linkGet n i with
  | some l => (match l.cabled with | p :: _ => bump (regAddr .pl p off) 1 n | [] => n)
  | none => n

def headLane (l : Link) : Nat := match l.cabled with | p :: _ => p | [] => 0

/-- LINK_STATE by the lanes that run (R258). -/
def linkState (l : Link) : Nat :=
  if l.active.isEmpty then 0 else if l.active.length < l.cabled.length then 3 else 2

/-- The cabling table's entry of a lane, with its position. -/
def cableOf (n : Node) (lane : Nat) : Option (Cable × Nat) :=
  (n.cabling.filterMap (fun c => (c.lanes.findIdx? (fun l => l = lane)).map (fun p => (c, p)))).head?

def spareOf (n : Node) (lane : Nat) : Option Cable := n.cabling.find? (fun c => c.spare = some lane)

/-- The link of a lane that trained without a cabling table: the one to the same peer, or the lowest unused id (R257). -/
def freeLink (n : Node) (serial : BitVec 128) : Nat :=
  match (n.links.find? (fun x => match x.2 with | some l => l.serial = serial && l.cabled.length < 16 | none => false)) with
  | some x => x.1
  | none => ((List.range 128).find? (fun i => (linkGet n i).isNone)).getD 127

/-- A lane joins a link at a position. -/
def laneJoin (lane link pos : Nat) (cabled : List Nat) (spare : Option Nat) (info : LaneInfo) (n : Node) : Node :=
  let l := (linkGet n link).getD linkNew
  let level := Nat.min 3 info.peerCompat
  let l := { l with
    cabled := cabled, spare := spare, active := lsort (fun a b => decide (cabled.findIdx (· = a) < cabled.findIdx (· = b)))
      (l.active.filter (fun x => x ≠ lane) ++ [lane]),
    peer := info.peerNode.toNat, serial := info.peerSerial, compat := level, heard := n.tick }
  laneSet lane { state := 2, link := some link, pos := pos, rate := if level = 1 then 1 else 2, peer := info.peerNode.toNat, peerLane := info.peerLane }
    (linkSet link { l with state := linkState l } n)

/-- A cabled lane's training ends (R258). -/
def laneTrain (lane : Nat) (info : LaneInfo) (n : Node) : Node :=
  let cur := laneGet n lane
  if cur.state = 4 ∨ cur.state = 5 ∨ cur.state = 2 then n
  else
    match cableOf n lane with
    | some (c, pos) =>
      if !info.ok then plReport lane 0x04 c.link 0xFFF (laneSet lane { laneNew with link := some c.link, pos := pos } n)
      else if info.peerSerial ≠ c.serial ∨ info.peerLane ≠ c.peers.getD pos 0xFF then
        plReport lane 0x05 c.link info.peerNode.toNat
          (laneSet lane { laneNew with state := 6, link := some c.link, pos := pos, peer := info.peerNode.toNat, peerLane := info.peerLane } n)
      else laneJoin lane c.link pos c.lanes c.spare info n
    | none =>
      if !n.cabling.isEmpty ∨ 128 ≤ lane then n
      else if !info.ok then plReport lane 0x04 0 0xFFF (laneSet lane laneNew n)
      else
        let link := freeLink n info.peerSerial
        let old := match linkGet n link with | some l => l.cabled | none => []
        laneJoin lane link old.length (old.filter (fun x => x ≠ lane) ++ [lane]) none info n

/-- Take a lane out of its link. -/
def laneLeave (lane : Nat) (n : Node) : Node :=
  match (laneGet n lane).link with
  | none => n
  | some k => linkMod k (fun l => let l := { l with active := l.active.filter (fun x => x ≠ lane) }; { l with state := linkState l }) n

/-- Messages of this node to the peer of a lost link that were not yet acknowledged are sent again whole over another
route; which of those that still await their reply had not been acknowledged is left open (R269). -/
def resendUnacked (peer : Nat) (n : Node) : Node :=
  let n := n.awaits.foldl (fun n a =>
    if a.dst ≠ peer then n
    else let (x, n) := fresh n; if x % 2 = 0 then sendTag a.dst a.tag a.m n else n) n
  n.reqs.foldl (fun n r => r.subs.foldl (fun n s =>
    if s.dst ≠ peer ∨ s.state ≠ 0 ∨ !s.sent then n
    else let (x, n) := fresh n; if x % 2 = 0 then sendTag s.dst s.tag s.msg n else n) n) n

/-- A link runs on no lane: it is DOWN, its lanes train again, and its peer may be suspected (R258, R274). -/
def linkLost (link : Nat) (n : Node) : Node :=
  match linkGet n link with
  | none => n
  | some l =>
    let n := plReport (headLane l) 0x03 link l.peer n
    let n := l.active.foldl (fun n i => laneSet i { laneGet n i with state := 1, rate := 0 } n) n
    let n := linkSet link { l with state := 0, active := [], rxSeq := 0, acked := 0, replays := 0, credits := [] } n
    let others := n.links.any (fun x => x.1 ≠ link && (match x.2 with | some y => y.peer = l.peer && (y.state = 2 || y.state = 3) | none => false))
    let n := if !others && isMember n l.peer && !isFenced n l.peer && l.peer ≠ n.nodeId.toNat
      then suspectNode (BitVec.ofNat 12 l.peer) .linkDown n else n
    resendUnacked l.peer n

/-- A control flit tells the peer from which SEQ on the link runs over other lanes (R261); which SEQ is the node's choice (log 77). -/
def widthChange (link : Nat) (n : Node) : Node := let (x, n) := fresh n; emit (.linkCtl link 3 (x % 4096)) n

/-- A lane fails: the link narrows and its idle spare starts to train (R261). -/
def laneFailed (lane : Nat) (n : Node) : Node :=
  let cur := laneGet n lane
  if cur.state ≠ 2 then n
  else
    let k := cur.link.getD 0
    let n := plReport lane 0x01 k cur.peer (laneLeave lane (laneSet lane { cur with state := 4, rate := 0 } n))
    match linkGet n k with
    | none => n
    | some l =>
      let n := if l.active.isEmpty then linkLost k n else widthChange k n
      match l.spare with
      | some sp => if (laneGet n sp).state = 3 then laneSet sp { laneGet n sp with state := 1 } n else n
      | none => n

/-- The spare lane's training ends: it takes the position of the failed lane (R261). -/
def spareTrained (lane : Nat) (info : LaneInfo) (n : Node) : Node :=
  let cur := laneGet n lane
  match spareOf n lane with
  | none => n
  | some c =>
    if cur.state ≠ 1 then n
    else if !info.ok then plReport lane 0x04 c.link 0xFFF (laneSet lane { cur with state := 0 } n)
    else if info.peerSerial ≠ c.serial ∨ info.peerLane ≠ c.peerSpare then
      plReport lane 0x05 c.link info.peerNode.toNat (laneSet lane { cur with state := 6 } n)
    else
      let l := (linkGet n c.link).getD linkNew
      let pos := ((List.range c.lanes.length).find? (fun p => !l.active.contains (c.lanes.getD p 0))).getD 0
      let l := { l with active := l.active ++ [lane], heard := n.tick }
      let n := laneSet lane { state := 2, link := some c.link, pos := pos, rate := if l.compat = 1 then 1 else 2, peer := info.peerNode.toNat, peerLane := info.peerLane }
        (linkSet c.link { l with state := linkState l } n)
      plReport lane 0x02 c.link info.peerNode.toNat (linkCnt c.link 0x128 (widthChange c.link n))

/-- A flit replayed 8 times without acknowledgement: the link retrains (R259). -/
def retryLimit (link : Nat) (n : Node) : Node :=
  match linkGet n link with
  | none => n
  | some l =>
    if l.state ≠ 2 ∧ l.state ≠ 3 then n
    else
      let n := plReport (headLane l) 0x06 link l.peer n
      let n := l.active.foldl (fun n i => laneSet i { laneGet n i with state := 1, rate := 0 } n) n
      linkSet link { l with state := 1, active := [], replays := 0, rxSeq := 0, acked := 0, credits := [] } n

/-- A link silent for LINK_DOWN_US goes DOWN (R274). -/
def linkSilent (link : Nat) (n : Node) : Node :=
  match linkGet n link with
  | none => n
  | some l =>
    if l.state = 0 then n else linkLost link (reach (l.heard + ticksUs (rfield n .frt 0 0x10C 15 0)) n)

/-- A write of PL_CTRL (R261, R287). -/
def plCtrl (lane : Nat) (v : Word) (n : Node) : Node :=
  let n := regPut (regAddr .pl lane 0x104) (v &&& w32 0x8000FFFF) n
  let cur := laneGet n lane
  if v.toNat.testBit 31 then
    let n := laneLeave lane (laneSet lane { cur with state := 5, rate := 0 } n)
    match cur.link with
    | some k => (match linkGet n k with | some l => if l.active.isEmpty && cur.state = 2 then linkLost k n else n | none => n)
    | none => n
  else if cur.state = 4 ∨ cur.state = 5 then
    laneSet lane { cur with state := if (spareOf n lane).isSome then 3 else 1 } n
  else n

/-- Training starts on every cabled lane at power-up; spare lanes stand by (R257, R258). -/
def trainLanes (n : Node) : Node :=
  let n := { n with lanes := [], links := [] }
  let used := if n.cabling.isEmpty then List.range 128 else n.cabling.flatMap (·.lanes)
  let n := used.foldl (fun n i =>
    match cableOf n i with
    | some (c, pos) => laneSet i { laneNew with state := 1, link := some c.link, pos := pos } n
    | none => laneSet i { laneNew with state := 1 } n) n
  let n := n.cabling.foldl (fun n c => linkSet c.link { linkNew with state := 1, cabled := c.lanes, spare := c.spare, serial := c.serial } n) n
  n.cabling.foldl (fun n c => match c.spare with
    | some sp => laneSet sp { laneNew with state := 3, link := some c.link } n
    | none => n) n

/-! ### Flits (R259) -/

/-- Bytes of a flit on a link: 128 at level 1 (R260). -/
def flitSize (l : Link) : Nat := if l.compat = 1 then 128 else 256

/-- The header in the first 8 bytes of a flit. -/
def flitHdr (d : Blob) : FlitHdr :=
  let w := BitVec.ofNat 64 (bnum d 0 8)
  { seq := w.extractLsb' 52 12, ackSeq := w.extractLsb' 40 12, nak := w.getLsbD 39, cls := w.extractLsb' 36 3, som := w.getLsbD 35,
    eom := w.getLsbD 34, creditClass := w.extractLsb' 30 4, credits := w.extractLsb' 18 12 }

/-- The CRC-32C in a flit's last 4 bytes is that of its header and payload (R259, R260). -/
def flitCrcOk (l : Link) (d : Blob) (crc : Word) : Bool := d.len + 4 = flitSize l && crc.toNat = crc32c d

/-- A flit arrives on a running link: header and payload, and the CRC behind them. -/
def flitIn (link : Nat) (d : Blob) (crc : Word) (n : Node) : Node :=
  match linkGet n link with
  | none => n
  | some l =>
    if l.state ≠ 2 ∧ l.state ≠ 3 then n
    else
      let n := linkSet link { l with heard := n.tick } n
      let h := flitHdr d
      if !flitCrcOk l d crc then emit (.linkCtl link 1 l.rxSeq) (linkCnt link 0x120 n)
      else if h.seq.toNat ≠ (l.rxSeq + 1) % 4096 then emit (.linkCtl link 1 l.rxSeq) n
      else
        let moved := h.ackSeq.toNat ≠ l.acked
        let cr := h.creditClass.toNat
        let l := { l with
          rxSeq := h.seq.toNat, acked := h.ackSeq.toNat, heard := n.tick,
          replays := if h.nak then (if moved then 1 else l.replays + 1) else if moved then 0 else l.replays,
          credits := sset 0 l.credits cr (sget 0 l.credits cr + h.credits.toNat) }
        let n := linkSet link l n
        if h.nak then emit (.linkCtl link 2 ((h.ackSeq.toNat + 1) % 4096)) (linkCnt link 0x124 n) else n

/-- An idle link sends a control flit at least every 1 µs. -/
def idleFlit (link : Nat) (n : Node) : Node :=
  match linkGet n link with
  | none => n
  | some l => if l.state = 2 ∨ l.state = 3 then emit (.linkCtl link 0 l.rxSeq) n else n

/-! ### Timeouts of messages that expect a reply (R269, R274, R337) -/

/-- Ticks until a message that expects a reply times out. -/
def msgTimeout (m : Msg) : Nat :=
  match (msgClass m).1 with | 0 => ticksUs 200 | 5 => ticksMs 1 | _ => ticksUs 50

/-- Poisoned words of a byte range are whole again. -/
def unpoison (addr len : Nat) (n : Node) : Node :=
  { n with poison := n.poison.filter (fun w => !(addr ≤ 4 * w + 3 && 4 * w < addr + len)) }

/-- The objects of one item as its stored vector gives them: the full-vector record and the product code (R37, R337). -/
def restoreItem (key : ShardKey) (g : IdxGen) (lid : Nat) (full : Blob) (n : Node) : Node :=
  match shardFind n key with
  | none => n
  | some s =>
    let size := fullSize (gFullFmt g) (gDim g)
    let n : Node := storeBytes (fullAddr g s lid) size g.owner (shardMod key (fun s => { s with full := sset 0 s.full lid full.bits }) n)
    let n : Node := unpoison (fullAddr g s lid) size n
    match g.codebook with
    | some book =>
      if sget 0 s.code lid = 0 ∧ !poisoned n (codeAddr g s lid) (gM g / 2) then n
      else
        let c := encodePQVec book (gM g) (gWidth g) (fullValues (gFullFmt g) (gDim g) full.bits)
        unpoison (codeAddr g s lid) (gM g / 2) (shardMod key (fun s => { s with code := sset 0 s.code lid c }) n)
    | none => n

/-- A lost level-0 block is written again from a folding pass (R337): the item's levels and MSN as the shard still tells them, its
neighbours firmware's choice. -/
def relink (key : ShardKey) (g : IdxGen) (lid : Nat) (n : Node) : Node :=
  match shardFind n key with
  | none => n
  | some s =>
    let (x, n) := fresh n
    let (y, n) := fresh n
    let msn := match (s.drows.flatMap (·.ents)).find? (fun e => e.2 = lid), (s.journal.flatMap (·.recs)).find? (fun r => r.lid = lid && r.kind ≠ 2) with
      | some e, _ => e.1
      | none, some r => r.msn
      | none, none => y % (s.committed + 1)
    let ups := (s.upper.filter (fun u => blkOwner u.2 = lid)).map (·.1)
    let others := s.idmap.map (·.1)
    let ns := okNbrs g s lid (((List.range others.length).zip others).filterMap (fun o => if nbit x o.1 then some o.2 else none))
    let n := memWrite (adjAddr s lid) 256 (shardMod key (fun s => { s with
      adj := sset 0 s.adj lid (blk0Mk msn false true ups.length (ups.headD 0) ns) }) n)
    unpoison (adjAddr s lid) 256 n

/-- The page of the block that holds an address (R357). -/
def lostPage (n : Node) (addr : Nat) : Nat :=
  match ptGet n (tpage addr) with
  | some e => if e.home = 3 then pageOf .ftl 0 else pageOf (eccBlock e addr).1 (eccBlock e addr).2
  | none => pageOf .mmu 0

/-- No source holds the data of an address: RESTORE_FAILED. -/
def restoreFailed (addr : Nat) (n : Node) : Node := report .recb 0 0x05 (lostPage n addr) 0 n

/-- The state of a shard whose objects are whole (R62). -/
def stateWhole (n : Node) (s : Shard) : Nat :=
  let newer := match currentGen n.map s.key.handle with | some c => c ≠ s.key.gen && s.key.gen ≠ nextGen c | none => false
  if newer then 3
  else if (genFind n s.key.handle s.key.gen).any (fun g => g.codebook.isNone) then 2
  else if s.idmap.isEmpty then 0 else 1

/-- The objects of a shard are whole again: it leaves REBUILDING (R62). -/
def wholeAgain (key : ShardKey) (n : Node) : Node :=
  match shardFind n key with
  | none => n
  | some s =>
    let bad := n.mmu.objs.any (fun o => o.key = key && poisoned n (o.base * 65536) (o.pages * 65536)) || s.drows.any (·.bad)
    if s.state ≠ 4 || bad || rebuildOut n key then n
    else shardMod key (fun s => { s with state := stateWhole n s }) n

/-- What other holders do not give is derived from what is here (R337): a code from the stored vector, a level-0 block by a folding
pass, a key slot from the id map. -/
def restoreLocal (key : ShardKey) (lid : Nat) (n : Node) : Node :=
  match shardFind n key, genFind n key.handle key.gen with
  | some s, some g =>
    let size := fullSize (gFullFmt g) (gDim g)
    let full := fullAddr g s lid
    let fullOk := s.full.any (fun e => e.1 = lid) && !poisoned n full size
    let n := if fullOk then restoreItem key g lid { len := size, bits := sget 0 s.full lid } n else restoreFailed full n
    let n := if poisoned n (codeAddr g s lid) (gM g / 2) then restoreFailed (codeAddr g s lid) n else n
    let n := if poisoned n (adjAddr s lid) 256 then relink key g lid n else n
    let n := if poisoned n (attrAddr s lid) 16 then restoreFailed (attrAddr s lid) n else n
    let n := if poisoned n (idmapAddr s lid) 16 then restoreFailed (idmapAddr s lid) n
      else match keyFind s (idmapKey (sget 0 s.idmap lid)) with
        | some (i, l) => if l = lid then unpoison (keyidxAddr s i) 16 n else n
        | none => n
    wholeAgain key n
  | _, _ => n

/-- A rebuild read that a holder does not answer goes to the next one; with none left, what this node holds is the source (R337). -/
def askNext (dst : Nat) (m : RebuildReadMsg) (n : Node) : Node :=
  let l := otherHolders n m.key
  match (if l.contains dst then (l.dropWhile (fun x => x ≠ dst)).drop 1 else l) with
  | d :: _ => sendAwait d (.rebuildRead m) n
  | [] => wholeAgain m.key (m.lids.foldl (fun n l => restoreLocal m.key l n) n)

/-- An awaited reply does not come: three MAP timeouts in a row raise a suspicion; a rebuild read goes to the next holder,
and with none left what this node holds is the source. -/
def messageTimeout (tag : Nat) (n : Node) : Node :=
  let (a, n) := awaitTake tag n
  match a with
  | none => n
  | some a =>
    let n := reach (a.at_ + msgTimeout a.m) n
    if (msgClass a.m).1 = 0 then
      let k := sget 0 n.mapTimeouts a.dst + 1
      let n := { n with mapTimeouts := sset 0 n.mapTimeouts a.dst (if 3 ≤ k then 0 else k) }
      if 3 ≤ k then suspectNode (BitVec.ofNat 12 a.dst) .mapTimeouts n else n
    else
      match a.m with
      | .rebuildRead m => askNext a.dst m n
      | _ => n

/-! ### The commands -/

def execLaneFail (lane : Fin 136) (s : State) : Host.Outcome State Fault Refusal := run s (laneFailed lane.val)

def execRetryLimit (link : Fin 128) (s : State) : Host.Outcome State Fault Refusal := run s (retryLimit link.val)
def execLinkDown (link : Fin 128) (s : State) : Host.Outcome State Fault Refusal := run s (linkSilent link.val)

def execPlDisable (lane : Fin 136) (v : Word) (s : State) : Host.Outcome State Fault Refusal := run s (plCtrl lane.val v)

/-- A bad delta row is built again; what waited for it goes on, and the shard may be whole (R62, R127, R164). -/
def execRowRebuild (key : ShardKey) (row : Nat) (s : State) : Host.Outcome State Fault Refusal :=
  run s (fun n => wholeAgain key (tryWaiting key (rowRebuild key row n)))

def execMessageTimeout (tag : Nat) (s : State) : Host.Outcome State Fault Refusal := run s (messageTimeout tag)

def execFlit (link : Fin 128) (d : Blob) (crc : Word) (s : State) : Host.Outcome State Fault Refusal := run s (flitIn link.val d crc)

def execIdleControlFlit (link : Fin 128) (s : State) : Host.Outcome State Fault Refusal := run s (idleFlit link.val)

end Sys2Proof.Machine
end

