-- ==== Sys2Proof/Machine/Roles.lean ====
section
/-!
DEFINITION. Sys2Proof/Machine/Roles.lean: the memory of a shard at a holder (R31, R59, R214), the composition map as
bytes (R270, R390), the changes that a map makes to roles (R274, R278, R281-R284), and what a member does when it applies
a map (R168, R170, R173, R207, R212, R273, R276-R278, R281, R285).
-/
namespace Sys2Proof.Machine

/-! ### A shard's objects (R31, R59) -/

def pagesFor (bytes : Nat) : Nat := (bytes + 65535) / 65536

def gItems (g : IdxGen) : Nat := gCapacity g

/-- Objects of R31 besides the delta segment: code, bytes, allowed homes (stack 1, DIMM 2, flash 4), default home. -/
def shardObjs (g : IdxGen) : List (Nat × Nat × Nat × Nat) :=
  let c := gItems g
  let s := fullSize (gFullFmt g) (gDim g)
  [(0, gM g * 64 * gWidth g, 1, 1), (1, c * gM g / 2, 3, 1),
   (2, c * 256, if gColdOk g then 7 else 3, if gColdOk g then 3 else 2), (3, c / 16 * 256, 1, 1), (4, c * 16, 3, 2), (5, c * 16, 3, 2),
   (6, 2 ^ keyLog2 c * 64, 2, 2), (7, fullOff (c - 1) s + s, if gFullInDimm g then 6 else 4, if gFullInDimm g then 2 else 3)]

/-- Delta pages that hold DELTA_CAP entries. -/
def deltaPages (g : IdxGen) : Nat :=
  let cap := Nat.max 1 (rowCap (gM g / 2 + 8))
  ((gDeltaCap g + cap - 1) / cap + 63) / 64

/-- Pages of a holder by default tier: stack, DIMM, flash. -/
def shardPages (g : IdxGen) : Nat × Nat × Nat :=
  let of := fun t => nsum ((shardObjs g).map (fun o => if o.2.2.2 = t then pagesFor o.2.1 else 0))
  (of 1 + deltaPages g, of 2, of 3)

/-- A holder's shard before its objects hold anything. -/
def shardNew (key : ShardKey) (role state slice : Nat) : Shard :=
  { key := key, slice := slice, state := state, role := role, entryId := lidNone, entryLvl := 0, committed := 0, lastMsn := 0,
    idHigh := 0, reuse := [], sweepAt := 0, bases := [], code := [], adj := [], upper := [], attr := [], idmap := [], keyidx := [], full := [], pages := [], drows := [], steps := [], doneSteps := [],
    journal := [], ckpt := 0, waiting := [], copyPoint := none, forwarded := 0, fwdQ := [], fwdKeys := [], foldWalks := [], folded := 0, level0 := 0, repaired := 0,
    ages := [], sealed := none, sealSent := false }

/-- The delta pages of a shard, one after another (R98). -/
def deltaAlloc (key : ShardKey) : Nat → List Nat → Node → List Nat × Node
  | 0, pages, n => (pages, n)
  | k + 1, pages, n =>
    match placePage key pages pages.length n with
    | (some p, n) => deltaAlloc key k (pages ++ [p]) n
    | (none, n) => (pages, n)

/-- The ranges of a shard's objects are handed out (R214). With REPLICAS 1 the partner holds none (R57). -/
def shardAlloc (key : ShardKey) (g : IdxGen) (n : Node) : Node :=
  let p := shardPages g
  let n : Node := reserveMore g.owner p.1 p.2.1 p.2.2 n
  let range := fun (n : Node) (o : Nat × Nat × Nat × Nat) =>
    allocRange { base := 0, pages := pagesFor o.2.1, allowed := o.2.2.1, defHome := o.2.2.2, open_ := false, internal := false,
                 pinned := false, tid := g.owner, what := o.1, key := key } n
  let (bases, n) := (shardObjs g).foldl (fun (acc : List Nat × Node) o =>
    let (a, n) := range acc.2 o
    (acc.1 ++ [a], n)) ([], n)
  let (pages, n) := deltaAlloc key (deltaPages g) [] n
  let (d, n) := allocRange { base := 0, pages := deltaPages g, allowed := 1, defHome := 1, open_ := true, internal := false,
                             pinned := false, tid := g.owner, what := 8, key := key } n
  shardMod key (fun s => { s with bases := bases.drop 1 ++ [d], pages := pages }) n

/-- A shard comes to this node: its descriptor, and its memory where the node knows the generation. -/
def shardCreate (key : ShardKey) (role slice : Nat) (n : Node) : Node :=
  match genFind n key.handle key.gen with
  | none => { n with shards := n.shards ++ [shardNew key role 0 slice] }
  | some g =>
    let n : Node := { n with shards := n.shards ++ [shardNew key role (if g.codebook.isSome then 0 else 2) slice] }
    if role = 1 ∧ gReplicas g < 2 then n else shardAlloc key g n

/-- A shard leaves this node: its memory is freed, its walks and waiting work end (R17). -/
def shardFree (key : ShardKey) (n : Node) : Node :=
  let n : Node := (n.subReqs.filter (fun q => q.msg.key = key)).foldl (fun n q => subFailed q.id n) n
  let n : Node := match genFind n key.handle key.gen, shardFind n key with
    | some g, some s => if s.bases.isEmpty then n else
        let p := shardPages g
        unreserve g.owner p.1 p.2.1 p.2.2 n
    | _, _ => n
  let n : Node := match shardFind n key with
    | some s => s.pages.foldl (fun n p => (List.range 64).foldl (fun n i => putRow (pageRow p i) emptyRow n) n) n
    | none => n
  let n : Node := freeRanges (fun o => o.key = key && decide (o.what ≤ 8)) n
  { n with
    shards := n.shards.filter (fun s => s.key ≠ key), openPages := n.openPages.filter (fun p => p.2 ≠ key),
    dups := n.dups.filter (fun d => d.key ≠ key), batches := n.batches.filter (fun b => b.key ≠ key),
    ftl := { n.ftl with ckpts := n.ftl.ckpts.filter (fun k => k.key ≠ key), marks := n.ftl.marks.filter (fun k => k.1 ≠ key) } }

/-! ### The map as bytes (R270, R390; log 22) -/

def mw (field v : Nat) : Blob := bofNat (Config.mapWidth field) v

def memberCode : MemberState → Nat
  | .absent => 0
  | .testing => 1
  | .spare => 2
  | .active => 3
  | .slow => 4
  | .failed => 5
  | .retired => 6

def placeBytes : Option Place → Blob
  | some p => bconcat [bofNat 2 p.node.toNat, mw 5 p.slice]
  | none => mw 9 (2 ^ (8 * Config.mapWidth 9) - 1)

/-- A record: KIND and length, then its fields. -/
def mapRec (kind : Nat) (fields : List Blob) : Blob :=
  let b := bconcat fields
  bappend (bofNat 4 (kind * 2 ^ 24 + (b.len + 4) % 65536)) b

def mapBytes (m : CMap) : Blob :=
  bconcat (
    [mapRec 1 ([bofNat 4 m.epoch, { len := 64, bits := m.prevDigest.toNat }, mw 0 m.minCompat, mw 1 m.council.length] ++
      m.council.map (fun c => bofNat 2 c.toNat) ++ [mw 2 m.spareTarget])] ++
    m.members.map (fun x => mapRec 2 [bofNat 2 x.node.toNat, { len := 16, bits := x.serial.toNat }, mw 3 x.sled, mw 0 x.compat, mw 4 (memberCode x.state)]) ++
    m.slices.map (fun x => mapRec 3 [bofNat 2 x.node.toNat, mw 5 x.slice, mw 6 x.contexts, bofNat 4 x.stack, bofNat 4 x.dimm, bofNat 4 x.flash, mw 7 x.lanes]) ++
    m.shards.map (fun x => mapRec 4 ([bofNat 4 x.key.handle, mw 8 x.key.gen, bofNat 2 x.key.shard, mw 0 x.floor, placeBytes x.primary,
      placeBytes x.partner, mw 1 x.replicas.length] ++ x.replicas.map (fun p => placeBytes (some p)) ++
      [match x.incoming with | some i => bofNat 2 i.toNat | none => bofNat 2 0xFFFF, bofNat 8 x.committed])) ++
    m.tables.map (fun x => mapRec 5 [bofNat 4 x.key.handle, mw 8 x.key.gen, bofNat 2 x.key.shard, placeBytes x.home, placeBytes x.partner]) ++
    m.gens.map (fun x => mapRec 6 [bofNat 4 x.handle, mw 8 x.gen]) ++
    m.trunks.map (fun x => mapRec 7 [bofNat 2 x.1.toNat, bofNat 2 x.2.toNat]))

/-- SHAKE256 digest of a map. -/
def mapDigest (m : CMap) : BitVec 512 := Config.shake256 (blist (mapBytes m))

/-! ### Who takes a role (R268, R281, R283) -/

def groupOf (id : BitVec 12) : Nat := id.toNat / 64

/-- Hops of a minimal route (R268): within a group, over a trunk between the groups, or by a detour. -/
def hops (m : CMap) (a b : BitVec 12) : Nat :=
  if a = b then 0
  else if groupOf a = groupOf b then 1
  else
    let ends := m.trunks ++ m.trunks.map (fun t => (t.2, t.1))
    let ways := (ends.filter (fun t => groupOf t.1 = groupOf a && groupOf t.2 = groupOf b)).map
      (fun t => b2n (t.1 ≠ a) + 1 + b2n (t.2 ≠ b))
    (lleast (fun x y => decide (x < y)) ways).getD 6

def sledOf (m : CMap) (id : BitVec 12) : Option Nat := (memberFind m id.toNat).map (·.sled)

def shardHolders (r : ShardRole) : List (BitVec 12) :=
  (r.primary.toList ++ r.partner.toList ++ r.replicas).map (·.node) ++ r.incoming.toList

def tableHolders (r : TableRole) : List (BitVec 12) := (r.home.toList ++ r.partner.toList).map (·.node)

/-- Members of a state that qualify for a role beside the holders `others`, nearest to the replaced member first (R280,
R283). -/
def qualifying (m : CMap) (st : MemberState) (gone : BitVec 12) (others : List (BitVec 12)) (floor : Nat) : List Member :=
  let ok := m.members.filter (fun x => x.state = st && x.node ≠ gone && !others.contains x.node && decide (floor ≤ x.compat) &&
    others.all (fun o => sledOf m o ≠ some x.sled))
  lsort (fun a b => decide (hops m gone a.node < hops m gone b.node) ||
    (hops m gone a.node = hops m gone b.node && decide (a.node.toNat < b.node.toNat))) ok

/-- A slice number that a node has not given out. -/
def freeSlice (m : CMap) (id : BitVec 12) : Option Nat :=
  (List.range 64).find? (fun s => !m.slices.any (fun x => x.node = id && x.slice = s))

/-- The node that takes over a role of a replaced member. -/
def heir (m : CMap) (gone : BitVec 12) (spare : Option (BitVec 12)) (others : List (BitVec 12)) (floor : Nat) : Option (BitVec 12) :=
  match spare with
  | some s => some s
  | none => ((qualifying m .active gone others floor).find? (fun x => (freeSlice m x.node).isSome)).map (·.node)

/-- The SPARE member that takes every role of a replaced member, if one qualifies. -/
def spareFor (m : CMap) (gone : BitVec 12) : Option (BitVec 12) :=
  let sh := m.shards.filter (fun r => (shardHolders r).contains gone)
  let tb := m.tables.filter (fun r => (tableHolders r).contains gone)
  let others := (sh.flatMap shardHolders ++ tb.flatMap tableHolders).filter (fun x => x ≠ gone)
  ((qualifying m .spare gone others (nmaxl (sh.map (·.floor)))).head?).map (·.node)

/-- A place on a node, its slice record beside it, modelled on the slice that the role had. -/
def placeOn (id : BitVec 12) (old : Option Place) (m : CMap) : Place × CMap :=
  let s := (freeSlice m id).getD 0
  let like := old.bind (fun o => m.slices.find? (fun x => x.node = o.node && x.slice = o.slice))
  let m := { m with
    slices := m.slices ++ (like.map (fun x => { x with node := id, slice := s })).toList,
    members := lmodify (fun x => x.node = id && x.state = .spare) (fun x => { x with state := .active }) m.members }
  ({ node := id, slice := s }, m)

def gReps (n : Node) (key : ShardKey) : Nat :=
  match genFind n key.handle key.gen with | some g => gReplicas g | none => 1

/-- The record of a shard in a map in which a holder is FAILED or RETIRED (R274, R283). A primary whose partner holds no
objects stays the shard's incoming holder: it serves again when it returns. -/
def roleWithout (n : Node) (gone : BitVec 12) (spare : Option (BitVec 12)) (m : CMap) (r : ShardRole) : ShardRole :=
  let is := fun (p : Option Place) => p.any (fun p => p.node = gone)
  let next := heir m gone spare ((shardHolders r).filter (fun x => x ≠ gone)) r.floor
  if is r.primary then
    (if 2 ≤ gReps n r.key ∧ r.partner.isSome then { r with primary := r.partner, partner := none, incoming := next }
     else { r with primary := none, incoming := some gone })
  else if is r.partner then { r with partner := none, incoming := next }
  else if r.replicas.any (fun p => p.node = gone) then { r with
      replicas := r.replicas.filter (fun p => p.node ≠ gone), incoming := if r.incoming.isSome then r.incoming else next }
  else if r.incoming = some gone ∧ r.primary.isSome then { r with incoming := next }
  else r

/-- The record of a table shard in such a map: its partner becomes its default home. -/
def tableWithout (gone : BitVec 12) (spare : Option (BitVec 12)) (m : CMap) (r : TableRole) : TableRole × CMap :=
  let is := fun (p : Option Place) => p.any (fun p => p.node = gone)
  let next := heir m gone spare ((tableHolders r).filter (fun x => x ≠ gone)) 0
  let withPartner := fun (r : TableRole) (old : Option Place) => match next with
    | some i => let (p, m) := placeOn i old m; ({ r with partner := some p }, m)
    | none => ({ r with partner := none }, m)
  if is r.home then withPartner { r with home := r.partner } r.home
  else if is r.partner then withPartner r r.partner
  else (r, m)

def withMemberState (id : BitVec 12) (s : MemberState) (m : CMap) : CMap :=
  { m with members := lmodify (fun x => x.node = id) (fun x => { x with state := s }) m.members }

/-- A map without a failed or retired member's roles. -/
def withoutMember (n : Node) (gone : BitVec 12) (m : CMap) : CMap :=
  let spare := spareFor m gone
  let m := { m with shards := m.shards.map (roleWithout n gone spare m) }
  let (ts, m) := m.tables.foldl (fun (acc : List TableRole × CMap) r =>
    let (r, m) := tableWithout gone spare acc.2 r
    (acc.1 ++ [r], m)) ([], m)
  { m with tables := ts, slices := m.slices.filter (fun x => x.node ≠ gone) }

/-- Step 1 of R278 for a SLOW member: an incoming holder for each of its roles. -/
def slowRoles (gone : BitVec 12) (m : CMap) : CMap :=
  let spare := spareFor m gone
  { m with
    shards := m.shards.map (fun r => if (shardHolders r).contains gone && r.incoming.isNone then { r with
      incoming := heir m gone spare ((shardHolders r).filter (fun x => x ≠ gone)) r.floor } else r) }

/-- Step 4 of R278: the incoming holder takes the role: the primary's or a partner's that a SLOW or RETIRED member gives up,
the partner's where there is none, a replica's otherwise. -/
def takeRole (n : Node) (msn : Option Nat) (r : ShardRole) (m : CMap) : ShardRole × CMap :=
  match r.incoming with
  | none => (r, m)
  | some i =>
    let slow := fun (p : Option Place) => p.any (fun p => match memberFind m p.node.toNat with
      | some x => x.state = .slow || x.state = .retired
      | none => true)
    let committed := msn.getD r.committed
    if r.primary.isNone ∨ (slow r.primary ∧ msn.isSome) then
      let (p, m) := placeOn i r.primary m
      ({ r with primary := some p, incoming := none, committed := committed }, m)
    else if r.partner.isNone ∨ slow r.partner then
      let (p, m) := placeOn i r.partner m
      ({ r with partner := some p, incoming := none, committed := committed }, m)
    else if 1 + b2n (2 ≤ gReps n r.key) + r.replicas.length < gReps n r.key ∨ r.replicas.any (fun p => slow (some p)) then
      let (p, m) := placeOn i (r.replicas.find? (fun p => slow (some p))) m
      ({ r with
        replicas := r.replicas.filter (fun p => !slow (some p)) ++ [p], incoming := none, committed := committed }, m)
    else ({ r with incoming := none }, m)

/-- Roles of a map move under step 4, those that `f` gives a sealed MSN or none. SLOW members without a role turn to
TESTING (R283). -/
def moveRoles (n : Node) (f : ShardRole → Option (Option Nat)) (m : CMap) : CMap :=
  let (rs, m) := m.shards.foldl (fun (acc : List ShardRole × CMap) r =>
    match f r with
    | some msn => let (r, m) := takeRole n msn r acc.2; (acc.1 ++ [r], m)
    | none => (acc.1 ++ [r], acc.2)) ([], m)
  let m := { m with shards := rs }
  let holds := fun (x : Member) => m.shards.any (fun r => (shardHolders r).contains x.node) ||
    m.tables.any (fun r => (tableHolders r).contains x.node)
  { m with
    members := m.members.map (fun x => if x.state = .slow && !holds x then { x with state := .testing } else x) }

/-- Default spare target by ACTIVE and SLOW members (R281). -/
def defaultSpares (k : Nat) : Nat :=
  if k = 0 then 0 else if k ≤ 15 then 1 else if k ≤ 63 then 2 else if k ≤ 255 then (k + 15) / 16
  else if k ≤ 1023 then (k + 13) / 14 else (k + 11) / 12

def countState (m : CMap) (l : List MemberState) : Nat := (m.members.filter (fun x => l.contains x.state)).length

def spareTargetOf (m : CMap) : Nat :=
  if m.spareTarget = 0 then defaultSpares (countState m [.active, .slow]) else m.spareTarget

/-- What a map tells every member of a generation that this node knows (log 149). -/
def descOf (n : Node) (r : GenRec) : List GenDesc :=
  let mk := fun (kind : Nat) (desc : Blob) (owner : Nat) (book : Option Blob) =>
    ({ handle := r.handle, gen := r.gen, kind := kind, desc := desc, owner := owner, book := book } : GenDesc)
  ((genFind n r.handle r.gen).map (fun g => mk 0 g.desc g.owner g.codebook)).toList ++
  ((tabFind n r.handle r.gen).map (fun t => mk 1 t.desc t.owner none)).toList ++
  ((n.encoders.find? (fun e => e.handle = r.handle && e.gen = r.gen)).map (fun e => mk 2 e.list e.owner none)).toList

/-- A map with what it tells of a generation. -/
def withDesc (n : Node) (r : GenRec) (m : CMap) : CMap :=
  if m.descs.any (fun d => d.handle = r.handle && d.gen = r.gen) then m else { m with descs := m.descs ++ descOf n r }

/-- The codebook that a request here waits to put in service. -/
def bookWanted (n : Node) (c : MapChange) : Option Blob := (n.mapJobs.find? (fun j => j.change = c)).map (·.data)

/-- The map that a change leads to (R272). -/
def applyChange (n : Node) (c : MapChange) (m : CMap) : CMap :=
  match c with
  | .member x => { m with members := m.members.filter (fun y => y.node ≠ x.node) ++ [x] }
  | .memberState id s =>
    match s with
    | .failed => withoutMember n id (withMemberState id .failed m)
    | .retired => withoutMember n id { withMemberState id .retired m with trunks := m.trunks.filter (fun t => t.1 ≠ id && t.2 ≠ id) }
    | .slow => slowRoles id (withMemberState id .slow m)
    | .spare =>
      let m := withMemberState id .spare m
      moveRoles n (fun r => if r.primary.isNone && r.incoming = some id then some (some r.committed) else none) m
    | s => withMemberState id s m
  | .remove id => { m with
      members := m.members.filter (fun x => x.node ≠ id), trunks := m.trunks.filter (fun t => t.1 ≠ id && t.2 ≠ id) }
  | .joined x ts => { m with members := m.members.filter (fun y => y.node ≠ x.node) ++ [x], trunks := m.trunks ++ ts }
  | .council l k => { m with council := l, spareTarget := k }
  | .shardRoles l => { m with shards := m.shards.map (fun r => (l.find? (fun x => x.key = r.key)).getD r) }
  | .seals l => moveRoles n (fun r => (l.find? (fun x => x.1 = r.key)).map (fun x => some x.2)) m
  | .moved id => moveRoles n (fun r => if r.incoming = some id && r.primary.isSome then some none else none) m
  | .create g ss ts sl =>
    let old := m.gens.find? (fun x => x.handle = g.handle)
    let keep := fun (k : ShardKey) => k.handle ≠ g.handle || old.any (fun x => x.gen = k.gen)
    let takes := fun (id : BitVec 12) => ss.any (fun r => (shardHolders r).contains id) || ts.any (fun r => (tableHolders r).contains id)
    withDesc n g { m with
      gens := if old.isSome then m.gens else m.gens ++ [g],
      slices := m.slices ++ sl,
      members := lmodify (fun x => x.state = .spare && takes x.node) (fun x => { x with state := .active }) m.members,
      shards := m.shards.filter (fun r => keep r.key) ++ ss, tables := m.tables.filter (fun r => keep r.key) ++ ts }
  | .makeCurrent g => withDesc n g { m with
      gens := m.gens.filter (fun x => x.handle ≠ g.handle) ++ [g],
      descs := m.descs.filter (fun d => d.handle ≠ g.handle || d.gen = g.gen || d.gen = nextGen g.gen) }
  | .codebook h g => { m with
      descs := lmodify (fun d => d.handle = h && d.gen = g && d.kind = 0)
        (fun d => { d with book := (bookWanted n c).orElse (fun _ => d.book) }) m.descs }
  | .free h => { m with
      gens := m.gens.filter (fun x => x.handle ≠ h), shards := m.shards.filter (fun r => r.key.handle ≠ h),
      tables := m.tables.filter (fun r => r.key.handle ≠ h), descs := m.descs.filter (fun d => d.handle ≠ h) }
  | .reform => m

/-- Map e + 1 from map e and a change (step 1 of R272). A re-formed composition starts again at epoch 1 (R391). -/
def formMap (n : Node) (c : MapChange) : CMap :=
  let m := applyChange n c n.map
  { m with
    epoch := if c = .reform then 1 else n.map.epoch + 1, prevDigest := mapDigest n.map,
    minCompat := ((m.members.filter (fun x => x.state ≠ .failed && x.state ≠ .retired)).map (·.compat)).foldl Nat.min 3 }

/-! ### Applying a map -/

/-- The role code of this node for a shard in a map. -/
def roleIn (id : BitVec 12) (r : ShardRole) : Option (Nat × Nat) :=
  let at_ := fun (p : Place) => p.node = id
  match r.primary.filter at_, r.partner.filter at_, r.replicas.find? at_ with
  | some p, _, _ => some (0, p.slice)
  | none, some p, _ => some (1, p.slice)
  | none, none, some p => some (2, p.slice)
  | none, none, none => none

/-- Indexes of the groups of an object that have been written. -/
def objWritten (n : Node) (o : ObjRange) : List Nat :=
  match shardFind n o.key with
  | none => []
  | some s => match o.what with
    | 0 => match (genFind n o.key.handle o.key.gen).bind (·.codebook) with | some b => List.range (b.len / 4) | none => []
    | 1 => s.code.map (·.1)
    | 2 => s.adj.map (·.1)
    | 3 => s.upper.map (·.1)
    | 4 => s.attr.map (·.1)
    | 5 => s.idmap.map (·.1)
    | 6 => s.keyidx.map (·.1)
    | 7 => s.full.map (fun e => fullOff e.1 (match genFind n o.key.handle o.key.gen with
        | some g => fullSize (gFullFmt g) (gDim g) | none => 1) / objGroup n o)
    | 8 => (List.range s.drows.length).filter (fun i => match s.drows[i]? with | some d => d.kind ≠ 0 | none => false)
    | _ => []

def objCode : Nat → ShardObj
  | 0 => .codebook
  | 1 => .code
  | 2 => .adj
  | 3 => .upper
  | 4 => .attr
  | 5 => .idmap
  | 6 => .keyidx
  | 7 => .full
  | _ => .delta

def objNo : ShardObj → Nat
  | .codebook => 0
  | .code => 1
  | .adj => 2
  | .upper => 3
  | .attr => 4
  | .idmap => 5
  | .keyidx => 6
  | .full => 7
  | .delta => 8

/-- Step 2 of R278: the written groups of a shard's objects go to the incoming holder over BULK, and the steps that are still to
commit, which the copied objects need not hold. -/
def copyOut (key : ShardKey) (dst : Nat) (n : Node) : Node :=
  let n := (n.mmu.objs.filter (fun o => o.key = key && decide (o.what ≤ 8))).foldl (fun n o =>
    let g := objGroup n o
    (objWritten n o).foldl (fun n i =>
      send dst (.copy { key := key, obj := objCode o.what, off := g * i, data := bofNat g (objGet n o i) }) n) n) n
  match shardFind n key with
  | some s => (s.steps.filter (·.sent)).foldl (fun n p => send dst (.stepForward p.step) n) n
  | none => n

/-- Copied id map entries are there, one that is all zeros (a live item of key 0) among them. -/
def copyListed (m : CopyMsg) (n : Node) : Node :=
  if m.obj = .idmap then shardMod m.key (fun s => { s with
      idmap := (List.range (m.data.len / 16)).foldl (fun l i => sins l (m.off / 16 + i) (bnum m.data (16 * i) 16)) s.idmap }) n
  else n

/-- A COPY arrives at an incoming holder: the bytes enter its object; delta rows with their rebuild records. -/
def copyIn (m : CopyMsg) (n : Node) : Node :=
  match shardFind n m.key with
  | none => n
  | some s =>
    if m.obj = .delta then
      (List.range (m.data.len / 1024)).foldl (fun n j =>
        let i := m.off / 1024 + j
        if i < rowsTotal s then
          let r := bnum m.data (1024 * j) 1024
          drowMod m.key i (fun _ => drowOf (rowKind r) 0 (rowEnts r)) (putRow (physRow s i) r n)
        else n) n
    else match m.obj, (genFind n m.key.handle m.key.gen).map (·.codebook) with
      | .codebook, some none =>
        let len := match genFind n m.key.handle m.key.gen with | some g => gM g * 64 * gWidth g | none => 0
        genFill { n with
          gens := lmodify (fun g => g.handle = m.key.handle && g.gen = m.key.gen)
            (fun g => { g with codebook := some (bpatch { len := len, bits := 0 } m.off m.data) }) n.gens }
      | _, _ =>
        match n.mmu.objs.find? (fun o => o.key = m.key && o.what = objNo m.obj) with
        | some o => if m.off + m.data.len ≤ o.pages * 65536 then
            copyListed m (memWrite (o.base * 65536 + m.off) m.data.len (objWrite o (o.base * 65536 + m.off) m.data n)) else n
        | none => n

/-- The MSN under which an item's insert stands in the delta rows or in its level-0 block. -/
def itemMsn (s : Shard) (lid : Nat) : Nat :=
  let b := adjGet s lid
  Nat.max (if blkLinked b then blkMsn b else 0) (nmaxl (((s.drows.flatMap (·.ents)).filter (fun e => e.2 = lid)).map (·.1)))

/-- A record whose effect the objects show already. -/
def recThere (s : Shard) (r : JRec) : Bool :=
  match sfind s.idmap r.lid with
  | none => false
  | some e =>
    if r.kind = 2 then (idmapKey e = r.ckey && idmapDel e ≠ 0) || decide (r.msn < itemMsn s r.lid)
    else decide (r.msn ≤ itemMsn s r.lid) || (idmapKey e = r.ckey && decide (r.msn < idmapDel e))

/-- A step without the records whose effect is there (DEDUCED, log 23). -/
def stepLeft (s : Shard) (m : StepRec) : StepRec := { m with recs := m.recs.filter (fun r => !recThere s r) }

/-- What a new holder's descriptor derives from the objects it was copied: COMMITTED_MSN as the map carries it or as the objects show
it, the items of the id map and their full vectors, the deleted ones that await reuse, an entry item of the highest level (DEDUCED,
log 23). -/
def shardDerive (committed tick : Nat) (s : Shard) : Shard :=
  let seen := nmaxl (s.idmap.map (fun e => idmapDel e.2) ++ (s.drows.flatMap (·.ents)).map (·.1) ++
    (s.adj.filter (fun e => blkLinked e.2)).map (fun e => blkMsn e.2))
  let c := Nat.max (Nat.max s.committed committed) seen
  let top := s.adj.foldl (fun (b : Option (Nat × Nat)) e =>
    if blkLinked e.2 && (match b with | some x => decide (x.2 < blkTop e.2) | none => true) then some (e.1, blkTop e.2) else b) none
  { s with
    committed := c, lastMsn := Nat.max s.lastMsn c,
    full := s.idmap.foldl (fun f e => if (sfind f e.1).isSome then f else sins f e.1 0) s.full,
    idHigh := Nat.max s.idHigh (nmaxl (s.idmap.map (fun e => e.1 + 1))),
    reuse := s.reuse ++ ((s.idmap.filter (fun e => idmapDel e.2 ≠ 0 && !s.reuse.any (fun x => x.1 = e.1))).map (fun e => (e.1, tick))),
    entryId := match top with | some t => t.1 | none => s.entryId, entryLvl := match top with | some t => t.2 | none => s.entryLvl,
    state := if s.state = 0 ∧ !s.idmap.isEmpty then 1 else s.state }

/-- The steps that a new mirror receives before any further step is accepted: those not yet checkpointed, and those of request entries
alone (R162, R170). What the old mirror held in flash counts no more. -/
def mirrorStart (key : ShardKey) (dst : Nat) (n : Node) : Node :=
  match shardFind n key with
  | none => n
  | some s =>
    let n : Node := (s.journal.filter (fun m => m.lastMsn = 0 || decide (s.ckpt < m.lastMsn))).foldl (fun n m => send dst (.step m) n) n
    shardMod key (fun s => { s with
      steps := s.steps.map (fun p => { p with there := false, sentAt := if p.sent && !p.accepted then n.tick else p.sentAt }),
      doneSteps := s.doneSteps.map (fun p => { p with there := false }) }) n

/-- Sub-batches that a sealed primary held go to the new primary, or are served here again (R278 step 5). -/
def heldRelease (key : ShardKey) (towards : Option (BitVec 12)) (n : Node) : Node :=
  let (mine, rest) := n.heldSubs.partition (fun x => x.m.key = key)
  mine.foldl (fun n x => match towards with
    | some d => forwardMsg x.h d (.subBatch { x.m with forwarded := true }) n
    | none => subBatchIn x.h x.m n) { n with heldSubs := rest }

/-- A primary by promotion or by a move: it commits every step it holds (R170) and goes on from there. Steps whose entries find no row
yet are steps of its own that await their writes (R164). -/
def becomePrimary (key : ShardKey) (n : Node) : Node :=
  let n : Node := tryWaiting key n
  shardMod key (fun s => { s with
    role := 0, waiting := [], sealed := none, sealSent := false, copyPoint := none,
    steps := s.waiting.map (fun m => { stepNew key n.tick with step := m, closed := true, sent := true, sentAt := n.tick, accepted := true }) }) n

/-- The steps above those held here are asked of another holder (R173 step 4). -/
def askAbove (key : ShardKey) (n : Node) : Node :=
  match shardFind n key, otherHolders n key with
  | some s, d :: _ => sendAwait d (.rebuildRead { key := key, firstMsn := s.lastMsn + 1, lastMsn := 2 ^ 64 - 1, lids := [] }) n
  | _, _ => wholeAgain key n

/-- A shard of the last run comes to this node again (R173): its last checkpoint, its journal up to the committed MSN of the map,
and from another holder the steps above; REBUILDING until those are in. -/
def shardTake (key : ShardKey) (code slice committed : Nat) (n : Node) : Node :=
  let parked : Option Shard := n.parked.find? (fun s => s.key = key)
  let n : Node := { n with parked := n.parked.filter (fun s => s.key ≠ key) }
  let n : Node := shardCreate key code slice n
  match parked, shardFind n key with
  | some p, some s =>
    let kept := p.journal.filter (fun m => decide (m.lastMsn ≤ committed))
    let n : Node := shardMod key (fun s => { p with
      slice := slice, role := code, state := 4, bases := s.bases, pages := s.pages, steps := [], doneSteps := [], journal := kept,
      waiting := (kept.filter (fun m => m.lastMsn = 0 || decide (p.ckpt < m.lastMsn))).map (stepLeft p),
      lastMsn := nmaxl (p.ckpt :: kept.map (·.lastMsn)), committed := p.ckpt, reuse := p.reuse.map (fun x => (x.1, n.tick)),
      sealed := none, sealSent := false, copyPoint := none, fwdQ := [], foldWalks := [], ages := [] }) n
    let rows : Sparse Nat := match n.ftl.ckpts.find? (fun k => k.key = key && k.done) with | some k => k.rows | none => []
    let n : Node := rows.foldl (fun n r => putRow (physRow s r.1) r.2 n) n
    let n : Node := (kept.flatMap (·.reqs)).foldl (fun n q => dupAdd (dupOf key q none) n) n
    askAbove key (tryWaiting key n)
  | _, _ => n

/-- An incoming holder takes its role (R278 step 6): its descriptor from the objects copied, then the steps received meanwhile. -/
def roleTake (key : ShardKey) (code slice committed : Nat) (n : Node) : Node :=
  let n : Node := shardMod key (fun s =>
    let s := if s.state = 4 then s else shardDerive committed n.tick s
    { s with role := code, slice := slice, waiting := s.waiting.map (stepLeft s) }) n
  tryWaiting key n

/-- A map names this node a shard's incoming holder (R278 step 1): its memory is reserved. Where no primary is left it is this node's
shard that is to come back, from what it still has (R170, R173). -/
def becomeIncoming (r : ShardRole) (n : Node) : Node :=
  let key := r.key
  let n : Node :=
    if r.primary.isSome then shardCreate key 2 0 (if (shardFind n key).isSome then shardFree key n else { n with parked := n.parked.filter (fun s => s.key ≠ key) })
    else if (shardFind n key).isSome then askAbove key (shardMod key (fun s => { s with steps := [], sealed := none, sealSent := false }) n)
    else shardTake key 2 0 r.committed n
  shardMod key (fun s => { s with role := 4 }) n

/-- What one shard's record means to this node as the new map takes effect. -/
def applyRole (old : Option ShardRole) (r : ShardRole) (n : Node) : Node :=
  let key := r.key
  let was := old.bind (roleIn n.nodeId)
  let wasIn := old.any (fun o => o.incoming = some n.nodeId)
  match roleIn n.nodeId r with
  | some (code, slice) =>
    let n : Node := if (shardFind n key).isSome then n else shardTake key code slice r.committed n
    let n : Node := if was.isNone && wasIn then roleTake key code slice r.committed n else shardMod key (fun s => { s with slice := slice }) n
    let n : Node := if code = 0 then
        (if was.any (fun w => w.1 = 0) then n else becomePrimary key n)
      else
        let n : Node := if was.any (fun w => w.1 = 0) then
            match r.primary with
            | some p => heldRelease key (some p.node) { n with fwds := n.fwds ++ [{ key := key, table := false, towards := p.node, at_ := n.tick }] }
            | none => n
          else n
        shardMod key (fun s => { s with role := code, steps := [], sealed := none, sealSent := false }) n
    if code ≠ 0 then n
    else
      let oldMirror := (old.map mirrorOf).getD []
      let n : Node := (mirrorOf r).foldl (fun n d => if oldMirror.contains d then n else mirrorStart key d.toNat n) n
      let n : Node := match r.incoming with
        | some i => if old.any (fun o => o.incoming = some i) then n else copyOut key i.toNat n
        | none => if old.any (fun o => o.incoming.isSome) then
            heldRelease key none (shardMod key (fun s => { s with sealed := none, sealSent := false }) n) else n
      sendReady key (tryCommit key n)
  | none =>
    if r.incoming = some n.nodeId then (if wasIn && (shardFind n key).isSome then n else becomeIncoming r n)
    else if was.isSome then
      -- given up: the objects stay until the forwarding entry ends, for the sub-requests being served (log 24)
      let n : Node := shardMod key (fun s => { s with role := 3, steps := [], sealed := none, sealSent := false }) n
      match r.primary with
      | some p => heldRelease key (some p.node) { n with fwds := n.fwds ++ [{ key := key, table := false, towards := p.node, at_ := n.tick }] }
      | none => n
    else if wasIn then shardFree key n
    else n

/-! ### Embedding tables at every member (R198, R207; log 149) -/

def tabNew (desc : Blob) (owner tick : Nat) : TabSt :=
  { handle := bword desc 0, gen := bnum desc 6 2, desc := bslice desc 0 64, owner := owner, base := 0, rows := [], image := [],
    imgUas := [], here := [], away := [], redirect := [], waits := [], served := [], acks := [], restoring := [], bad := [], reads := [],
    updates := [], lastReads := [], lastUpd := [], total := [], hot := [], overLim := 0, reserved := 0, windowAt := tick, outN := [],
    inN := [], fwdN := [] }

/-- Rows whose default home is a node. -/
def rowsAt (t : TabSt) (rs : List TableRole) (id : BitVec 12) : Nat :=
  let mine := (rs.filter (fun r => r.home.any (fun p => p.node = id))).map (fun r => r.key.shard)
  (List.range (tRows t)).foldl (fun k r => if mine.contains (tShardOf t r) then k + 1 else k) 0

/-- Pages that a member reserves for a table: its rows at their default home there, and MIGRATE_SLOTS rows (R198). -/
def tabPages (t : TabSt) (rs : List TableRole) (id : BitVec 12) : Nat :=
  pagesFor (rowsAt t rs id * tRowBytes t) + pagesFor (tSlots t * tRowBytes t)

/-- The address range of a table's rows at a member. -/
def tabRange (t : TabSt) (n : Node) : Node :=
  let (b, n) := allocRange { base := 0, pages := pagesFor (tRows t * tRowBytes t), allowed := 3, defHome := if tDimm t then 2 else 1,
                             open_ := false, internal := false, pinned := false, tid := t.owner, what := 9,
                             key := { handle := t.handle, gen := t.gen, shard := 0 } } n
  { n with tabs := n.tabs ++ [{ t with base := b }] }

/-- What this member reserves for its tables follows the applied map (R198). -/
def tabReserve (n : Node) : Node :=
  n.tabs.foldl (fun n t =>
    let rs := n.map.tables.filter (fun r => r.key.handle = t.handle && r.key.gen = t.gen)
    let p := tabPages t rs n.nodeId
    if rs.isEmpty ∨ p = t.reserved then n
    else
      let n : Node := unreserve t.owner (if tDimm t then 0 else t.reserved) (if tDimm t then t.reserved else 0) 0 n
      tabMod t.handle t.gen (fun t => { t with reserved := p })
        (reserveMore t.owner (if tDimm t then 0 else p) (if tDimm t then p else 0) 0 n)) n

/-- An encoder's weights are pinned in a memory tier (R192). -/
def encoderPin (h g owner : Nat) (b : Blob) (tier : Nat) (n : Node) : Node :=
  let pages := pagesFor (bnum b 0x28 8)
  let (a, n) := allocRange { base := 0, pages := pages, allowed := 3, defHome := tier, open_ := false, internal := false, pinned := true,
                             tid := owner, what := 10, key := { handle := h, gen := g, shard := 0 } } n
  let n : Node := (List.range pages).foldl (fun n i => mapPage (a / 65536 + i) n) n
  { n with encoders := n.encoders ++ [{ handle := h, gen := g, list := b, owner := owner, base := a }] }

/-- The codebook of a generation is there: its shards serve from this epoch on (R60). -/
def bookIn (h g : Nat) (b : Blob) (n : Node) : Node :=
  { n with
    gens := lmodify (fun x => x.handle = h && x.gen = g) (fun x => { x with codebook := some b }) n.gens,
    shards := lmodify (fun s => s.key.handle = h && s.key.gen = g && s.state = 2) (fun s => { s with state := 1 }) n.shards }

/-- What the map tells of a generation, at a member that does not know it yet (log 149). -/
def learn (d : GenDesc) (n : Node) : Node :=
  if d.kind = 0 then
    match genFind n d.handle d.gen, d.book with
    | none, b => { n with gens := n.gens ++ [{ handle := d.handle, gen := d.gen, desc := d.desc, codebook := b, owner := d.owner }] }
    | some g, some b => if g.codebook.isNone then bookIn d.handle d.gen b n else n
    | some _, none => n
  else if d.kind = 1 then
    (if (tabFind n d.handle d.gen).isSome then n else tabRange (tabNew d.desc d.owner n.tick) n)
  else if n.encoders.any (fun e => e.handle = d.handle && e.gen = d.gen) then n
  else
    let (x, n) := fresh n
    let pages := pagesFor (bnum d.desc 0x28 8)
    encoderPin d.handle d.gen d.owner d.desc (1 + x % 2) (reserveMore d.owner (if x % 2 = 0 then pages else 0) (if x % 2 = 0 then 0 else pages) 0 n)

/-- An update that the failed partner need not hold is of unknown outcome (R207). -/
def acksFail (h g : Nat) (mine : Nat → Bool) (n : Node) : Node :=
  match tabFind n h g with
  | none => n
  | some t =>
    (t.acks.filter (fun a => mine a.ans.row)).foldl (fun n a => sendTag a.dst a.rtag (.rowAnswer { a.ans with status := 6 }) n)
      (tabMod h g (fun t => { t with acks := t.acks.filter (fun a => !mine a.ans.row) }) n)

/-- Rows of a table shard that this node homes go to a new partner as update records; a default home sends it the images of rows homed
elsewhere too, with their redirects (R207; log 174). -/
def mirrorRows (h g : Nat) (mine : Nat → Bool) (towards : BitVec 12) (n : Node) : Node :=
  match tabFind n h g with
  | none => n
  | some t =>
    let put := fun (e : Nat × TRow) (n : Node) => send towards.toNat (.rowMove {
      handle := h, gen := g, row := e.1, rseq := e.2.rseq, record := e.2.record, mirror := true }) n
    let n : Node := (t.rows.filter (fun e => mine e.1 && isHome n t e.1)).foldl (fun n e => put e n) n
    let away := t.image.filter (fun e => mine e.1 && defaultHome n t e.1 = some n.nodeId && sget 0 t.redirect e.1 ≠ 0)
    away.foldl (fun n e => send towards.toNat (.redirectSet {
      handle := h, gen := g, row := e.1, home := BitVec.ofNat 12 (sget 0 t.redirect e.1 - 1) }) (put e n)) n

/-- The partner's image becomes the rows of the new default home, but for rows that live on elsewhere; after a failure they are restored
under R207. -/
def homeTaken (h g shard : Nat) (mine : Nat → Bool) (gone : List (BitVec 12)) (failed : Bool) (n : Node) : Node :=
  tabMod h g (fun t =>
    let away := fun (row : Nat) => sget 0 t.redirect row ≠ 0 && !gone.any (fun f => sget 0 t.redirect row = f.toNat + 1)
    let moved := t.image.filter (fun e => mine e.1 && !away e.1)
    { t with
      rows := moved.foldl (fun m e => sset trowZero m e.1 e.2) t.rows,
      image := t.image.filter (fun e => !(mine e.1 && !away e.1)),
      redirect := t.redirect.filter (fun e => !mine e.1 || away e.1), here := t.here.filter (fun r => !mine r),
      restoring := if failed && !t.restoring.contains shard then t.restoring ++ [shard] else t.restoring }) n

/-- Rows migrated to a failed node are homed at their default home again, where they are bad until the partner's image of them arrives
(R207, R210). -/
def homeAgain (h g : Nat) (mine : Nat → Bool) (gone : List (BitVec 12)) (n : Node) : Node :=
  match tabFind n h g with
  | none => n
  | some t =>
    let back := (t.redirect.filter (fun e => mine e.1 && gone.any (fun f => e.2 = f.toNat + 1))).map (·.1)
    tabMod h g (fun t => { t with
      redirect := t.redirect.filter (fun e => !back.contains e.1), bad := back.foldl (fun l r => ninsert r l) t.bad,
      rows := back.foldl (fun m r => sset trowZero m r trowZero) t.rows }) n

/-- The partner sends the default home its image of the rows that were homed at a failed node (R207). -/
def imageBack (h g : Nat) (mine : Nat → Bool) (gone : List (BitVec 12)) (home : BitVec 12) (n : Node) : Node :=
  match tabFind n h g with
  | none => n
  | some t =>
    let back := (t.redirect.filter (fun e => mine e.1 && gone.any (fun f => e.2 = f.toNat + 1))).map (·.1)
    let n : Node := tabMod h g (fun t => { t with redirect := t.redirect.filter (fun e => !back.contains e.1) }) n
    back.foldl (fun n row =>
      let r := sget trowZero t.image row
      send home.toNat (.rowMove { handle := h, gen := g, row := row, rseq := r.rseq, record := r.record, mirror := false }) n) n

/-- A table shard's record (R207, R210, R274): a new home takes the partner's image and restores; rows that a failed node homed come
back to their default home; updates that a failed or replaced partner need not hold answer FAILED_RETRYABLE, and a new partner receives
the rows. -/
def applyTable (gone : List (BitVec 12)) (old : Option TableRole) (r : TableRole) (n : Node) : Node :=
  match tabFind n r.key.handle r.key.gen with
  | none => n
  | some t =>
    let h := r.key.handle
    let g := r.key.gen
    let mine := fun (row : Nat) => decide (tShardOf t row = r.key.shard)
    let at_ := fun (p : Option Place) (id : BitVec 12) => p.any (fun p => p.node = id)
    let me := n.nodeId
    let wasHome := old.any (fun o => at_ o.home me)
    let isHomeNow := at_ r.home me
    let failed := old.any (fun o => gone.any (fun f => at_ o.home f))
    -- a handoff whose new home failed before it confirmed
    let n : Node := tabMod h g (fun t => { t with
      away := t.away.filter (fun o => !(mine o.row && o.conf.isNone && gone.contains o.towards)) }) n
    let n : Node :=
      if isHomeNow && !wasHome && old.isSome then homeTaken h g r.key.shard mine gone failed n
      else if isHomeNow then homeAgain h g mine gone n
      else if at_ r.partner me then (match r.home with | some p => imageBack h g mine gone p.node n | none => n)
      else n
    let n : Node := if wasHome && !isHomeNow then
        let n : Node := tabMod h g (fun t => { t with rows := t.rows.filter (fun e => !mine e.1 || t.here.contains e.1) }) n
        match r.home with
        | some p => { n with fwds := n.fwds ++ [{ key := r.key, table := true, towards := p.node, at_ := n.tick }] }
        | none => n
      else n
    if old.isNone || old.any (fun o => o.partner.map (·.node) = r.partner.map (·.node)) then n
    else
      let n : Node := acksFail h g mine n
      match r.partner with
      | some p => mirrorRows h g mine p.node n
      | none => n

/-- R277: the outstanding work of this node for failed nodes. -/
def failedWork (gone : List (BitVec 12)) (n : Node) : Node :=
  let lost := fun (s : Sub) => s.state = 0 && gone.any (fun f => f.toNat = s.dst)
  let (dead, live) := n.awaits.partition (fun a => gone.any (fun f => f.toNat = a.dst))
  let n : Node := dead.foldl (fun n a => match a.m with | .rebuildRead m => askNext a.dst m n | _ => n) { n with awaits := live }
  (n.reqs.map (·.id)).foldl (fun n id =>
    match reqFind n id with
    | none => n
    | some r =>
      (r.subs.filter lost).foldl (fun n s =>
        match reqFind n id with
        | none => n
        | some r => match s.msg with
          | .subRequest m =>
            let left := budgetUs r n
            if s.rerouted ∨ left = 0 then subUnanswered id s.tag n
            else match (queryHolders n m.key m.token.isSome).filter (fun x => !gone.contains x) with
              | [] => subUnanswered id s.tag n
              | d :: ds => let (d, n) := pick d (d :: ds) n; resendSub r s d (.subRequest { m with budgetUs := left }) n
          | .subBatch m => subAnswered r s (wholeWords m 6 0) false false 0 n
          | .rowOp b => rowAnswered r s (rowTShard n b.handle b.gen b.row) 0 6 0 false n
          | .subBag _ => lookupFail id 6 0 n
          | _ => n) n) n

/-- Generations that are over: nothing bound to them is in progress here, and no request bound to them at another node can still run;
shards given up whose forwarding has ended (R17, R212; log 150). A generation is over when a later one of its handle is current, or the
handle is freed. -/
def genSweep (n : Node) : Node :=
  let kept := fun (h g : Nat) => n.replaced.any (fun x => x.1 = h && x.2.1 = g && decide (n.tick ≤ x.2.2 + ticksMs 100))
  let boundTo := fun (k : ShardKey) => kept k.handle k.gen || n.reqs.any (fun r => (r.handle = k.handle && r.gen = k.gen) ||
    (r.tabHandle = k.handle && r.tabGen = k.gen)) || n.subReqs.any (fun q => q.msg.key = k)
  let overLim := fun (s : Shard) => (s.role = 3 && (fwdFind n s.key false).isNone && !kept s.key.handle s.key.gen &&
    !n.subReqs.any (fun q => q.msg.key = s.key)) ||
    (s.state = 3 && !boundTo s.key)
  let n : Node := (n.shards.filter overLim).foldl (fun n s => shardFree s.key n) n
  let pending := fun (h g : Nat) => n.mapJobs.any (fun j => match j.change with
    | .create x _ _ _ => x.handle = h && x.gen = g
    | .makeCurrent x => x.handle = h && x.gen = g
    | _ => false)
  let past := fun (h g : Nat) => (match currentGen n.map h with | some c => c ≠ g && g ≠ nextGen c | none => true) && !pending h g
  let tabs := n.tabs.filter (fun t => past t.handle t.gen && t.overLim = 2 ^ 32 && !boundTo { handle := t.handle, gen := t.gen, shard := 0 })
  let n : Node := tabs.foldl (fun n t =>
    let n : Node := unreserve t.owner (if tDimm t then 0 else t.reserved) (if tDimm t then t.reserved else 0) 0 (ownRelease (t.imgUas.flatMap (·.2)) n)
    freeRanges (fun o => o.what = 9 && o.key.handle = t.handle && o.key.gen = t.gen)
      { n with tabs := n.tabs.filter (fun x => !(x.handle = t.handle && x.gen = t.gen)) }) n
  let encBound := fun (e : Encoder) => n.progs.any (fun p => p.handle = e.handle && p.gen = e.gen && p.cls = 0) ||
    n.reqs.any (fun r => r.op = 1 && bword r.d 0x34 = e.handle && r.auxGen = e.gen)
  let encs := n.encoders.filter (fun e => past e.handle e.gen && !encBound e)
  let n : Node := encs.foldl (fun n e =>
    let o := fun (o : ObjRange) => o.what = 10 && o.key.handle = e.handle && o.key.gen = e.gen
    let k := fun (t : Nat) => nsum ((n.mmu.objs.filter o).map (fun x => if x.defHome = t then x.pages else 0))
    unreserve e.owner (k 1) (k 2) 0 (freeRanges o { n with encoders := n.encoders.filter (fun x => !(x.handle = e.handle && x.gen = e.gen)) })) n
  let held := fun (g : IdxGen) => n.shards.any (fun s => s.key.handle = g.handle && s.key.gen = g.gen) ||
    n.map.shards.any (fun r => r.key.handle = g.handle && r.key.gen = g.gen) ||
    boundTo { handle := g.handle, gen := g.gen, shard := 65536 }
  promoRetry { n with
    gens := n.gens.filter (fun g => !past g.handle g.gen || held g),
    replaced := n.replaced.filter (fun x => decide (n.tick ≤ x.2.2 + ticksMs 100)) }

/-- What a new map does to generations (R168, R212): shards of a replaced generation drain; generations of a freed handle are given up. -/
def applyGens (old : CMap) (n : Node) : Node :=
  let replaced := fun (h g : Nat) => currentGen old h = some g && currentGen n.map h = some (nextGen g)
  let n : Node := ((n.shards.filter (fun s => replaced s.key.handle s.key.gen)).map (·.key)).foldl (fun n k => genDrain k n) n
  let freed := fun (h : Nat) => (currentGen old h).isSome && (currentGen n.map h).isNone
  let over_ := old.gens.filter (fun x => replaced x.handle x.gen || freed x.handle)
  { n with
    shards := n.shards.map (fun s => if freed s.key.handle then { s with state := 3, steps := [] } else s),
    replaced := n.replaced ++ over_.map (fun x => (x.handle, x.gen, n.tick)),
    tabs := n.tabs.map (fun t => if freed t.handle || replaced t.handle t.gen then { t with overLim := 2 ^ 32 } else t) }

/-- A map is applied (R273): every consequence of R277 and of the roles it names. -/
def mapApply (m : CMap) (n : Node) : Node :=
  let old := n.map
  let me := (m.members.find? (fun x => x.serial = n.fuses.serial)).map (·.node)
  let n : Node := { n with
    map := m, nodeId := me.getD n.nodeId, oldMaps := n.oldMaps ++ [m],
    quorum := match me with | some _ => true | none => n.quorum,
    council := { n.council with
      promised := n.council.promised.filter (fun p => m.epoch < p.1),
      accepted := n.council.accepted.filter (fun p => m.epoch < p.1),
      seals := n.council.seals.filter (fun s => (shardRole m s.1).any (fun r => r.incoming.isSome)) },
    suspicions := n.suspicions.filter (fun s => (memberFind m s.node.toNat).any (fun x => x.state ≠ .failed)),
    fenced := n.fenced.filter (fun f => !(memberFind m f).any (fun x => x.state = .testing)) }
  let n : Node := m.descs.foldl (fun n d => learn d n) n
  let gone := (m.members.filter (fun x => (x.state = .failed || x.state = .retired) &&
    !(memberFind old x.node.toNat).any (fun y => y.state = .failed || y.state = .retired))).map (·.node)
  let n : Node := gone.foldl (fun n f => frtReport 0x06 f.toNat 0 m.epoch n) n
  let n : Node := if m.council.contains n.nodeId && decide (countState m [.spare] < spareTargetOf m)
    then frtReport 0x07 n.nodeId.toNat 0 m.epoch n else n
  let n : Node := old.shards.foldl (fun n r => if (shardRole m r.key).isSome then n
    else if (shardFind n r.key).isSome ∧ (currentGen m r.key.handle).isSome then shardMod r.key (fun s => { s with role := 3 }) n else n) n
  let n : Node := m.shards.foldl (fun n r => applyRole (shardRole old r.key) r n) n
  let n : Node := m.tables.foldl (fun n r => applyTable gone (old.tables.find? (fun x => x.key = r.key)) r n) n
  failedWork gone (applyGens old (tabReserve n))

end Sys2Proof.Machine
end

