-- ==== Sys2Proof/Machine/MapProto.lean ====
section
/-!
DEFINITION. Sys2Proof/Machine/MapProto.lean: the map protocol (R272-R275), suspicions and probes (R274), load reports and
slow nodes (R282), joining (R284), moving a shard role (R278), rebuild reads (R337), and a generation's switch (R168).
-/
namespace Sys2Proof.Machine

/-! ### Proposing a map (R272) -/

def ballotLt (a b : Ballot) : Bool := decide (a.round < b.round) || (a.round = b.round && decide (a.node < b.node))

/-- A MAP message that expects an answer; one to the node itself arrives without a timeout. -/
def sendMap (dst : BitVec 12) (m : Msg) (n : Node) : Node :=
  if dst = n.nodeId then send dst.toNat m n else sendAwait dst.toNat m n

def toCouncil (m : Msg) (n : Node) : Node := n.map.council.foldl (fun n c => sendMap c m n) n

/-- A change that the applied map already shows is wanted no more. -/
def changeMoot (m : CMap) : MapChange → Bool
  | .memberState id s => match memberFind m id.toNat with
    | some x => x.state = s || x.state = .retired || (s = .slow && x.state ≠ .active)
    | none => true
  | .makeCurrent g => m.gens.contains g
  | .seals l => l.all (fun x => (shardRole m x.1).all (fun r => r.incoming.isNone))
  | .moved id => !m.shards.any (fun r => r.incoming = some id)
  | _ => false

/-- Epochs end at 0xFFFF_FFFE; there only a re-formed composition goes on (R272, R391). -/
def epochOpen (n : Node) (c : MapChange) : Bool :=
  if c = .reform then n.map.epoch = 0xFFFFFFFE else decide (n.map.epoch < 0xFFFFFFFE)

/-- Step 1: PREPARE under a ballot above every one seen, for the first change wanted. -/
def propose (n : Node) : Node :=
  let n : Node := { n with council := { n.council with wants := n.council.wants.filter (fun c => !changeMoot n.map c) } }
  match n.council.prop, n.council.wants with
  | none, c :: _ =>
    if n.map.council.isEmpty ∨ !epochOpen n c then n
    else
      let b : Ballot := { round := n.council.round + 1, node := n.nodeId.toNat }
      let m := formMap n c
      let n : Node := { n with
        council := { n.council with
          round := b.round,
          prop := some { epoch := m.epoch, ballot := b, change := c, own := m, map := m, phase := 1, promises := [], accepts := [],
                         backoff := none } } }
      toCouncil (.prepare { epoch := m.epoch, ballot := b }) n
  | _, _ => n

/-- The node wants a change committed. -/
def want (c : MapChange) (n : Node) : Node :=
  propose (if n.council.wants.contains c then n
    else { n with council := { n.council with wants := n.council.wants ++ [c] } })

def majority (n : Node) (k : Nat) : Bool := decide (n.map.council.length < 2 * k)

def onCouncil (n : Node) : Bool := n.map.council.contains n.nodeId

def councilMod (f : Council → Council) (n : Node) : Node := { n with council := f n.council }

/-- An epoch that this member votes on no more: one that it has applied, and 0xFFFF_FFFF, which no map bears (R272). -/
def staleEpoch (n : Node) (e : Nat) : Bool := e = 0xFFFFFFFF || decide (e ≤ n.map.epoch && n.map.epoch ≠ 0xFFFFFFFE)

/-- Step 2: a promise to accept no lower ballot, with the map accepted so far; a lower ballot learns of the higher one. -/
def prepareIn (h : MsgHdr) (m : PrepareMsg) (n : Node) : Node :=
  if !onCouncil n || staleEpoch n m.epoch then n
  else
    let n : Node := councilMod (fun c => { c with round := Nat.max c.round m.ballot.round }) n
    let held := n.council.promised.find? (fun p => p.1 = m.epoch)
    let best := match held with | some p => if ballotLt m.ballot p.2 then p.2 else m.ballot | none => m.ballot
    let acc := (n.council.accepted.find? (fun a => a.1 = m.epoch)).map (fun a => (a.2.1, a.2.2))
    let n : Node := councilMod (fun c => { c with promised := c.promised.filter (fun p => p.1 ≠ m.epoch) ++ [(m.epoch, best)] }) n
    sendTag h.src.toNat h.tag.toNat (.promise { epoch := m.epoch, ballot := best, accepted := acc }) n

/-- A proposer that meets a higher ballot waits a random 50-150 µs. -/
def backOff (round : Nat) (n : Node) : Node :=
  let (x, n) := fresh n
  councilMod (fun c => { c with
    round := Nat.max c.round round, prop := c.prop.map (fun p => { p with backoff := some (n.tick + 5000 + x % 10001) }) }) n

/-- Step 3: with promises from a majority the returned map of the highest ballot is proposed, or the proposer's own. -/
def promiseIn (h : MsgHdr) (m : PromiseMsg) (n : Node) : Node :=
  let n : Node := (awaitTake h.tag.toNat n).2
  match n.council.prop with
  | none => n
  | some p =>
    if p.epoch ≠ m.epoch ∨ p.backoff.isSome then n
    else if ballotLt p.ballot m.ballot then backOff m.ballot.round n
    else if m.ballot ≠ p.ballot ∨ p.phase ≠ 1 ∨ !n.map.council.contains h.src ∨ p.promises.any (fun x => x.1 = h.src.toNat) then n
    else
      let ps := p.promises ++ [(h.src.toNat, m.accepted)]
      if majority n ps.length then
        let best := (ps.filterMap (·.2)).foldl (fun (b : Option (Ballot × CMap)) x =>
          match b with | some y => if ballotLt y.1 x.1 then some x else b | none => some x) none
        let map := match best with | some x => x.2 | none => p.own
        let n : Node := councilMod (fun c => { c with prop := some { p with promises := ps, map := map, phase := 2 } }) n
        toCouncil (.accept { epoch := p.epoch, ballot := p.ballot, map := map }) n
      else councilMod (fun c => { c with prop := some { p with promises := ps } }) n

/-- Step 4: a member that has promised no higher ballot writes the map and ballot to its flash journal, then answers
(at once where its pool places nothing). -/
def acceptIn (h : MsgHdr) (m : AcceptMsg) (n : Node) : Node :=
  if !onCouncil n || staleEpoch n m.epoch then n
  else
    let n : Node := councilMod (fun c => { c with round := Nat.max c.round m.ballot.round }) n
    match n.council.promised.find? (fun p => p.1 = m.epoch && ballotLt m.ballot p.2) with
    | some p => sendTag h.src.toNat h.tag.toNat (.promise { epoch := m.epoch, ballot := p.2, accepted := none }) n
    | none =>
      let n : Node := councilMod (fun c => { c with
        promised := c.promised.filter (fun p => p.1 ≠ m.epoch) ++ [(m.epoch, m.ballot)],
        accepted := c.accepted.filter (fun p => p.1 ≠ m.epoch) ++ [(m.epoch, m.ballot, m.map)],
        writes := c.writes ++ [(m.epoch, m.ballot, h.src.toNat, h.tag.toNat)] }) n
      let (_, n) := ownWrite 0 (some ({ handle := 0, gen := 0, shard := 0 }, m.epoch)) none (unitsOf (mapBytes m.map)) n
      if n.ftl.buf.any (fun u => u.jour = some ({ handle := 0, gen := 0, shard := 0 }, m.epoch)) then n else mapInFlash m.epoch n

/-- Step 5: with acceptances from a majority the map is committed and COMMIT goes to every member. The map is answered for the
proposer to apply. -/
def acceptedIn (h : MsgHdr) (m : PrepareMsg) (n : Node) : Option CMap × Node :=
  let n : Node := (awaitTake h.tag.toNat n).2
  match n.council.prop with
  | none => (none, n)
  | some p =>
    if p.epoch ≠ m.epoch ∨ m.ballot ≠ p.ballot ∨ p.phase ≠ 2 ∨ !n.map.council.contains h.src ∨ p.accepts.contains h.src.toNat
    then (none, n)
    else
      let l := p.accepts ++ [h.src.toNat]
      let n : Node := councilMod (fun c => { c with prop := some { p with accepts := l } }) n
      if majority n l.length then
        let towards := ((p.map.members ++ n.map.members).map (·.node)).foldl (fun (acc : List (BitVec 12)) x =>
          if acc.contains x || x = n.nodeId then acc else acc ++ [x]) []
        (some p.map, towards.foldl (fun n d => send d.toNat (.commit { epoch := p.epoch, ballot := p.ballot, digest := mapDigest p.map }) n) n)
      else (none, n)

/-- The map follows the one this node holds (R273): the next epoch, chained by its digest; a node without a map takes any. -/
def mapFollows (n : Node) (m : CMap) : Bool :=
  n.map.epoch = 0 ||
  ((m.epoch = n.map.epoch + 1 || (n.map.epoch = 0xFFFFFFFE && m.epoch = 1)) && m.prevDigest = mapDigest n.map)

/-- Fetch a map from a council member, or from `src` where this node knows no council. -/
def fetchFrom (src : BitVec 12) (e : Nat) (n : Node) : Node :=
  if n.map.council.isEmpty then
    (if n.awaits.any (fun a => a.m = .epochFetch e) then n else sendAwait src.toNat (.epochFetch e) n)
  else fetchEpoch e n

/-- A COMMIT arrives (R273): the map accepted under that digest is applied; otherwise the next missing epoch is fetched. -/
def commitIn (h : MsgHdr) (m : CommitMsg) (n : Node) : Option CMap × Node :=
  let held := (n.council.accepted.find? (fun a => a.1 = m.epoch && mapDigest a.2.2 = m.digest)).map (fun a => a.2.2)
  match held with
  | some x => if mapFollows n x then (some x, n) else (none, n)
  | none =>
    if n.map.epoch = 0 then (none, fetchFrom h.src m.epoch n)
    else if n.map.epoch < m.epoch ∨ n.map.epoch = 0xFFFFFFFE then
      (none, fetchFrom h.src (if n.map.epoch = 0xFFFFFFFE then m.epoch else n.map.epoch + 1) n)
    else (none, n)

/-- After a map is applied: the proposal it settles, the requests that waited for it, the fill of a generation that has its
codebook, and the next change wanted (R168, R272, R392). -/
def afterMap (n : Node) : Node :=
  let done := match n.council.prop with | some p => if p.own = n.map then [p.change] else [] | none => []
  let n : Node := councilMod (fun c => { c with prop := none, wants := c.wants.filter (fun w => !done.contains w) }) n
  let (mine, rest) := n.mapJobs.partition (fun j => done.contains j.change || changeMoot n.map j.change)
  let n : Node := mine.foldl (fun n j => mgmtAnswer j.req 0 0 j.result n.map.epoch false bempty n) { n with mapJobs := rest }
  propose (genFill n)

/-! ### Suspicions (R274) -/

/-- The council members that probe a suspect: up to three, on different sleds, the reporter not among them. -/
def probers (n : Node) (reporter : BitVec 12) : List (BitVec 12) :=
  ((n.map.council.filter (fun c => c ≠ reporter)).foldl (fun (acc : List (BitVec 12)) c =>
    if acc.any (fun d => sledOf n.map d = sledOf n.map c) then acc else acc ++ [c]) []).take 3

def suspectIn (h : MsgHdr) (node : BitVec 12) (n : Node) : Node :=
  if !onCouncil n || isFenced n node.toNat || !isMember n node.toNat then n
  else
    let n : Node := if n.suspicions.any (fun s => s.node = node) then n
      else { n with suspicions := n.suspicions ++ [{ node := node, at_ := n.tick, nonces := [] }] }
    if (probers n h.src).contains n.nodeId then
      let (x, n) := fresh n
      let nonce := BitVec.ofNat 256 x
      let n : Node := { n with
        suspicions := lmodify (fun s => s.node = node) (fun s => { s with nonces := s.nonces ++ [nonce] }) n.suspicions }
      sendAvoiding h.src.toNat node.toNat (.probe node nonce) n
    else n

def probeIn (h : MsgHdr) (node : BitVec 12) (nonce : BitVec 256) (n : Node) : Node :=
  if node = n.nodeId then sendTag h.src.toNat h.tag.toNat (.probeAnswer nonce) n else n

def probeAnswerIn (nonce : BitVec 256) (n : Node) : Node :=
  { n with suspicions := n.suspicions.filter (fun s => !s.nonces.contains nonce) }

def probeMs (n : Node) : Nat := rfield n .frt 0 0x10C 23 16

/-- No probe answered, and no other message from the node, within PROBE_MS: the council commits it FAILED. -/
def probeExpiry (node : BitVec 12) (n : Node) : Node :=
  match n.suspicions.find? (fun s => s.node = node) with
  | none => n
  | some s =>
    let n : Node := reach (s.at_ + ticksMs (probeMs n)) { n with suspicions := n.suspicions.filter (fun s => s.node ≠ node) }
    want (.memberState node .failed) n

/-- A council member that has heard nothing of the MAP class from a member for 3 s suspects it. -/
def silence (node : BitVec 12) (n : Node) : Node :=
  if onCouncil n && isMember n node.toNat && !isFenced n node.toNat && node ≠ n.nodeId then
    suspectNode node .silence (reach (sget 0 n.mapHeard node.toNat + ticksS 3) n)
  else n

/-- A member that reaches no council majority for 10 ms (R275). -/
def quorumLost (n : Node) : Node :=
  if n.quorum ∧ n.map.council ≠ [n.nodeId] then
    let n : Node := reach (n.quorumLostAt + ticksMs 10) n
    frtReport 0x05 n.nodeId.toNat 0 n.map.epoch { n with quorum := false, quorumLostAt := n.tick }
  else n

/-! ### Load reports (R282) -/

/-- The median of times; of an even number, the mean of the middle two (log 25). -/
def median (l : List Nat) : Nat :=
  let s := lsort (fun a b => decide (a < b)) l
  let k := s.length
  if k % 2 = 1 then s.getD (k / 2) 0 else (s.getD (k / 2 - 1) 0 + s.getD (k / 2) 0) / 2

/-- A primary that moves away seals a shard once the incoming holder has every step to within one commit step; when that is,
no message says (log 26). -/
def sealTry (r : ShardRole) (n : Node) : Node :=
  let moving : Bool := match memberFind n.map n.nodeId.toNat with | some x => x.state = .slow || x.state = .retired | none => false
  match shardFind n r.key with
  | some s =>
    if s.role = 0 ∧ s.sealed.isNone ∧ r.incoming.isSome ∧ moving then
      let (x, n) := fresh n
      if x % 2 = 0 then n
      else sealSend r.key (closeStep r.key (shardMod r.key (fun s => { s with sealed := some n.tick }) n))
    else n
  | none => n

def loadReportSend (n : Node) : Node :=
  let state := (memberFind n.map n.nodeId.toNat).map (·.state)
  let n : Node := reach (n.loadAt + ticksS 1) n
  let n : Node := n.map.shards.foldl (fun n r => sealTry r n) (genSweep { n with loadAt := n.tick })
  let holders := (n.partialTimes.map (·.1)).foldl (fun acc x => ninsert x acc) []
  let meds := holders.map (fun x => (BitVec.ofNat 12 x, median ((n.partialTimes.filter (fun t => t.1 = x)).map (·.2))))
  let n : Node := { n with partialTimes := [] }
  match state with
  | none => n
  | some .absent => n
  | some _ => n.map.council.foldl (fun n c => send c.toNat (.loadReport meds) n) n

def slowPct (n : Node) : Nat := rfield n .frt 0 0x10C 31 24

/-- One holder of a LOAD_REPORT: ten reports in a row over the median by SLOW_PCT mark it SLOW, unless the holder reports
itself throttled, which no message carries (log 26). -/
def slowCheck (src : Nat) (all : Nat) (x : BitVec 12 × Nat) (n : Node) : Node :=
  let k := src * 4096 + x.1.toNat
  if all * (100 + slowPct n) < x.2 * 100 then
    let runs := sget 0 n.slowRuns k + 1
    let n : Node := { n with slowRuns := sset 0 n.slowRuns k (if 10 ≤ runs then 0 else runs) }
    if runs < 10 then n
    else
      let (t, n) := fresh n
      if t % 2 = 0 ∨ !(memberFind n.map x.1.toNat).any (fun m => m.state = .active) then n
      else want (.memberState x.1 .slow) (frtReport 0x08 x.1.toNat 0 n.map.epoch n)
  else { n with slowRuns := sset 0 n.slowRuns k 0 }

/-- Step 4 of R278 for the roles whose copy a live incoming holder has completed; when that is, no message says (log 26). -/
def movedCheck (src : BitVec 12) (n : Node) : Node :=
  if onCouncil n && n.map.shards.any (fun r => r.incoming = some src && r.primary.isSome) then
    let (x, n) := fresh n
    if x % 2 = 0 then n else want (.moved src) n
  else n

def loadReportIn (h : MsgHdr) (meds : List (BitVec 12 × Nat)) (n : Node) : Node :=
  if !onCouncil n then n
  else
    let all := median (meds.map (·.2))
    movedCheck h.src (meds.foldl (fun n x => slowCheck h.src.toNat all x n) n)

/-! ### Joining (R284, R361, R363, R369) -/

/-- A signature over the digest of bytes (R358). -/
def sigOk (key signed sig : Blob) : Bool :=
  Config.falconVerify (blist key) (blist { len := 64, bits := (Config.shake256 (blist signed)).toNat }) (blist sig)

def certKey (c : Blob) : Blob := bslice c 0x20 1793

/-- A certificate of a kind, signed under a key with a key id; its subject where one is due. -/
def certOk (kind : Nat) (issuer : Blob) (issuerId : Nat) (subject : Option (BitVec 128)) (c : Blob) : Bool :=
  c.len = 3112 && bnum c 3 1 = 1 && bnum c 2 1 = kind && bnum c 4 2 = issuerId &&
  (match subject with | some s => bnum c 8 16 = s.toNat | none => true) && sigOk issuer (bslice c 0 0x728) (bslice c 0x728 1280)

def rootKey (image : Blob) : Blob := bslice image 0x1200 1793

/-- The chain of a JOIN: MANUFACTURING under the root key of the running image, DEVICE, ATTESTATION, and the report's own
signature (R363, R369). -/
def joinChainOk (n : Node) (m : JoinMsg) : Bool :=
  let att := bslice m.certs 0 3112
  let dev := bslice m.certs 3112 3112
  let mfg := bslice m.certs 6224 3112
  certOk 2 (rootKey n.running) 0 none mfg && certOk 3 (certKey mfg) (bnum mfg 0 2) (some m.serial) dev &&
  certOk 4 (certKey dev) (bnum dev 0 2) (some m.serial) att && m.report.len = 1600 && bnum m.report 3 1 = 1 &&
  bnum m.report 0x10 16 = m.serial.toNat && sigOk (certKey att) (bslice m.report 0 0x140) (bslice m.report 0x140 1280)

/-- Checks of a JOIN in order: 1 the signature chain and the probe nonce, 2 the compat level, 3 a RETIRED serial; 0 passes. -/
def joinCheck (n : Node) (m : JoinMsg) : Nat :=
  if !joinChainOk n m || !n.nonces.contains (BitVec.ofNat 256 (bnum m.report 0x20 32)) then 1
  else if m.compat < 1 ∨ 3 < m.compat then 2
  else if n.map.members.any (fun x => x.serial = m.serial && x.state = .retired) then 3
  else 0

/-- The node id of an admitted node: its former one where that is its own, or the lowest that the map does not name. -/
def joinId (n : Node) (m : JoinMsg) : BitVec 12 :=
  match m.former.filter (fun f => n.map.members.any (fun x => x.node = f && x.serial = m.serial)) with
  | some f => f
  | none => BitVec.ofNat 12 (((List.range 4096).find? (fun i => (memberFind n.map i).isNone)).getD 0)

def joinIn (h : MsgHdr) (m : JoinMsg) (n : Node) : Node :=
  if !onCouncil n then
    let (c, n) := councilOther n
    match c with
    | some c => sendHdr h.src.toNat c.toNat (msgLevel n c.toNat (.join m)) n.map.epoch 0 h.tag.toNat (.join m) n
    | none => n
  else
    let k := joinCheck n m
    if k ≠ 0 then
      let (x, n) := fresh n
      let nonce := BitVec.ofNat 256 x
      sendTag h.src.toNat h.tag.toNat (.joinAnswer false k nonce) { n with nonces := n.nonces ++ [nonce] }
    else
      let nonce := BitVec.ofNat 256 (bnum m.report 0x20 32)
      let x : Member := { node := joinId n m, serial := m.serial, sled := m.sled, compat := m.compat, state := .testing }
      let n : Node := sendTag h.src.toNat h.tag.toNat (.joinAnswer true 0 nonce) { n with nonces := n.nonces.filter (fun y => y ≠ nonce) }
      want (.joined x (m.trunks.map (fun t => (x.node, t.2)))) n

/-- A header field of a calibration set (R370). -/
def calField (c : Blob) (i : Nat) : Nat := bnum c (Config.calAt i).1 (Config.calAt i).2

/-- An attestation report over a nonce (R369). -/
def attReport (n : Node) (nonce : Nat) : Blob :=
  let ver := bnum n.running 4 2
  let flags := b2n n.recovered + 2 * b2n (calField n.calSet 3 = 1) + 4 * b2n n.calInvalid + 8 * b2n (n.fuses.rollback < ver)
  let dig := fun (b : Blob) => ({ len := 64, bits := (Config.shake256 (blist b)).toNat } : Blob)
  let body := bconcat [bofNat 4 (2 ^ 24 + 3 * 2 ^ 16 + 0xA1 * 2 ^ 8 + flags), bofNat 4 (ver % 65536 * 2 ^ 16 + n.fuses.rollback % 256 * 2 ^ 8),
    bofNat 4 (n.fuses.revoke % 65536 * 2 ^ 16), bofNat 4 n.map.epoch, bofNat 16 n.fuses.serial.toNat, bofNat 32 nonce,
    { len := 64, bits := Config.romDigest.toNat }, bofNat 64 (bnum n.running 0x10 64), dig n.calSet, bofNat 8 n.tick, bofNat 56 0]
  bappend body { len := 1280, bits := Config.falconSign (blist (attSeed n)) (blist (dig body)) }
where
  /-- The seed of the attestation key (R364 step 4). -/
  attSeed (n : Node) : Blob :=
    { len := 64, bits := (Config.shake256 (blist (bconcat [n.fuses.seed, bofNat 64 (bnum n.running 0x10 64), bofNat 2 (bnum n.running 4 2)]))).toNat }

/-- The report with the ATTESTATION, DEVICE and MANUFACTURING certificates. -/
def attBlob (n : Node) (nonce : Nat) : Blob :=
  bconcat [attReport n nonce, n.attCert, bslice n.identity 3112 3112, bslice n.identity 0 3112]

/-- Links of this node that run to members of another group, or to any peer before it has an id (R264). -/
def joinTrunks (n : Node) : List (BitVec 12 × BitVec 12) :=
  n.links.filterMap (fun l => match l.2 with
    | some x => if (x.state = 2 || x.state = 3) && groupOf (BitVec.ofNat 12 x.peer) ≠ groupOf n.nodeId
        then some (n.nodeId, BitVec.ofNat 12 x.peer) else none
    | none => none)

def joinSend (dst : Nat) (nonce : Nat) (n : Node) : Node :=
  let a := attBlob n nonce
  sendAwait dst (.join {
    serial := n.fuses.serial, compat := 3, sled := Config.sled,
    former := (n.map.members.find? (fun x => x.serial = n.fuses.serial)).map (·.node), report := bslice a 0 1600,
    certs := bslice a 1600 9336, trunks := joinTrunks n }) n

/-- A JOIN_ANSWER: with the council's nonce, the node joins again under a report over it. -/
def joinAnswerIn (h : MsgHdr) (accepted : Bool) (check : Nat) (nonce : BitVec 256) (n : Node) : Node :=
  let (a, n) := awaitTake h.tag.toNat n
  match a.map Await.m with
  | some (Msg.join m) =>
    if !accepted && check = 1 && BitVec.ofNat 256 (bnum m.report 0x20 32) ≠ nonce then joinSend h.src.toNat nonce.toNat n else n
  | _ => n

/-- The admission tests end (step 5 of R284). The record of a failing test has no code of its own in the manual (log 27). -/
def testsDone (ok : Bool) (failing : Nat) (n : Node) : Node :=
  if (memberFind n.map n.nodeId.toNat).any (fun x => x.state = .testing) then
    (if ok then want (.memberState n.nodeId .spare) n else report .recb 0 0x08 (failing % 4096) 0 n)
  else n

/-! ### Moving roles, rebuilding (R278, R337) -/

/-- A SEAL: the new holder notes the sealed MSN; the council moves the shards of one incoming holder once all are sealed. -/
def sealIn (h : MsgHdr) (key : ShardKey) (msn : Nat) (n : Node) : Node :=
  match shardRole n.map key with
  | none => n
  | some r =>
    if !r.primary.any (fun p => p.node = h.src) then n
    else
      let n : Node := if r.incoming = some n.nodeId then shardMod key (fun s => { s with committed := Nat.max s.committed msn }) n else n
      if !onCouncil n then n
      else
        let n : Node := councilMod (fun c => { c with seals := c.seals.filter (fun s => s.1 ≠ key) ++ [(key, msn)] }) n
        let due := n.map.shards.filter (fun x => x.incoming.isSome && x.primary.any (fun p => p.node = h.src))
        if due.all (fun x => n.council.seals.any (fun s => s.1 = x.key)) then
          want (.seals (n.council.seals.filter (fun s => due.any (fun x => x.key = s.1)))) n
        else n

/-- 1 ms after the seal the held sub-batches answer RETRY_LATER, and so do new ones until the map of step 4. -/
def sealExpiry (key : ShardKey) (n : Node) : Node :=
  match (shardFind n key).bind (·.sealed) with
  | none => n
  | some t =>
    let n : Node := reach (t + ticksMs 1 + 1) n
    let (mine, rest) := n.heldSubs.partition (fun x => x.m.key = key)
    mine.foldl (fun n x => answerSub x.h.src.toNat x.h.tag.toNat (wholeWords x.m 5 1000) false false x.m.forwarded n)
      { n with heldSubs := rest }

/-- A REBUILD_READ is answered from the journal, with the request entries of the steps that the records belong to, and for a range of
MSNs with those of steps without records (R162); and from the full-vector area. -/
def rebuildReadIn (h : MsgHdr) (m : RebuildReadMsg) (n : Node) : Node :=
  match shardFind n m.key, genFind n m.key.handle m.key.gen with
  | some s, some g =>
    let want := fun (r : JRec) => (m.firstMsn ≤ r.msn && r.msn ≤ m.lastMsn) || m.lids.contains r.lid
    let recs := (s.journal.flatMap (·.recs)).filter want
    let reqs := (s.journal.filter (fun x => (x.lastMsn = 0 && m.lids.isEmpty) || x.recs.any want)).flatMap (·.reqs)
    let size := fullSize (gFullFmt g) (gDim g)
    let fulls := (m.lids.filter (fun l => s.full.any (fun e => e.1 = l))).map (fun l => (l, ({ len := size, bits := sget 0 s.full l } : Blob)))
    sendTag h.src.toNat h.tag.toNat (.rebuildData { key := m.key, recs := recs, reqs := reqs, fulls := fulls }) n
  | _, _ => n

/-- Steps that this holder lacks come as records and request entries: they are taken as one step (R162, R173, R169). -/
def stepsLacking (m : RebuildDataMsg) (n : Node) : Node :=
  match shardFind n m.key with
  | none => n
  | some s =>
    let rs := lsort (fun (a b : JRec) => decide (a.msn < b.msn)) (m.recs.filter (fun r => decide (s.lastMsn < r.msn)))
    let qs := m.reqs.filter (fun q => (dupFind n m.key q.tid q.reqId q.crc).all (fun d => d.crc ≠ q.crc))
    match rs, rs.getLast? with
    | r :: _, some l => mirrorStep { key := m.key, firstMsn := r.msn, lastMsn := l.msn, recs := rs, reqs := qs } n
    | _, _ => qs.foldl (fun n q => dupAdd (dupOf m.key q (some n.tick)) n) n

/-- A REBUILD_DATA restores what it carries, and then what is derived from it; a shard whose objects are whole leaves
REBUILDING. -/
def rebuildDataIn (h : MsgHdr) (m : RebuildDataMsg) (n : Node) : Node :=
  let (a, n) := awaitTake h.tag.toNat n
  match a, genFind n m.key.handle m.key.gen, shardFind n m.key with
  | some _, some g, some s =>
    let n : Node := m.fulls.foldl (fun n f => restoreItem m.key g f.1 f.2 n) n
    let held := m.recs.filter (fun r => r.kind ≠ 2 && decide (r.msn ≤ s.lastMsn))
    let n : Node := held.foldl (fun n r =>
      let n : Node := if m.fulls.any (fun f => f.1 = r.lid) then n else restoreItem m.key g r.lid r.full n
      let n : Node := unpoison (attrAddr s r.lid) 16 (shardMod m.key (fun s => { s with attr := sset 0 s.attr r.lid r.attr.toNat }) n)
      if !poisoned n (idmapAddr s r.lid) 16 then n
      else
        let del := match m.recs.find? (fun x => x.kind ≠ 1 && x.oldId = r.lid) with | some x => x.msn | none => 0
        unpoison (idmapAddr s r.lid) 16 (shardMod m.key (fun s => { s with idmap := sins s.idmap r.lid (idmapMk r.ckey del) }) n)) n
    let n : Node := stepsLacking m n
    let lids := m.fulls.map (·.1) ++ held.map (·.lid)
    wholeAgain m.key (lids.foldl (fun n l => if poisoned n (adjAddr s l) 256 then relink m.key g l n else n) n)
  | _, _, _ => n

/-- Step 3 of R168: once every primary of g has forwarded to within one commit step, g + 1 is made current at one epoch. What
the other primaries have forwarded, the command says by being given. -/
def genSwitch (handle : Nat) (n : Node) : Node :=
  match currentGen n.map handle with
  | none => n
  | some g =>
    let ready := n.shards.all (fun s => !(s.key.handle = handle && s.key.gen = g && s.role = 0) ||
      (s.copyPoint.isSome && decide (((s.steps.filter (fun p => s.forwarded < p.step.lastMsn)).length) ≤ 1)))
    let there := n.map.shards.any (fun r => r.key.handle = handle && r.key.gen = nextGen g)
    if ready && there then want (.makeCurrent { handle := handle, gen := nextGen g }) n else n

/-- The forwarding entry of a shard or table shard ends after 2 ms (R276); a shard given up leaves with it. -/
def fwdExpiry (key : ShardKey) (n : Node) : Node :=
  match n.fwds.find? (fun f => f.key = key) with
  | none => n
  | some f => genSweep (reach (f.at_ + ticksMs 2 + 1) { n with fwds := n.fwds.filter (fun f => f.key ≠ key) })

/-! ### The commands -/

def execPrepare (h : MsgHdr) (m : PrepareMsg) (s : State) : Host.Outcome State Fault Refusal :=
  run s (fabricIn h (.prepare m) (prepareIn h m))

def execPromise (h : MsgHdr) (m : PromiseMsg) (s : State) : Host.Outcome State Fault Refusal :=
  run s (fabricIn h (.promise m) (promiseIn h m))

def execAccept (h : MsgHdr) (m : AcceptMsg) (s : State) : Host.Outcome State Fault Refusal :=
  run s (fabricIn h (.accept m) (acceptIn h m))

/-- The back-off ends and the proposer starts again at step 1 (R272). -/
def execProposerBackoffExpiry (s : State) : Host.Outcome State Fault Refusal :=
  run s (fun n => match n.council.prop.bind (·.backoff) with
    | some t => propose (councilMod (fun c => { c with prop := none }) (reach t n))
    | none => n)

/-- EPOCH_FETCH is answered with the map of that epoch, where this node has it. -/
def execEpochFetch (h : MsgHdr) (epoch : Nat) (s : State) : Host.Outcome State Fault Refusal :=
  run s (fabricIn h (.epochFetch epoch) (fun n =>
    match n.oldMaps.reverse.find? (fun m => m.epoch = epoch) with
    | some m => sendTag h.src.toNat h.tag.toNat (.epochData m) n
    | none => n))

/-- 200 µs without the epoch: the messages that waited for it are dropped (R273). -/
def execEpochFetchTimeout (epoch : Nat) (s : State) : Host.Outcome State Fault Refusal :=
  run s (fun n => match n.awaits.find? (fun a => a.m = .epochFetch epoch) with
    | none => n
    | some a =>
      let n : Node := reach (a.at_ + ticksUs 200) { n with awaits := n.awaits.filter (fun a => a.m ≠ .epochFetch epoch) }
      let (mine, rest) := n.heldMsgs.partition (fun x => decide (epoch ≤ x.h.epoch.toNat))
      mine.foldl (fun n x => frtReport 0x04 x.h.src.toNat x.h.cls.toNat epoch n) { n with heldMsgs := rest })

def execSuspect (h : MsgHdr) (node : BitVec 12) (cause : SuspectCause) (s : State) : Host.Outcome State Fault Refusal :=
  run s (fabricIn h (.suspect node cause) (suspectIn h node))

def execProbe (h : MsgHdr) (node : BitVec 12) (nonce : BitVec 256) (s : State) : Host.Outcome State Fault Refusal :=
  run s (fabricIn h (.probe node nonce) (probeIn h node nonce))

def execProbeAnswer (h : MsgHdr) (nonce : BitVec 256) (s : State) : Host.Outcome State Fault Refusal :=
  run s (fabricIn h (.probeAnswer nonce) (probeAnswerIn nonce))

def execProbeWindowExpiry (node : BitVec 12) (s : State) : Host.Outcome State Fault Refusal := run s (probeExpiry node)

def execCouncilSilenceTimeout (node : BitVec 12) (s : State) : Host.Outcome State Fault Refusal := run s (silence node)

def execQuorumLossTimeout (s : State) : Host.Outcome State Fault Refusal := run s quorumLost

def execForwardingEntryExpiry (key : ShardKey) (s : State) : Host.Outcome State Fault Refusal := run s (fwdExpiry key)

def execLoadReportTimer (s : State) : Host.Outcome State Fault Refusal := run s loadReportSend

def execLoadReport (h : MsgHdr) (medians : List (BitVec 12 × Nat)) (s : State) : Host.Outcome State Fault Refusal :=
  run s (fabricIn h (.loadReport medians) (loadReportIn h medians))

/-- NODE_WITHDRAW: the council commits the node FAILED without probes (R336). -/
def execNodeWithdraw (h : MsgHdr) (cause : Nat) (s : State) : Host.Outcome State Fault Refusal :=
  run s (fabricIn h (.nodeWithdraw cause) (fun n => if onCouncil n then want (.memberState h.src .failed) n else n))

def execJoin (h : MsgHdr) (m : JoinMsg) (s : State) : Host.Outcome State Fault Refusal := run s (fabricIn h (.join m) (joinIn h m))

def execJoinAnswer (h : MsgHdr) (accepted : Bool) (check : Nat) (nonce : BitVec 256) (s : State) : Host.Outcome State Fault Refusal :=
  run s (fabricIn h (.joinAnswer accepted check nonce) (joinAnswerIn h accepted check nonce))

def execAdmissionTestsComplete (ok : Bool) (failing : Nat) (s : State) : Host.Outcome State Fault Refusal := run s (testsDone ok failing)

def execSeal (h : MsgHdr) (key : ShardKey) (msn : Nat) (s : State) : Host.Outcome State Fault Refusal :=
  run s (fabricIn h (.seal key msn) (sealIn h key msn))

def execSealHoldExpiry (key : ShardKey) (s : State) : Host.Outcome State Fault Refusal := run s (sealExpiry key)

def execCopy (h : MsgHdr) (m : CopyMsg) (s : State) : Host.Outcome State Fault Refusal := run s (fabricIn h (.copy m) (copyIn m))

def execRebuildRead (h : MsgHdr) (m : RebuildReadMsg) (s : State) : Host.Outcome State Fault Refusal :=
  run s (fabricIn h (.rebuildRead m) (rebuildReadIn h m))

def execRebuildData (h : MsgHdr) (m : RebuildDataMsg) (s : State) : Host.Outcome State Fault Refusal :=
  run s (fabricIn h (.rebuildData m) (rebuildDataIn h m))

def execGenerationSwitch (handle : Nat) (s : State) : Host.Outcome State Fault Refusal := run s (genSwitch handle)

end Sys2Proof.Machine
end

