-- ==== Sys2Proof/Machine/Ether.lean ====
section
/-!
DEFINITION. Sys2Proof/Machine/Ether.lean: frames that are not RoCEv2 (R290), flow control (R292), congestion (R293), the
transport's acknowledgements, retries and errors (R28, R291, R296, R299), discovery (R301), calendar entries (R302),
sampling (R307) and the state of the logical ports (R289, R309). A port is numbered 4p + q.
-/
namespace Sys2Proof.Machine

def ethDown : EthPort := { link := 0, paused := none, ignore := none }

def ethGet (n : Node) (p : Nat) : EthPort := sget ethDown n.ethPorts p

def ethSet (p : Nat) (v : EthPort) (n : Node) : Node := { n with ethPorts := sset ethDown n.ethPorts p v }

def ethMode (n : Node) (p : Nat) : Nat := n.ethMode.getD (p / 4) 0

/-- The logical port exists in the mode in effect (R289). -/
def ethThere (n : Node) (p : Nat) : Bool := decide (p % 4 < 2 ^ ethMode n p)

/-- Line rate of a logical port in Mb/s. -/
def lineRate (n : Node) (p : Nat) : Nat := 400000 / 2 ^ ethMode n p

/-- Lanes of a logical port as a mask. -/
def ethLanes (n : Node) (p : Nat) : Nat :=
  let w := 4 / 2 ^ ethMode n p
  (2 ^ w - 1) * 2 ^ (w * (p % 4))

def ethCnt (p off : Nat) (n : Node) : Node := bump (regAddr .eth (p / 4) off) 1 n

/-- An ETH report: the logical port and the lane mask (R309). -/
def ethReport (code p : Nat) (n : Node) : Node := report .eth (p / 4) code (p % 4 + ethLanes n p * 16) 0 n

/-- A frame carried by uncorrectable codewords is dropped, and the port reports it (R309). -/
def fecDrop (p : Nat) (n : Node) : Node := ethReport 0x03 p (ethCnt p 0x124 n)

/-- A frame that the node answers when it is for one of its own addresses; otherwise it is dropped and counted (R290). -/
def frameIn (kind : Nat) (f : FrameInfo) (data : Blob) (n : Node) : Node :=
  if f.fecBad then fecDrop f.port.val n
  else if f.forUs && f.fcsOk then emit (.frame f.port.val kind data) n else ethCnt f.port.val 0x128 n

/-- PFC frames at the port's RoCEv2 priority pause and resume its transmission (R292). -/
def pfcIn (p prio : Nat) (pause : Bool) (n : Node) : Node :=
  let n : Node := if pause then ethCnt p 0x12C n else n
  let e := ethGet n p
  if rfield n .eth (p / 4) 0x108 31 31 = 0 ∨ prio ≠ rfield n .eth (p / 4) 0x108 30 28 ∨ e.ignore.isSome then n
  else if pause then (if e.paused.isSome then n else ethSet p { e with paused := some n.tick } n)
  else ethSet p { e with paused := none } n

/-- Paused for 100 ms: PFC frames are ignored on the port for 1 s. -/
def pauseStorm (p : Nat) (n : Node) : Node :=
  match (ethGet n p).paused with
  | none => n
  | some t =>
    let n : Node := reach (t + ticksMs 100) n
    ethReport 0x04 p (ethSet p { ethGet n p with paused := none, ignore := some (n.tick + ticksS 1) } n)

def pauseStormEnd (p : Nat) (n : Node) : Node :=
  match (ethGet n p).ignore with
  | none => n
  | some t => let n : Node := reach t n; ethSet p { ethGet n p with ignore := none } n

/-! ### Congestion (R293) -/

/-- A packet marked CE: a CNP, at most one in each CNP_GAP_US; a queue pair in ERROR sends none (R296). -/
def ceIn (q : Nat) (n : Node) : Node :=
  match qpFind n q with
  | none => n
  | some x =>
    let n : Node := ethCnt x.cfg.lport 0x138 n
    let gap := ticksUs (rfield n .eth (x.cfg.lport / 4) 0x10C 15 0)
    let due : Bool := match x.cnpSent with | some t => decide (t + gap ≤ n.tick) | none => true
    if !due || x.state = 2 then n
    else
      let dscp := rfield n .eth (x.cfg.lport / 4) 0x10C 29 24
      ethCnt x.cfg.lport 0x13C (emit (.frame x.cfg.lport 5 (bofNat 4 (x.cfg.remoteQpn + dscp * 2 ^ 24)))
        (qpMod q (fun x => { x with cnpSent := some n.tick }) n))

/-- A CNP halves the rate, down to 1 Gb/s, no more often than once in 50 µs. -/
def cnpIn (q : Nat) (n : Node) : Node :=
  match qpFind n q with
  | none => n
  | some x =>
    let n : Node := ethCnt x.cfg.lport 0x140 n
    let due : Bool := match x.lastCut with | some t => decide (t + ticksUs 50 ≤ n.tick) | none => true
    qpMod q (fun x => if due then { x with lastCnp := n.tick, rate := Nat.max 1000 (x.rate / 2), lastCut := some n.tick }
      else { x with lastCnp := n.tick }) n

/-- After each 55 µs without a CNP the rate rises by 5 % of the line rate. -/
def rateUp (q : Nat) (n : Node) : Node :=
  match qpFind n q with
  | none => n
  | some x =>
    let line := lineRate n x.cfg.lport
    if line ≤ x.rate then n
    else
      let n : Node := reach (x.lastCnp + ticksUs 55) n
      qpMod q (fun x => { x with lastCnp := n.tick, rate := Nat.min line (x.rate + line / 20) }) n

/-! ### The transport (R28, R291, R296, R299) -/

/-- The next error-slot header leaves once no error-slot write awaits its acknowledgement. -/
def errNext (q : Nat) (n : Node) : Node :=
  match qpFind n q with
  | none => n
  | some x =>
    match x.errQueue with
    | [] => n
    | e :: rest => if x.unacked.any (·.err) then n else errSlotSend x e (qpMod q (fun x => { x with errQueue := rest }) n)

/-- An acknowledgement covers the writes up to a PSN. -/
def rcAckIn (q upTo : Nat) (n : Node) : Node :=
  match qpFind n q with
  | none => n
  | some _ =>
    let covered := fun (w : QpWrite) => decide ((upTo + 2 ^ 24 - w.psn) % 2 ^ 24 < 2 ^ 23)
    errNext q (qpMod q (fun x => { x with unacked := x.unacked.filter (fun w => !covered w), retries := 0, rnrs := 0 })
      { n with lastAck := sins n.lastAck q (upTo % 2 ^ 24) })

/-- Retransmission, or ERROR once RETRY_CNT is exhausted. -/
def ackLate (q : Nat) (n : Node) : Node :=
  match qpFind n q with
  | none => n
  | some x =>
    if x.unacked.isEmpty ∨ x.state = 2 then n
    else if x.retries < x.cfg.retryCnt then emit (.resend q) (qpMod q (fun x => { x with retries := x.retries + 1 }) n)
    else rdmaReport 0x02 x (qpError q n)

/-- An RNR NAK of the client: retried under RNR_RETRY, 7 without limit. -/
def rnrIn (q : Nat) (n : Node) : Node :=
  match qpFind n q with
  | none => n
  | some x =>
    if x.unacked.isEmpty ∨ x.state = 2 then n
    else if x.cfg.rnrRetry = 7 ∨ x.rnrs < x.cfg.rnrRetry then emit (.resend q) (qpMod q (fun x => { x with rnrs := x.rnrs + 1 }) n)
    else rdmaReport 0x03 x (qpError q n)

def unsupported (q : Nat) (n : Node) : Node :=
  match qpFind n q with
  | none => n
  | some x => if x.state ≠ 1 then n else rdmaReport 0x06 x (qpError q (emit (.nak q 2) n))

/-- The client's device rejects a response write (R28): the response is discarded and the queue pair is in ERROR. -/
def writeRejected (q : Nat) (n : Node) : Node :=
  match qpFind n q with
  | none => n
  | some x => if x.state = 2 then n else rdmaReport 0x01 x (bump (regAddr .rdma 0 0x138) 1 (qpError q n))

/-! ### Discovery, calendar and samples (R301, R302, R307) -/

/-- A byte for each of the next `k` ports from `p` on: the measured share of the line rate in use, 0 for a port that the mode lacks. -/
def portShares : Nat → Nat → Node → List Nat × Node
  | 0, _, n => ([], n)
  | k + 1, p, n =>
    let (x, n) := fresh n
    let (l, n) := portShares k (p + 1) n
    ((if ethThere n p then x % 256 else 0) :: l, n)

/-- MEMBER_STATE of this node in its applied map (R271, R287). -/
def ownState (n : Node) : Nat := match memberFind n.map n.nodeId.toNat with | some x => memberCode x.state | none => 0

def discoveryIn (p : Nat) (qkey : Word) (payload : Blob) (sender : Blob) (n : Node) : Node :=
  if qkey ≠ 0x574C0001 ∨ payload ≠ { len := 8, bits := 0x05000000 } then n
  else
    let ms := n.tick / 100000
    let used := if n.discWin.1 = ms then n.discWin.2 else 0
    if rfield n .rdma 0 0x100 15 0 ≤ used then n
    else
      let (shares, n) := portShares 16 0 n
      let answer := bconcat [bofNat 4 (n.nodeId.toNat + ownState n * 2 ^ 28), bofNat 4 n.map.epoch, bofNat 4 3, bofNat 4 0,
        bofList shares, bofNat 16 n.fuses.serial.toNat, bofNat 16 0]
      bump (regAddr .rdma 0 0x140) 1 (emit (.frame p 6 (bappend answer sender)) { n with discWin := (ms, used + 1) })

/-- The start of the next calendar entry. -/
def calendarNext (n : Node) : Node := catchUp (reach ((n.calEntry + 1) * 100) n)

def qpSampleAll (n : Node) : Node :=
  let n : Node := reach (n.sampleAt + ticksUs (rfield n .rdma 0 0x100 31 16)) n
  { n with
    sampleAt := n.tick,
    qps := n.qps.map (fun x => if x.state ≠ 1 then x else { x with
      samples := lpushMax 1024 x.samples (x.slots.length, match lleast (fun a b => decide (a < b)) x.slots with
        | some t => (n.tick - t) / 100
        | none => 0) }) }

/-! ### Port state (R289, R309) -/

def ethDownEv (p : Nat) (n : Node) : Node :=
  if ethThere n p && (ethGet n p).link = 2 then ethReport 0x01 p (ethSet p { ethDown with link := 1 } n) else n

/-- Training is tried again every 1 s; a failed attempt leaves the port in FAULT (log 28). Attachments to modules train not (R289). -/
def anRetry (p : Nat) (ok : Bool) (n : Node) : Node :=
  if !ethThere n p || (ethGet n p).link = 2 || rfield n .eth (p / 4) 0x100 29 28 = 2 then n
  else if ok then ethSet p { ethGet n p with link := 2 } n
  else ethReport 0x02 p (ethSet p { ethGet n p with link := 3 } n)

def ethUp (p : Nat) (n : Node) : Node := if ethThere n p then ethSet p { ethGet n p with link := 2 } n else n

/-! ### The commands -/

def execArp (f : FrameInfo) (s : State) : Host.Outcome State Fault Refusal := run s (frameIn 0 f f.src)

def execNeighbourDiscovery (f : FrameInfo) (s : State) : Host.Outcome State Fault Refusal := run s (frameIn 1 f f.src)

def execIcmpEcho (f : FrameInfo) (payload : Blob) (s : State) : Host.Outcome State Fault Refusal := run s (frameIn 2 f payload)

def execNonRoceFrame (f : FrameInfo) (s : State) : Host.Outcome State Fault Refusal :=
  run s (fun n => if f.fecBad then fecDrop f.port.val n else ethCnt f.port.val 0x128 n)

def execPfcFrame (port : Fin 16) (prio : Nat) (pause : Bool) (s : State) : Host.Outcome State Fault Refusal := run s (pfcIn port.val prio pause)

/-- An IEEE 802.3x PAUSE frame is ignored and counted (R292). -/
def execPauseFrame (port : Fin 16) (s : State) : Host.Outcome State Fault Refusal := run s (ethCnt port.val 0x134)

def execPauseStorm (port : Fin 16) (s : State) : Host.Outcome State Fault Refusal := run s (pauseStorm port.val)

def execPauseStormEnd (port : Fin 16) (s : State) : Host.Outcome State Fault Refusal := run s (pauseStormEnd port.val)

def execCeMarkedPacket (qp : Nat) (s : State) : Host.Outcome State Fault Refusal := run s (ceIn qp)

def execCnp (qp : Nat) (s : State) : Host.Outcome State Fault Refusal := run s (cnpIn qp)

def execRateRecoveryTimer (qp : Nat) (s : State) : Host.Outcome State Fault Refusal := run s (rateUp qp)

def execRcAck (qp upTo : Nat) (s : State) : Host.Outcome State Fault Refusal := run s (rcAckIn qp upTo)

def execAckTimeout (qp : Nat) (s : State) : Host.Outcome State Fault Refusal := run s (ackLate qp)

def execClientRnrNak (qp : Nat) (s : State) : Host.Outcome State Fault Refusal := run s (rnrIn qp)

def execUnsupportedOp (qp : Nat) (s : State) : Host.Outcome State Fault Refusal := run s (unsupported qp)

def execResponseWriteRejected (qp : Nat) (s : State) : Host.Outcome State Fault Refusal := run s (writeRejected qp)

def execDiscovery (port : Fin 16) (qkey : Word) (payload : Blob) (sender : Blob) (s : State) : Host.Outcome State Fault Refusal :=
  run s (discoveryIn port.val qkey payload sender)

def execCalendarEntry (s : State) : Host.Outcome State Fault Refusal := run s calendarNext

def execQpSample (s : State) : Host.Outcome State Fault Refusal := run s qpSampleAll

def execEthLinkDown (port : Fin 16) (s : State) : Host.Outcome State Fault Refusal := run s (ethDownEv port.val)

def execEthLinkUp (port : Fin 16) (s : State) : Host.Outcome State Fault Refusal := run s (ethUp port.val)

def execAnRetry (port : Fin 16) (ok : Bool) (s : State) : Host.Outcome State Fault Refusal := run s (anRetry port.val ok)

end Sys2Proof.Machine
end

