-- ==== Sys2Proof/Machine/Power.lean ====
section
/-!
DEFINITION. Sys2Proof/Machine/Power.lean: operating points (R315-R318, R406), throttle reasons (R319), the cap loop and its
deferrals (R320, R322), regulator alerts (R323), temperature (R324, R325), droop and current gating (R326, R327), energy
accounts and budgets (R330-R332), spare takeover (R339, R340), fatal stops (R312, R314, R356) and the power-fail flush (R355).
-/
namespace Sys2Proof.Machine

def pwrMod (f : PwrSt → PwrSt) (n : Node) : Node := { n with pwr := f n.pwr }

def opTarget (n : Node) : Nat := rfield n .pwr 0 0x100 2 0
def opHold (n : Node) : Nat := rfield n .pwr 0 0x100 10 8

/-- The node operating point: the lowest limit (R315); while a lowering is deferred the cap loop's earlier limit still applies
(R322). -/
def nodeOp (n : Node) : Nat :=
  let cap := match n.pwr.capHeld with | some h => h.1 | none => n.pwr.capLim
  Nat.min (Nat.min (opTarget n) (opHold n)) (Nat.min cap (Nat.min n.pwr.thmLim n.pwr.alertLim))

/-- Throttle reasons in force (R319). -/
def inForce (n : Node) : List Nat :=
  (if n.pwr.capLim < opTarget n ∨ 0 < n.pwr.capGate then [0] else []) ++ (if n.pwr.thmLim < opTarget n then [1] else []) ++
  (if !n.pwr.alerts.isEmpty ∨ n.pwr.alertLim < opTarget n then [2] else []) ++ (if n.pwr.droops.isEmpty then [] else [3]) ++
  (if n.pwr.curGate.isSome then [4] else []) ++ (if n.pwr.held.isEmpty then [] else [5]) ++ (if opHold n < opTarget n then [6] else [])

/-- The durations of the reasons in force are brought up to now. -/
def accrue (n : Node) : Node :=
  let d := n.tick - n.pwr.thrAt
  pwrMod (fun p => { p with
    thr := (inForce n).foldl (fun m c => sset 0 m c (sget 0 m c + d)) p.thr, thrAt := n.tick }) n

def dieOf (page : Nat) : Nat := b2n (Config.onCd1 page)

/-- Pages of every compute unit. -/
def unitPages : List Nat :=
  [Blk.svc, .gwe, .mce, .tns].flatMap (fun b => (List.range (blkInfo b).2.1).map (pageOf b))

/-- The operating point that a unit is to run at (R315); a die whose regulator does not answer is held at OP0 (R406). -/
def unitTarget (n : Node) (page : Nat) : Nat :=
  if n.pwr.opHeld.contains (dieOf page) then 0 else Nat.min (nodeOp n) (unitGet n page).aged

/-- Units that are powered: those not SPARE, QUARANTINED or OFF, and a spare being powered. -/
def unitPowered (n : Node) (page : Nat) : Bool :=
  (unitGet n page).state = 0 || (unitGet n page).state = 2 || n.takeovers.any (fun t => t.spare = some page)

/-- Every unit above its operating point reaches the lower supply (R316). -/
def lowerUnits (n : Node) : Node :=
  unitPages.foldl (fun n p =>
    let u := unitGet n p
    if unitTarget n p < u.cur then unitSet p { u with cur := unitTarget n p } n else n) n

/-- A change to a limit: durations first, then the limit, then the units that must slow down. -/
def limits (f : PwrSt → PwrSt) (n : Node) : Node := lowerUnits (pwrMod f (accrue n))

/-- One step of a raise settles on a die (R316). -/
def stepSettled (die : Nat) (n : Node) : Node :=
  unitPages.foldl (fun n p =>
    let u := unitGet n p
    if dieOf p = die && unitPowered n p && decide (u.cur < unitTarget n p) then unitSet p { u with cur := u.cur + 1 } n else n) n

/-! ### The cap loop (R320, R322) -/

/-- The node is inside a collective phase (R322): a commit step sent and not accepted, a seal, a row handed off and not yet
confirmed, a proposal. -/
def inPhase (n : Node) : Bool :=
  n.shards.any (fun s => s.sealed.isSome || s.steps.any (fun p => p.sent && !p.accepted)) ||
  n.tabs.any (fun t => t.away.any (fun a => a.conf.isNone)) || n.council.prop.isSome || !n.council.writes.isEmpty

def capW (n : Node) : Nat := rfield n .pwr 0 0x104 26 16
def capWindow (n : Node) : Nat := ticksMs (Nat.max 1 (rfield n .pwr 0 0x104 9 0))

/-- Ticks deferred in the current window. -/
def deferUsed (n : Node) : Nat := if n.pwr.deferWin.1 = n.tick / capWindow n then n.pwr.deferWin.2 else 0

def capDecision (mean50 mean1ms meanWin : Nat) (n : Node) : Node :=
  let n : Node := accrue (reach (n.pwr.capAt + ticksUs 50) n)
  let n : Node := pwrMod (fun p => { p with capAt := n.tick, mean50 := mean50, meanWin := meanWin }) n
  if capW n < mean50 then
    if n.pwr.capLim = 0 then pwrMod (fun p => { p with capGate := Nat.min 90 (p.capGate + 10) }) n
    else
      let defer := n.pwr.capHeld.isNone && inPhase n && decide (deferUsed n * 100 < 2 * capWindow n)
      limits (fun p => { p with
        capLim := p.capLim - 1, capHeld := if defer then some (p.capLim, n.tick) else p.capHeld }) n
  else if mean1ms * 100 < 95 * capW n ∧ meanWin < capW n then
    (if 0 < n.pwr.capGate then pwrMod (fun p => { p with capGate := p.capGate - 10 }) n
     else limits (fun p => { p with capLim := Nat.min 7 (p.capLim + 1) }) n)
  else n

/-- A deferral ends: its time is counted and the lowering applied. -/
def deferEnd (n : Node) : Node :=
  match n.pwr.capHeld with
  | none => n
  | some (_, t) =>
    let n : Node := if inPhase n then reach (t + ticksUs 200) n else n
    let d := Nat.min (n.tick - t) (ticksUs 200)
    let n : Node := bump (regAddr .pwr 0 0x128) 1 (bump (regAddr .pwr 0 0x12C) (d / 100) n)
    limits (fun p => { p with capHeld := none, deferWin := (n.tick / capWindow n, deferUsed n + d) }) n

/-! ### Regulator alerts (R323) -/

/-- The input is asserted past its filter: issue is gated until every unit is at OP0. -/
def alertIn (i : Nat) (n : Node) : Node :=
  if !nbit (rfield n .pwr 0 0x10C 31 24) i then n
  else
    let n : Node := limits (fun p => { p with alertLim := 0, alerts := ninsert i p.alerts, holdAt := none, rampAt := none }) n
    report .pwr 0 0x01 i 0 n

def alertsOut (n : Node) : Node :=
  if n.pwr.alerts.isEmpty then n else limits (fun p => { p with alerts := [], holdAt := some n.tick }) n

/-- The hold ends and the ramp begins with its first step. -/
def alertHoldEnd (n : Node) : Node :=
  match n.pwr.holdAt with
  | none => n
  | some t =>
    let n : Node := reach (t + ticksUs (rfield n .pwr 0 0x10C 13 0)) n
    limits (fun p => { p with holdAt := none, alertLim := 1, rampAt := some n.tick }) n

def alertRamp (n : Node) : Node :=
  match n.pwr.rampAt with
  | none => n
  | some t =>
    let n : Node := reach (t + ticksUs (rfield n .pwr 0 0x10C 23 14)) n
    limits (fun p => { p with
      alertLim := Nat.min 7 (p.alertLim + 1), rampAt := if 7 ≤ p.alertLim + 1 then none else some n.tick }) n

/-! ### Fatal stops (R354, R356) -/

/-- Fabric links and Ethernet ports go down. -/
def portsDown (n : Node) : Node :=
  let n : Node := { n with
    ethPorts := [],
    links := n.links.map (fun l => (l.1, l.2.map (fun x => { x with state := 0, active := [] }))) }
  { n with lanes := n.lanes.map (fun l => (l.1, l.2.map (fun x => { x with state := 0, rate := 0 }))) }

/-- A fatal event: its report, the newest records of every ring behind it in MRAM, and the node stops until RESET_N. -/
def fatalStop (cause : Nat) (rep : Node → Node) (n : Node) : Node :=
  let n : Node := stageRings (rep (accrue n))
  portsDown { n with topState := 4, stopCause := cause }

/-! ### Temperature (R324, R325) -/

def imax (l : List Int) : Int := l.foldl (fun a b => if a < b then b else a) (l.headD 0)

def thmTarget (n : Node) : Int := rfield n .thm 0 0x100 23 16
def stackLimit (n : Node) : Int := rfield n .thm 0 0x100 15 8
def thermC (n : Node) : Int := rfield n .thm 0 0x100 7 0

def thermalDecision (n : Node) : Node :=
  let n : Node := accrue (reach (n.pwr.thmAt + ticksUs 100) n)
  let n : Node := pwrMod (fun p => { p with thmAt := n.tick }) n
  if thmTarget n < imax n.pwr.sensors ∨ stackLimit n < imax n.pwr.stackTemps then
    (if n.pwr.thmLim = 0 then pwrMod (fun p => { p with thmGate := Nat.min 90 (p.thmGate + 10) }) n
     else limits (fun p => { p with thmLim := p.thmLim - 1 }) n)
  else
    let cool : Bool := match n.pwr.coolAt with | some t => decide (t + ticksMs 1 ≤ n.tick) | none => false
    if !cool then n
    else if 0 < n.pwr.thmGate then pwrMod (fun p => { p with thmGate := p.thmGate - 10 }) n
    else limits (fun p => { p with thmLim := Nat.min 7 (p.thmLim + 1) }) n

/-- The sensor of the greatest reading. -/
def hottest (l : List Int) : Nat := (l.findIdx? (fun x => x = imax l)).getD 0

def sensorsIn (readings stackTemps : List Int) (n : Node) : Node :=
  if readings.isEmpty then n
  else
    let j := imax readings
    let s := imax stackTemps
    let cool : Bool := readings.all (fun x => decide (x + 3 ≤ thmTarget n)) && stackTemps.all (fun x => decide (x + 3 ≤ stackLimit n))
    let n : Node := pwrMod (fun p => { p with
      sensors := readings, stackTemps := stackTemps, maxJ := if p.maxJ < j then j else p.maxJ, maxS := if p.maxS < s then s else p.maxS,
      coolAt := if cool then some (p.coolAt.getD n.tick) else none }) n
    let at_ := hottest readings
    let deg := (j % 256).toNat
    let n : Node := if thermC n ≤ j ∧ !n.pwr.thermN then
        bump (regAddr .thm 0 0x11C) 1 (report .thm 0 0x07 at_ deg (pwrMod (fun p => { p with thermN := true }) n))
      else if j + 3 ≤ thermC n ∧ n.pwr.thermN then pwrMod (fun p => { p with thermN := false }) n
      else n
    if 112 ≤ j then fatalStop 3 (report .thm 0 0x06 at_ deg) (pwrMod (fun p => { p with thermN := true }) n) else n

/-! ### Droop and current (R326, R327) -/

def droopIn (die det : Nat) (n : Node) : Node :=
  let n : Node := accrue n
  bump (regAddr .cmp 0 (if die = 0 then 0x108 else 0x10C)) 1 (pwrMod (fun p => { p with droops := ninsert (die * 256 + det) p.droops }) n)

def droopOut (die det : Nat) (n : Node) : Node :=
  pwrMod (fun p => { p with droops := p.droops.filter (fun d => d ≠ die * 256 + det) }) (accrue n)

def currentOn (n : Node) : Node := pwrMod (fun p => { p with curGate := some (p.curGate.getD n.tick) }) (accrue n)

def currentOff (n : Node) : Node :=
  match n.pwr.curGate with
  | none => n
  | some t => pwrMod (fun p => { p with curGate := none }) (accrue (reach (t + ticksUs 50) n))

/-! ### Takeover and ageing (R317, R318, R339, R340) -/

def blkOfUnit : UnitType → Blk
  | .gwe => .gwe
  | .mce => .mce
  | .tns => .tns
  | .svc => .svc

def cuPage (u : CUnit) : Nat := pageOf (blkOfUnit u.type) u.n

def cuThere (u : CUnit) : Bool := decide (u.n < (blkInfo (blkOfUnit u.type)).2.1)

/-- Pages of the units of one type. -/
def typePages (page : Nat) : List Nat :=
  match blkOfPage page with | some (b, _) => (List.range (blkInfo b).2.1).map (pageOf b) | none => []

/-- INFO words of the REC reports about a unit (R357). Its activity is measured; `flags` are CHARGED and QUARANTINED. -/
def recUnit (code page count flags spare : Nat) (n : Node) : Node :=
  let (act, n) := fresh n
  let die := dieOf page
  let hot := imax ((n.pwr.sensors.drop (64 * die)).take 64)
  report .recb 0 code (page % 4096 + (unitGet n page).cur * 2 ^ 12 + (hot % 256).toNat * 2 ^ 16 + act % 101 * 2 ^ 24)
    (count % 256 + flags * 2 ^ 8 + spare % 4096 * 2 ^ 16) n

/-- A spare for a unit (step 1 of R339): on the same die if one is, then the highest AGED_MAX_OP; among equals any. -/
def chooseSpare (old minOp : Nat) (n : Node) : Option Nat × Node :=
  let free := (typePages old).filter (fun p => (unitGet n p).state = 1 && decide (minOp ≤ (unitGet n p).aged) &&
    !n.takeovers.any (fun t => t.spare = some p))
  let same := free.filter (fun p => dieOf p = dieOf old)
  let l := if same.isEmpty then free else same
  let best := nmaxl (l.map (fun p => (unitGet n p).aged))
  match l.filter (fun p => (unitGet n p).aged = best) with
  | [] => (none, n)
  | p :: ps => let (p, n) := pick p (p :: ps) n; (some p, n)

/-- The programs that run on an array end their operator and start again on another group (R194). -/
def arrayLeaves (i : Nat) (n : Node) : Node :=
  (n.progs.filter (fun p => p.state = 1 && p.arrays.contains i)).foldl (fun n p => progRestart p.id i n) n

/-- The old unit places no new work and empties; `towards` is the UNIT_STATE that it then takes (step 4). -/
def unitLeaves (page towards : Nat) (n : Node) : Node :=
  let u := unitGet n page
  if u.state ≠ 0 ∧ u.state ≠ 2 then unitSet page { u with state := towards, leaving := none, cur := 0 } n
  else
    let n : Node := unitSet page { u with state := 2, leaving := some towards } n
    match blkOfPage page with
    | some (.gwe, e) => engSet e { engGet n e with drainAt := some ((engGet n e).drainAt.getD n.tick) } n
    | some (.mce, i) => mceHandOver i n
    | some (.tns, i) => arrayLeaves i n
    | _ => n

/-- Waiting takeovers take the spares there are: quarantines first, then the lower page (R340). -/
def takeNext (n : Node) : Node :=
  let lt := fun (a b : Takeover) => (a.quar && !b.quar) || (a.quar = b.quar && decide (a.old < b.old))
  (lsort lt (n.takeovers.filter (fun t => t.spare.isNone))).foldl (fun n t =>
    let (p, n) := chooseSpare t.old 0 n
    match p with
    | some p => { n with takeovers := lmodify (fun x => x.old = t.old) (fun x => { x with spare := some p }) n.takeovers }
    | none => n) n

/-- A unit leaves service and a spare comes in; with none left a quarantined unit leaves all the same (R340). -/
def takeover (page towards : Nat) (quar : Bool) (n : Node) : Node :=
  let n : Node := takeNext { n with takeovers := n.takeovers.filter (fun t => t.old ≠ page) ++ [{ old := page, spare := none, quar := quar }] }
  let n : Node := if n.takeovers.any (fun t => t.old = page && t.spare.isNone) then recUnit 0x04 page 0 0 0 n else n
  unitLeaves page towards n

/-- The POWER channel's entry of a unit: page, FUSED_MAX_OP, AGED_MAX_OP and quarantine count (R354), written through staging. -/
def powerEntry (page : Nat) (quarantined : Bool) (n : Node) : Node :=
  let u := unitGet n page
  let old := sget 0 n.mram.powerTab page
  let count := (old.toNat >>> 96) % 2 ^ 32 + b2n quarantined
  { n with
    mram := { n.mram with
      powerTab := sset 0 n.mram.powerTab page (BitVec.ofNat 128 (page + u.fused * 2 ^ 32 + u.aged * 2 ^ 64 + count * 2 ^ 96)) } }

/-- AGED_MAX_OP falls by one step (R317). -/
def agedStep (page : Nat) (quarantined : Bool) (n : Node) : Node :=
  let u := unitGet n page
  lowerUnits (powerEntry page quarantined (unitSet page { u with aged := u.aged - 1 } n))

/-- The margin of a unit is measured (R317); below OP5 it is exchanged for a spare of OP5 or above (R318). -/
def ageing (u : CUnit) (below : Bool) (n : Node) : Node :=
  if !cuThere u || !below then n
  else
    let p := cuPage u
    let x := unitGet n p
    if x.aged = 0 then n
    else
      let n : Node := report .pwr 0 0x02 p (x.aged - 1) (agedStep p false n)
      if 5 ≤ x.aged - 1 ∨ x.state ≠ 0 then n
      else
        let (s, n) := chooseSpare p 5 n
        match s with
        | some s => unitLeaves p 1 { n with takeovers := n.takeovers.filter (fun t => t.old ≠ p) ++ [{ old := p, spare := some s, quar := false }] }
        | none => report .pwr 0 0x03 p (x.aged - 1) n

/-- The spare has reached its CUR_OP: it reads ACTIVE (steps 2 and 3). -/
def spareUp (u : CUnit) (n : Node) : Node :=
  let p := cuPage u
  match n.takeovers.find? (fun t => t.spare = some p) with
  | none => n
  | some t =>
    let n : Node := unitSet p { unitGet n p with state := 0, cur := unitTarget n p } n
    placeWaiting (recUnit 0x03 t.old (unitGet n t.old).charges.length (b2n t.quar * 2) p
      { n with takeovers := n.takeovers.filter (fun x => x.spare ≠ some p) })

/-- The old unit has emptied: it reads what it leaves as, and is power-gated (step 5). -/
def oldOut (u : CUnit) (n : Node) : Node :=
  let p := cuPage u
  let x := unitGet n p
  match x.leaving with
  | some towards => unitSet p { x with state := towards, leaving := none, cur := 0 } n
  | none => n

/-! ### Energy (R330, R331) -/

/-- Charge energy to accounts. -/
def charge (tid : Option Nat) (qp : Option Nat) (e : Nat) (n : Node) : Node :=
  let w := fun (m : Sparse Nat) k => sset 0 m k ((sget 0 m k + e) % 2 ^ 64)
  pwrMod (fun p => { p with
    tenE := match tid with | some t => w p.tenE t | none => p.tenE,
    nodeE := if tid.isNone then (p.nodeE + e) % 2 ^ 64 else p.nodeE,
    qpE := match qp with | some q => w p.qpE q | none => p.qpE,
    recent := match tid with | some t => p.recent ++ [(n.tick, t, e)] | none => p.recent }) n

/-- One group of rails: its energy in proportion to weighted activity; what division leaves goes to the node account
(log 29). -/
def splitGroup (g : Nat × List EnergyShare) (n : Node) : Node :=
  let total := nsum (g.2.map (·.weight))
  let part := fun (s : EnergyShare) => if total = 0 then 0 else g.1 * s.weight / total
  let n : Node := g.2.foldl (fun n s => charge (if s.kind = 0 then some s.id else none) s.qp (part s) n) n
  charge none none (g.1 - nsum (g.2.map part)) n

/-- Tenants over their budget over the last 100 ms are held, until their mean falls below 95 % of it (R330). W times 100 ms is
100,000 µJ for each watt. -/
def budgetCheck (n : Node) : Node :=
  let n : Node := accrue n
  let recent := n.pwr.recent.filter (fun x => decide (n.tick < x.1 + ticksMs 100))
  let used := fun (t : Nat) => nsum ((recent.filter (fun x => x.2.1 = t)).map (·.2.2))
  let overLim := fun (t : Nat) (b : Nat) => decide (b * 100000 < used t) ||
    (n.pwr.held.contains t && decide (95 * b * 1000 ≤ used t))
  pwrMod (fun p => { p with recent := recent, held := (p.budgets.filter (fun b => b.2 ≠ 0 && overLim b.1 b.2)).map (·.1) }) n

def energyIn (dynamic : List (Nat × List EnergyShare)) (fixed : Nat) (n : Node) : Node :=
  let total := nsum (dynamic.map (·.1)) + fixed
  let n : Node := dynamic.foldl (fun n g => splitGroup g n) (charge none none fixed n)
  budgetCheck (pwrMod (fun p => { p with packE := (p.packE + total) % 2 ^ 64 }) n)

/-! ### MRAM and power loss (R354, R355) -/

/-- A record enters its channel; a full ring overwrites its oldest record: 32,768 places besides the table in POWER (log 30), 98,304
in SECURITY, 131,072 in FATAL. -/
def mramPut (x : Nat × EvRec) (n : Node) : Node :=
  let m := n.mram
  { n with
    mram := match x.1 with
      | 0 => { m with power := lpushMax Config.powerRing m.power x.2 }
      | 1 => { m with security := lpushMax 98304 m.security x.2 }
      | _ => { m with fatal := lpushMax 131072 m.fatal x.2 } }

/-- The oldest staged record goes to MRAM; a waiting one takes its room. -/
def mramStep (n : Node) : Node :=
  match n.mram.staged with
  | [] => n
  | x :: rest =>
    if n.mram.stopped then n
    else
      let n : Node := mramPut x { n with mram := { n.mram with staged := rest } }
      match n.mram.waiting with
      | [] => n
      | w :: ws => { n with mram := { n.mram with staged := n.mram.staged ++ [w], waiting := ws } }

/-- PWRFAIL_N: the PWRFAIL record enters staging, displacing the oldest non-FATAL record of a full buffer; every staged record
is written, and MRAM writes stop. The node serves nothing until RESET_N (R413). -/
def powerFail (n : Node) : Node :=
  if n.pwrfail then n
  else
    let n : Node := accrue n
    let e : EvRec := { tick := n.tick, code := Config.pwrfailCode, sev := 3, page := pageOf .pwr 0, lo := 0, hi := 0, lastDelta := 0,
                       rep := 0, seq := (pageGet n (pageOf .pwr 0)).nextSeq }
    let staged := if stageBytes n.mram.staged + 64 ≤ 8192 then n.mram.staged else lremoveFirst (fun x => x.1 ≠ 2) n.mram.staged
    let n : Node := ringAdd (pageOf .pwr 0) e { n with mram := { n.mram with staged := [], waiting := [] } }
    let n : Node := (staged ++ [(0, e), (2, e)]).foldl (fun n x => mramPut x n) n
    { n with mram := { n.mram with staged := [], waiting := [], stopped := true }, pwrfail := true }

/-! ### The commands -/

def execCapLoopDecision (mean50 mean1ms meanWindow : Nat) (s : State) : Host.Outcome State Fault Refusal :=
  run s (capDecision mean50 mean1ms meanWindow)

def execCapDeferralEnd (s : State) : Host.Outcome State Fault Refusal := run s deferEnd

def execThermalLoopDecision (s : State) : Host.Outcome State Fault Refusal := run s thermalDecision

def execSensorSample (readings stackTemps : List Int) (s : State) : Host.Outcome State Fault Refusal := run s (sensorsIn readings stackTemps)

def execRegalertAssert (n : Fin 8) (s : State) : Host.Outcome State Fault Refusal := run s (alertIn n.val)

def execRegalertDeassert (s : State) : Host.Outcome State Fault Refusal := run s alertsOut

def execAlertHoldExpiry (s : State) : Host.Outcome State Fault Refusal := run s alertHoldEnd

def execAlertRampStep (s : State) : Host.Outcome State Fault Refusal := run s alertRamp

def execDroopGate (die : Fin 2) (det : Fin 256) (s : State) : Host.Outcome State Fault Refusal := run s (droopIn die.val det.val)

def execDroopRecover (die : Fin 2) (det : Fin 256) (s : State) : Host.Outcome State Fault Refusal := run s (droopOut die.val det.val)

def execCurrentGate (s : State) : Host.Outcome State Fault Refusal := run s currentOn

def execCurrentGateEnd (s : State) : Host.Outcome State Fault Refusal := run s currentOff

def execOpStepSettled (die : Fin 2) (s : State) : Host.Outcome State Fault Refusal := run s (stepSettled die.val)

def execAgeingMarginCheck (unit : CUnit) (below : Bool) (s : State) : Host.Outcome State Fault Refusal := run s (ageing unit below)

def execEnergySplit (dynamic : List (Nat × List EnergyShare)) (fixed : Nat) (s : State) : Host.Outcome State Fault Refusal :=
  run s (energyIn dynamic fixed)

/-- A unit supply below 0.45 V for 100 ns (R312). -/
def execBrownOut (s : State) : Host.Outcome State Fault Refusal := run s (fatalStop 1 (report .pwr 0 0x04 0 0))

/-- REFCLK missing for 1 µs (R314). -/
def execRefclkLoss (s : State) : Host.Outcome State Fault Refusal := run s (fatalStop 2 (report .pwr 0 0x05 0 0))

/-- A REFCLK gap shorter than 1 µs is counted, saturating (TMR_STAT of R394). -/
def execRefclkGap (s : State) : Host.Outcome State Fault Refusal :=
  run s (pwrMod (fun p => { p with gaps := Nat.min 65535 (p.gaps + 1) }))

def execPwrfailAssert (s : State) : Host.Outcome State Fault Refusal := runAlways s powerFail

/-- The REC block goes on writing staged records while the node is stopped (R355, R356). -/
def execMramStagingWrite (s : State) : Host.Outcome State Fault Refusal := runAlways s mramStep

def execSparePowered (unit : CUnit) (s : State) : Host.Outcome State Fault Refusal := run s (spareUp unit)

def execOldUnitEmptied (unit : CUnit) (s : State) : Host.Outcome State Fault Refusal := run s (oldOut unit)

/-- A regulator that does not answer a Vout read in 100 µs: the die is held at OP0 until node reset (R406). -/
def execAvsbusVoutTimeout (die : Fin 2) (s : State) : Host.Outcome State Fault Refusal :=
  run s (fun n => report .cmp 0 0x01 die.val 0 (limits (fun p => { p with opHeld := ninsert die.val p.opHeld }) n))

/-- A compute die rail left its recommended range (R398). -/
def execRailRange (die : Fin 2) (s : State) : Host.Outcome State Fault Refusal := run s (report .cmp 0 0x01 die.val 0)

end Sys2Proof.Machine
end

