-- ==== Sys2Proof/Machine/Faults.lean ====
section
/-!
DEFINITION. Sys2Proof/Machine/Faults.lean: failed parts and channels (R335, R336, R338), restoration of lost data (R337), shadow
recomputation, charges, quarantine and requalification (R341-R345), and the recorder's commands (R351, R352).
-/
namespace Sys2Proof.Machine

/-! ### NODE class (R336) -/

/-- A DIMM channel or DIMM fails: the council is told, and the node stops. -/
def channelFail (ch : Nat) (n : Node) : Node :=
  let n : Node := toCouncil (.nodeWithdraw 0x06) n
  fatalStop 4 (fun n => report .recb 0 0x06 (pageOf .dch ch) 0 (report .dch ch 0x01 0 0 n)) n

/-- The same word of a home map leaf, or of the FTL's map directory, is lost in both copies (R348). -/
def copiesGone (directory : Bool) (n : Node) : Node :=
  let n : Node := toCouncil (.nodeWithdraw 0x06) n
  fatalStop 4 (report .recb 0 0x06 (pageOf (if directory then .ftl else .mmu) 0) 0) n

/-! ### The patrol (R232, R347, R348; log 144) -/

/-- The home slice that serves the line of an address (R228); HS(s XOR 32) stands in for a lost one (R338). -/
def sliceOf (addr : Nat) (n : Node) : Nat :=
  let s := (List.range 9).foldl (fun acc i => acc ^^^ (addr / 2 ^ (6 * i + 6) % 64)) 0
  if n.hsLost.contains s then s ^^^ 32 else s

/-- The line of an address is held in a home slice: its page is at home in a protected memory frame. -/
def lineThere (addr : Nat) (n : Node) : Option PgEnt :=
  (ptGet n (tpage addr)).bind (fun e => if e.home = 3 ∨ e.open_ then none else some e)

def lineCorrected (addr : Nat) (n : Node) : Node :=
  match lineThere addr n with
  | none => n
  | some _ => mmuCnt 0x158 1 (errCount .hs (sliceOf addr n) n)

/-- An uncorrectable error in a slice line poisons its word (R232, R398). -/
def lineLost (addr : Nat) (n : Node) : Node :=
  match lineThere addr n with
  | none => n
  | some e =>
    let n : Node := report .hs (sliceOf addr n) 0x01 (addr % 2 ^ 32) (addr / 2 ^ 32 % 2 ^ 20) (mmuCnt 0x15C 1 n)
    mmuReport 0x01 addr e.tid { n with poison := ninsert (addr / 4) n.poison }

/-- An uncorrectable error in a context image; the engine meets it at its own next read of the word (R86). -/
def contextLost (e c : Nat) (n : Node) : Node :=
  let (a, n) := fresh n
  let n : Node := mmuReport 0x01 (a % 2 ^ 52) 0 (mmuCnt 0x15C 1 n)
  match ctxGet n e c with
  | some x => ctxSet e c (some { x with bad := true }) n
  | none => n

/-- An uncorrectable error in one copy of a node-internal structure: the word is written again from the other copy. Which channel holds
the word is left open. -/
def copyLost (addr : Nat) (n : Node) : Node :=
  let (i, n) := pick 0 [0, 1, 2, 3, 4, 5, 6, 7] n
  mmuReport 0x01 addr 0 (bump (regAddr .dch i 0x114) 1 (mmuCnt 0x15C 1 (errCount .dch i n)))

/-- A correction in an SRAM row of a context slot's bank; a second one in the same row within 60 s has a spare row take its place
(R338). Which row of the bank the word lies in, and whether the bank has a spare row left, are left open. -/
def sramCorrected (slot : Nat) (n : Node) : Node :=
  let (x, n) := fresh n
  let row := slot * 2 ^ 16 + x % 2 ^ 16
  let recent := n.sramCor.filter (fun y => decide (n.tick < y.2 + ticksS 60))
  if recent.any (fun y => y.1 = row) then
    { n with sramCor := recent.filter (fun y => y.1 ≠ row), sramFixed := if x / 2 ^ 16 % 2 = 1 then ninsert row n.sramFixed else n.sramFixed }
  else { n with sramCor := recent ++ [(row, n.tick)] }

def patrol (addr : Nat) (r : PatrolResult) (n : Node) : Node :=
  match r with
  | .clean => n
  | .corrected => corrected addr n
  | .uncorrectable => uncorrected addr n
  | .lineCorrected => lineCorrected addr n
  | .lineUncorrectable => lineLost addr n
  | .contextCorrected e c => sramCorrected (e.val * 512 + c.val) (mmuCnt 0x158 1 n)
  | .contextUncorrectable e c => contextLost e.val c.val n
  | .copyUncorrectable => copyLost addr n
  | .copiesLost d => copiesGone d (copyLost addr n)

def execPatrolRead (addr : Nat) (r : PatrolResult) (s : State) : Host.Outcome State Fault Refusal := run s (patrol addr r)

/-! ### PART class (R335, R338) -/

/-- A page on a lost stack: one with a clean copy in flash goes back there; any other takes a frame of a tier that it is allowed in, and
its data is lost. -/
def pageLost (p : Nat) (e : PgEnt) (n : Node) : Node :=
  match e.clean with
  | some f => ptSet p (some { e with home := 3, frame := f, clean := none, promoted := false, moving := false }) n
  | none =>
    let tiers := (if nbit e.allowed 0 then [1] else []) ++ (if nbit e.allowed 1 then [2] else []) ++ (if nbit e.allowed 2 then [3] else [])
    let n : Node := { n with poison := (List.range 16384).foldl (fun l i => ninsert (p * 16384 + i) l) n.poison }
    match tiers.findSome? (fun t => (takeFrame t n).map (fun f => (t, f))) with
    | some (t, f) => ptSet p (some { e with home := t, frame := f, moving := false, hold := false }) (if t = 3 then frameClear f n else n)
    | none => ptSet p none n

/-- A move whose target frame is on a lost stack is given up; its page stays at home. -/
def targetLost (p : Nat) (e : PgEnt) (n : Node) : Node := ptSet p (some { e with moving := false, hold := false, dirty := 0 }) n

/-- A walk whose images lay in a lost spill area is lost: its sub-request answers FAILED_RETRYABLE; a folding walk may start again
(R23, R89). -/
def savedLost (w : SavedWalk) (n : Node) : Node :=
  let n : Node := { n with saved := n.saved.filter (fun v => v.id ≠ w.id) }
  match w.ctxs with
  | x :: _ => if x.fold then n else subFailed x.sub n
  | [] => n

/-- Shards with objects among the poisoned pages enter REBUILDING; one that holds no data stays as it is. -/
def rebuilding (n : Node) : Node :=
  { n with
    shards := n.shards.map (fun s =>
      if (s.state = 1 || s.state = 3) && (s.drows.any (·.bad) ||
          n.mmu.objs.any (fun o => o.key = s.key && poisoned n (o.base * 65536) (o.pages * 65536)))
      then { s with state := 4 } else s) }

def stackLost (st : Nat) (n : Node) : Node :=
  if (stkGet n st).lost then n
  else
    let n : Node := stkSet st { stkGet n st with lost := true, scrubs := [] } n
    let ps := n.passes.filter (fun p => p.started && p.units.any (fun k => k / 768 = st))
    let n : Node := (List.range 768).foldl (fun n u =>
      let k := st * 768 + u
      failPasses k (clvMod k (fun v => { clvAborted v with results := [], off := true }) n)) n
    let n : Node := ps.foldl (fun n p => passCheck p.num n) n
    let n : Node := (n.openPages.filter (fun p => p.1 / 2048 / 768 = st)).foldl (fun n p => pageMove p.1 p.2 n) n
    let n : Node := (n.saved.filter (fun w => w.stack = st)).foldl (fun n w => savedLost w n) n
    let n : Node := n.mmu.ptab.foldl (fun n x =>
      match x.2 with
      | some e =>
        if e.open_ then n
        else if e.home = 1 && e.frame / 2 ^ 21 = st then pageLost x.1 e n
        else if e.moving && e.target = 1 && e.tframe / 2 ^ 21 = st then targetLost x.1 e n
        else n
      | none => n) n
    promoRetry <| rebuilding { n with mmu := { n.mmu with capStack := n.mmu.capStack - 1572096 } }

/-- A home slice fails; HS(s XOR 32) covers its addresses. The access that met it is left open. -/
def sliceLost (s : Nat) (n : Node) : Node :=
  let (a, n) := fresh n
  report .hs s 0x02 (a % 2 ^ 32) (a / 2 ^ 32 % 2 ^ 20) { n with hsLost := ninsert s n.hsLost }

/-- Context slots of a lost SRAM bank are unusable; the walks that hold them end with ABORTED. -/
def bankLost (e : Nat) (cs : List Nat) (n : Node) : Node :=
  let cs := cs.filter (fun c => decide (c < 512))
  let n : Node := cs.foldl (fun n c =>
    match ctxGet n e c with
    | some _ => walkFinish e (leaderOf n e c) 4 [] (gweReport e c 0x01 0 n)
    | none => n) n
  { n with ctxDead := cs.foldl (fun l c => ninsert (e * 512 + c) l) n.ctxDead }

/-- A Clove unit meets an internal error: it reads FAULT and awaits its abort at the next poll (R110, R116). -/
def unitFault (k : Nat) (n : Node) : Node :=
  if (clvGet n k).off then n else clvMod k (fun u => { clvAborted u with state := 6 }) n

def partFault (p : PartKind) (n : Node) : Node :=
  match p with
  | .stack st => stackLost st.val n
  | .homeSlice s => sliceLost s.val n
  | .sramBank e cs => bankLost e.val cs n
  | .cloveUnit u => unitFault (u.stack.val * 768 + u.u.val) n

/-! ### UNIT class beside quarantine (R335; log 31) -/

def arrayNoProgress (prog tns : Nat) (n : Node) : Node :=
  match progFind n prog with
  | none => n
  | some p =>
    let n : Node := tnsReport tns 0x04 p n
    let page := pageOf .tns tns
    let u := unitGet n page
    let n : Node := if u.state = 0 ∨ (u.state = 2 ∧ u.leaving.isNone) then takeover page 3 false n else n
    progRestart prog tns n

def coreFault (i : Nat) (n : Node) : Node :=
  let page := pageOf .svc i
  let n : Node := report .svc i 0x01 0 0 n
  let u := unitGet n page
  if u.state = 0 ∨ (u.state = 2 ∧ u.leaving.isNone) then takeover page 3 false n else n

/-! ### Restoration (R337) -/

/-- The address of an object's part, and the items that the part is about. -/
def lostAt (g : IdxGen) (s : Shard) (obj : ShardObj) (i : Nat) : Nat × List Nat :=
  match obj with
  | .code => (codeAddr g s i, [i])
  | .adj => (adjAddr s i, [i])
  | .upper => (upperAddr s i, [blkOwner (upperGet s i)])
  | .attr => (attrAddr s i, [i])
  | .idmap => (idmapAddr s i, [i])
  | .keyidx => (keyidxAddr s i, [slotLid (sget 0 s.keyidx i)])
  | .full => (fullAddr g s i, [i])
  | .codebook => (baseOf s 0, [])
  | .delta => (0, [])

/-- A row of a table: its partner's image and records are the source (R207). -/
def restoreRow (t : TabSt) (shard row : Nat) (n : Node) : Node :=
  let key : ShardKey := { handle := t.handle, gen := t.gen, shard := shard }
  let partner := match n.map.tables.find? (fun r => r.key = key) with
    | some r => (match r.partner with | some p => p.node ≠ n.nodeId && !isFenced n p.node.toNat | none => false)
    | none => false
  if partner then
    unpoison (rowAddr t row) (tRowBytes t) (tabMod t.handle t.gen (fun t => { t with
      restoring := t.restoring.filter (fun x => x ≠ shard), bad := t.bad.filter (fun x => x ≠ row) }) n)
  else restoreFailed (rowAddr t row) n

/-- Lost data of a shard, a table or an encoder is restored from the first source there is: other holders, then what this node
derives, then the list copy in flash. A level above level 0 has no source but other holders. -/
def dataRestore (key : ShardKey) (obj : ShardObj) (i : Nat) (n : Node) : Node :=
  match shardFind n key, genFind n key.handle key.gen with
  | some s, some g =>
    if obj = .delta then wholeAgain key (tryWaiting key (rowRebuild key i n))
    else if obj = .codebook then (if g.codebook.isSome then wholeAgain key n else restoreFailed (baseOf s 0) n)
    else
      let (a, lids) := lostAt g s obj i
      match otherHolders n key with
      | d :: _ => sendAwait d (.rebuildRead { key := key, firstMsn := 0, lastMsn := 0, lids := lids }) n
      | [] => if obj = .upper then restoreFailed a n else lids.foldl (fun n l => restoreLocal key l n) n
  | _, _ =>
    match tabFind n key.handle key.gen with
    | some t => restoreRow t key.shard i n
    | none =>
      (n.mmu.objs.filter (fun o => o.what = 10 && o.key.handle = key.handle && o.key.gen = key.gen)).foldl (fun n o =>
        unpoison (o.base * 65536) (o.pages * 65536) n) n

/-! ### Shadow recomputation (R341-R344) -/

def workFind (n : Node) (id : Nat) : Option ShadowWork := n.shadows.find? (fun w => w.id = id)

def workDrop (id : Nat) (n : Node) : Node := { n with shadows := n.shadows.filter (fun w => w.id ≠ id) }

/-- Another active unit of the same type. -/
def otherUnit (n : Node) (page other : Nat) : Bool :=
  (typePages page).contains other && decide (other ≠ page) && unitActive n other

/-- Nothing runs on a unit: an engine has no context that is READY or RUNNING, a Mace unit no request, an array no program. -/
def unitIdle (n : Node) (page : Nat) : Bool :=
  match blkOfPage page with
  | some (.gwe, e) => !n.ctxs.any (fun x => x.1 / 512 = e && (match x.2 with | some c => c.state = 1 || c.state = 2 | none => false))
  | some (.mce, i) => mceLoad n i = 0
  | some (.tns, i) => !n.progs.any (fun p => p.state = 1 && p.arrays.contains i)
  | _ => true

/-- Units that may run a shadow: idle ones, on the other compute die where one is free (R341, R342). -/
def shadowUnits (n : Node) (page : Nat) : List Nat :=
  let idle := (typePages page).filter (fun q => otherUnit n page q && unitIdle n q)
  let far := idle.filter (fun q => dieOf q ≠ dieOf page)
  if far.isEmpty then idle else far

/-- A shadow starts within 1 ms of the sampled work's end. -/
def shadowStart (id on : Nat) (n : Node) : Node :=
  match workFind n id with
  | none => n
  | some w =>
    if w.on.isSome || !(shadowUnits n w.page).contains on || decide (w.ended + ticksMs 1 < n.tick) then n
    else { n with shadows := lmodify (fun x => x.id = id) (fun x => { x with on := some on }) n.shadows }

def shadowDropped (id : Nat) (n : Node) : Node :=
  match workFind n id with
  | none => n
  | some w =>
    if w.on.isSome then n
    else report .recb 0 0x07 w.page 0 (bump (regAddr .recb 0 0x114) 1 (workDrop id (reach (w.ended + ticksMs 1) n)))

def shadowCompare (id : Nat) (agree : Bool) (n : Node) : Node :=
  match workFind n id with
  | none => n
  | some w =>
    if w.on.isNone || w.differs then n
    else
      let n : Node := bump (regAddr .recb 0 0x110) 1 n
      if agree then workDrop id n
      else { n with shadows := lmodify (fun x => x.id = id) (fun x => { x with differs := true }) n.shadows }

/-- A unit leaves service under quarantine: its AGED_MAX_OP falls by one step, or at OP0 it reads OFF. -/
def quarantine (page : Nat) (n : Node) : Node :=
  if (unitGet n page).aged = 0 then takeover page 4 true (powerEntry page true n)
  else takeover page 3 true (agedStep page true n)

/-- One charge (R343, R344); `lo` and `hi` are the INFO words of the unit's own block. -/
def chargeUnit (page lo hi : Nat) (n : Node) : Node :=
  let u := unitGet n page
  let window := ticksS (60 * rfield n .recb 0 0x100 27 14)
  let recent := u.charges.filter (fun t => decide (n.tick < t + window)) ++ [n.tick]
  let quar := rfield n .recb 0 0x100 11 8 ≤ recent.length && (u.state = 0 || u.state = 2) && u.leaving ≠ some 3
  let n : Node := bump (regAddr .recb 0 0x118) 1 (unitSet page { u with charges := recent } n)
  let n : Node := match blkOfPage page with
    | some (.gwe, e) => report .gwe e 0x07 lo hi n
    | some (.tns, i) => report .tns i 0x05 lo hi n
    | _ => n
  let flags := 1 + 2 * b2n quar
  let n : Node := recUnit 0x01 page recent.length flags 0 n
  if quar then quarantine page (recUnit 0x02 page recent.length flags 0 n) else n

/-- The third unit's recomputation: the unit that disagrees with it is charged; both when all three results differ. -/
def arbitrate (id third : Nat) (agreesO agreesS : Bool) (n : Node) : Node :=
  match workFind n id with
  | none => n
  | some w =>
    match w.on with
    | none => n
    | some on =>
      if !w.differs || !otherUnit n w.page third || third = on || (agreesO && agreesS) then n
      else
        let n : Node := workDrop id n
        let n : Node := if agreesO then n else chargeUnit w.page w.lo w.hi n
        if agreesS then n else chargeUnit on w.lo w.hi n

/-! ### Requalification (R345) -/

/-- The thermal loop's limit is lowered while units run their fixed work hot; by how many steps is left open. -/
def requalHeat (n : Node) : Node :=
  let (x, n) := fresh n
  limits (fun p => { p with thmLim := p.thmLim - x % 8 }) n

def requalStart (n : Node) : Node :=
  let pages := unitPages.filter (fun p => (unitGet n p).state = 3 && !n.requal.any (fun r => r.1 = p))
  if pages.isEmpty then n else requalHeat { n with requal := n.requal ++ pages.map (fun p => (p, n.tick)) }

def requalEnd (u : CUnit) (passed : Bool) (n : Node) : Node :=
  let p := cuPage u
  match (if cuThere u then n.requal.find? (fun r => r.1 = p) else none) with
  | none => n
  | some r =>
    let n : Node := reach (r.2 + ticksS 1) { n with requal := n.requal.filter (fun x => x.1 ≠ p) }
    let x := unitGet n p
    if passed then takeNext (unitSet p { x with state := 1 } n)
    else
      let n : Node := report .recb 0 0x08 p 0 n
      if x.aged = 0 then unitSet p { x with state := 4 } n else agedStep p false n

/-! ### The commands -/

def execChannelFail (ch : Fin 8) (s : State) : Host.Outcome State Fault Refusal := run s (channelFail ch.val)

def execPartFault (part : PartKind) (s : State) : Host.Outcome State Fault Refusal := run s (partFault part)

def execArrayNoProgress (prog : Nat) (tns : Fin 104) (s : State) : Host.Outcome State Fault Refusal :=
  run s (arrayNoProgress prog tns.val)

def execCoreFault (svc : Fin 72) (s : State) : Host.Outcome State Fault Refusal := run s (coreFault svc.val)

def execDataRestore (key : ShardKey) (obj : ShardObj) (index : Nat) (s : State) : Host.Outcome State Fault Refusal :=
  run s (dataRestore key obj index)

def execShadowStart (work on : Nat) (s : State) : Host.Outcome State Fault Refusal := run s (shadowStart work on)

def execShadowDropped (work : Nat) (s : State) : Host.Outcome State Fault Refusal := run s (shadowDropped work)

def execShadowCompare (work : Nat) (agree : Bool) (s : State) : Host.Outcome State Fault Refusal := run s (shadowCompare work agree)

def execArbitration (work third : Nat) (agreesOriginal agreesShadow : Bool) (s : State) : Host.Outcome State Fault Refusal :=
  run s (arbitrate work third agreesOriginal agreesShadow)

def execRequal (s : State) : Host.Outcome State Fault Refusal := run s requalStart

def execRequalificationComplete (unit : CUnit) (passed : Bool) (s : State) : Host.Outcome State Fault Refusal :=
  run s (requalEnd unit passed)

/-- The recorder commands name a page; one that is not there has no ring. -/
def onPage (page : BitVec 12) (f : Nat → Node → Node) (n : Node) : Node :=
  if (blkOfPage page.toNat).isSome then f page.toNat n else n

def execRecorderFreeze (page : BitVec 12) (s : State) : Host.Outcome State Fault Refusal := run s (onPage page recFreeze)

def execRecorderUnfreeze (page : BitVec 12) (s : State) : Host.Outcome State Fault Refusal := run s (onPage page recUnfreeze)

/-- 10 ms after FROZEN rose the freeze ends (R352). -/
def execFreezeTimeout (page : BitVec 12) (s : State) : Host.Outcome State Fault Refusal :=
  run s (onPage page (fun p n =>
    if (pageGet n p).frozen then recUnfreeze p (reach ((pageGet n p).frozeAt + ticksMs 10) n) else n))

def execRecorderClear (page : BitVec 12) (s : State) : Host.Outcome State Fault Refusal := run s (onPage page recClear)

end Sys2Proof.Machine
end

