-- ==== Sys2Proof/Machine/Boot.lean ====
section
/-!
DEFINITION. Sys2Proof/Machine/Boot.lean: node reset (R378, R412), the boot ROM and the start of the firmware (R250, R358-R366, R370,
R372, R397, R411), recovery (R366, R367, R385), config flash writes (R368, R371), queue pair records (R295), and the test access
port (R404).
-/
namespace Sys2Proof.Machine

/-! ### Queue pair records (R295) -/

def qpParse (d : Blob) (o : Nat) : QpCfg :=
  { tid := nbits (bword d o) 31 20, mtu := nbits (bword d o) 19 18, lport := nbits (bword d o) 15 12, slotLog2 := nbits (bword d o) 11 8,
    ringDepth := nbits (bword d (o + 4)) 31 16, dscp := nbits (bword d (o + 4)) 15 10, remoteQpn := nbits (bword d (o + 8)) 23 0,
    rqPsn := nbits (bword d (o + 12)) 23 0, sqPsn := nbits (bword d (o + 16)) 23 0, rnrTimer := nbits (bword d (o + 20)) 20 16,
    retryCnt := nbits (bword d (o + 20)) 14 12, rnrRetry := nbits (bword d (o + 20)) 10 8, ackTimeout := nbits (bword d (o + 20)) 4 0,
    errAddr := bnum d (o + 24) 8, errRkey := bword d (o + 32), gid := bnum d (o + 40) 16 }

/-- The first word of a queue pair record that breaks its limits, from the record's start. -/
def qpBad (n : Node) (d : Blob) (o : Nat) : Option Nat :=
  let c := qpParse d o
  let w := fun (i : Nat) => bword d (o + i)
  firstBad [
    offIf (c.mtu = 0 || nbits (w 0) 17 16 ≠ 0 || nbits (w 0) 7 0 ≠ 0 || !ethThere n c.lport || decide (c.slotLog2 < 8)) 0x00,
    offIf (c.ringDepth = 0 || decide (4096 < c.ringDepth) || nbits (w 4) 9 0 ≠ 0) 0x04,
    offIf (decide (c.remoteQpn < 2) || nbits (w 8) 31 24 ≠ 0) 0x08,
    offIf (nbits (w 12) 31 24 ≠ 0) 0x0C,
    offIf (nbits (w 16) 31 24 ≠ 0) 0x10,
    offIf (c.rnrTimer = 0 || c.retryCnt = 0 || decide (c.ackTimeout < 8) || decide (20 < c.ackTimeout) ||
      nbits (w 20) 31 21 ≠ 0 || nbits (w 20) 15 15 ≠ 0 || nbits (w 20) 11 11 ≠ 0 || nbits (w 20) 7 5 ≠ 0) 0x14,
    offIf (c.errAddr % 16 ≠ 0) 0x18,
    offIf (w 0x24 ≠ 0) 0x24,
    offIf (c.gid = 0) 0x28,
    offIf (w 0x38 ≠ 0) 0x38,
    offIf (w 0x3C ≠ 0) 0x3C]

/-- A queue pair is made: the node assigns its number, and it is in RTS (log 8). -/
def qpMake (c : QpCfg) (n : Node) : Nat × Node :=
  let x : Qp := { num := n.nextQp, cfg := c, state := 1, slots := [], sqPsn := c.sqPsn, unacked := [], errQueue := [], retries := 0,
                  rnrs := 0, rate := lineRate n c.lport, lastCnp := n.tick, lastCut := none, cnpSent := none, samples := [] }
  (n.nextQp, { n with qps := n.qps ++ [x], nextQp := n.nextQp + 1 })

/-- A tenant can have one more queue pair. -/
def qpRoom (n : Node) (tid : Nat) : Bool :=
  match tenantFind n tid with
  | some t => decide ((n.qps.filter (fun x => x.cfg.tid = tid)).length < t.cfg.qpMax) && decide (n.qps.length < 65536)
  | none => false

/-! ### Cabling entries (R257, R389) -/

def cableParse (d : Blob) (o : Nat) : Cable :=
  let count := bbyte d (o + 1)
  { link := bbyte d o, lanes := (List.range count).map (fun i => bbyte d (o + 0x18 + i)), serial := BitVec.ofNat 128 (bnum d (o + 8) 16),
    peers := (List.range count).map (fun i => bbyte d (o + 0x28 + i)),
    spare := if bbyte d (o + 2) = 0xFF then none else some (bbyte d (o + 2)), peerSpare := bbyte d (o + 3) }

/-- The cabling table of a calibration set: its entries are those that name a lane. -/
def calCables (c : Blob) : List Cable :=
  ((List.range 128).filter (fun i => bbyte c ((Config.calAt 6).1 + 56 * i + 1) ≠ 0 && decide (i * 56 < (Config.calAt 6).2))).map
    (fun i => cableParse c ((Config.calAt 6).1 + 56 * i))

/-! ### The calibration set (R370-R372) -/

/-- A record with a header field replaced. -/
def calPut (i v : Nat) (c : Blob) : Blob := bpatch c (Config.calAt i).1 (bofNat (Config.calAt i).2 v)

/-- The CRC-32C of a record, taken with its field at 0. -/
def calCrc (c : Blob) : Nat := crc32c (calPut 4 0 c)

/-- The record that a calibration region holds, where its length and CRC are right. -/
def calRecord (region : Blob) : Option Blob :=
  let len := calField region 1
  let c := bslice region 0 len
  if 1 ≤ len && decide (len ≤ 1048576) && decide (len ≤ region.len) && calField c 0 = 1 && calField c 4 = calCrc c then some c else none

/-- MAC addresses of a set are all unicast. -/
def calMacsOk (c : Blob) : Bool := (List.range 16).all (fun i => !nbit (bbyte c ((Config.calAt 5).1 + 6 * i)) 0)

/-! ### Node reset (R378, R412) -/

/-- Units are in flash: none waits in the write buffer. -/
def unitsIn (n : Node) (uas : List Nat) : Bool := !n.ftl.buf.any (fun u => uas.contains u.ua)

/-- What flash holds of a shard: its last complete checkpoint, and the journal steps that are in flash above it (R173). -/
def parkShard (n : Node) (s : Shard) : Shard :=
  let base : Shard := match n.ftl.ckpts.find? (fun k => k.key = s.key && k.done) with
    | some k => { k.image with ckpt := k.c }
    | none => shardNew s.key s.role 0 s.slice
  let inFlash := fun (m : StepRec) => n.ftl.jours.any (fun j => j.1 = s.key && j.2.1 = m.lastMsn && !j.2.2.isEmpty && unitsIn n j.2.2)
  { base with journal := s.journal.filter (fun m => decide (base.ckpt < m.lastMsn) && inFlash m) }

/-- A unit after reset: in service again unless SPARE, QUARANTINED or OFF; its operating points stay (R317, R378). -/
def unitAfter (u : UnitSt) : UnitSt :=
  { u with state := match u.leaving with | some towards => towards | none => if u.state = 2 then 0 else u.state, charges := [], leaving := none }

/-- The pages of the shards held go back; a shard that comes again after the reset counts its own (R173). -/
def unreserved (n : Node) : Node :=
  n.shards.foldl (fun n s => match genFind n s.key.handle s.key.gen with
    | some g => if s.bases.isEmpty then n else
        let p := shardPages g
        unreserve g.owner p.1 p.2.1 p.2.2 n
    | none => n) n

/-- Node reset: the reset values, beside what R378 exempts and what flash holds. `cause` is that of TOP_RESET_CAUSE. -/
def nodeReset (cause straps : Nat) (n : Node) : Node :=
  let parked := if n.ftl.pool = 0 ∨ n.ftl.pool = 5 then [] else (n.shards.filter (fun s => s.role ≠ 3)).map (parkShard n) ++
    n.parked.filter (fun p => !n.shards.any (fun s => s.key = p.key))
  let homed := fun (t : TabSt) => ((n.map.tables.filter (fun r => r.key.handle = t.handle && r.key.gen = t.gen &&
    r.home.any (fun p => p.node = n.nodeId))).map (fun r => r.key.shard))
  let r := Node.reset
  { r with
    free := n.free, out := n.out,
    mram := { n.mram with staged := [], waiting := [], stopped := false },
    fuses := n.fuses, identity := n.identity,
    image := if n.flashJob.any (fun j => !j.cal) then { len := 0, bits := 0 } else n.image,
    calFlash := if n.flashJob.any (fun j => j.cal) then { len := 0, bits := 0 } else n.calFlash,
    tenants := (n.tenants.filter (fun t => t.tid = 0)).map (fun t => { t with next := none, held := 0, holds := [] }),
    ftl := { n.ftl with
      reads := [], cached := [], dirty := [], susp := [], cacheGiB := rfield n .ftl 0 0x104 31 23, marks := [], temps := [],
      tempTop := [], ckpts := n.ftl.ckpts.filter (·.done), jours := n.ftl.jours.filter (fun j => unitsIn n j.2.2), rootAt := 0 },
    parked := parked,
    units := n.units.map (fun u => (u.1, unitAfter u.2)), sramFixed := n.sramFixed,
    gens := n.gens, idxDedup := n.idxDedup, encoders := n.encoders, granted := n.granted,
    tabs := n.tabs.map (fun t => { t with
      waits := [], served := [], acks := [], here := [], away := [], restoring := homed t,
      image := t.image.filter (fun r => unitsIn n (sget [] t.imgUas r.1)),
      imgUas := t.imgUas.filter (fun u => unitsIn n u.2) }),
    mmu := { r.mmu with
      objs := n.mmu.objs.filter (fun o => o.what = 9 || o.what = 10), nextPage := n.mmu.nextPage,
      quotas := (unreserved n).mmu.quotas.map (fun q => (q.1, { q.2 with stack := 0, dimm := 0, flash := 0, promo := 0 })) },
    council := { r.council with
      promised := n.council.promised, accepted := n.council.accepted,
      round := nmaxl (n.council.promised.map (fun p => p.2.round)) },
    ethMode := (List.range 4).map (fun i => rfield n .eth i 0x100 31 30),
    boot := { r.boot with
      straps := straps, cause := cause, toRecovery := n.recoverNext,
      dchMax := (List.range 8).map (fun i => rfield n .dch i 0x108 15 0),
      fchMax := (List.range 32).map (fun i => rfield n .fch i 0x104 15 0) },
    tap := { n.tap with drive := 0 },
    afterFatal := cause = 1 && n.topState = 4,
    nextQp := n.nextQp, nextReq := n.nextReq, nextTag := n.nextTag, nextSub := n.nextSub, nextWalk := n.nextWalk,
    nextPass := n.nextPass, nextWork := n.nextWork, nextProg := n.nextProg }

/-- RESET_N is held asserted: below 1 µs it is filtered, from 10 µs it resets, and between the two either may happen (R401, R412). -/
def resetAssert (ns : Nat) (n : Node) : Node :=
  if n.boot.inReset ∨ ns < 1000 then n
  else
    let (x, n) := if ns < 10000 then fresh n else (1, n)
    if x % 2 = 0 then n else portsDown { n with boot := { n.boot with inReset := true } }

/-- RESET_N is released: the straps are sampled and the timer starts. After a power-fail warning the rails may have been removed,
which the node does not see (log 32). -/
def resetRelease (straps : Nat) (n : Node) : Node :=
  if !n.boot.inReset then n
  else
    let (x, n) := if n.pwrfail then fresh n else (1, n)
    nodeReset (if x % 2 = 0 then 0 else 1) (straps % 16) n

/-- A keyed write of TOP_RESET proceeds as RESET_N does; the straps are not sampled again (R394, R403, R412). -/
def topReset (v : Word) (n : Node) : Node :=
  if wbits v 31 16 = 0x5A17 ∧ wbits v 0 0 = 1 then nodeReset 2 n.boot.straps n else n

/-! ### Images (R360-R363) -/

def imgVersion (i : Blob) : Nat := bnum i 4 2
def imgRevoke (i : Blob) : Nat := bnum i 14 2
def imgBodyLen (i : Blob) : Nat := bword i 8

/-- The checks of R362 in their order: 0 where all hold, or the SEC code of the first that fails. -/
def imageCheck (f : Fuses) (i : Blob) : Nat :=
  let len := imgBodyLen i
  let cert := bslice i 0x80 3112
  let root := rootKey i
  let keyId := bnum cert 0 2
  let digest := fun (b : Blob) => (Config.shake256 (blist b)).toNat
  if !(bword i 0 = 0x4C4B3349 && bbyte i 7 = 1 && decide (4096 ≤ len) && decide (len ≤ 201318400) && decide (0x2000 + len ≤ i.len) &&
      bnum i 12 2 = 0 && bnum i 0x50 48 = 0 && bnum i 0xCA8 88 = 0 && bnum i 0x1901 1791 = 0) then 2
  else if bbyte i 6 ≠ 0xA1 then 5
  else if imgVersion i < f.rollback then 4
  else if !(digest root = f.rootDigest.toNat && certOk 1 root 0 none cert && !nbit f.revoke keyId && !nbit (imgRevoke i) keyId &&
      sigOk (certKey cert) (bslice i 0 0xD00) (bslice i 0xD00 1280)) then 3
  else if digest (bslice i 0x2000 len) ≠ bnum i 0x10 64 then 2
  else 0

/-- A SEC event: SEC_VERSION and FUSE_COUNT in INFO_LO (R374). -/
def secReport (code version : Nat) (n : Node) : Node :=
  report .sec 0 code (version % 65536 + n.fuses.rollback % 256 * 2 ^ 16) 0 n

/-! ### Boot (R364) -/

/-- The seed of the device key pair: SHAKE256(DEVICE_SEED ‖ "DEV"). -/
def devSeed (f : Fuses) : Blob :=
  { len := 64, bits := (Config.shake256 (blist (bappend f.seed (bofList [0x44, 0x45, 0x56])))).toNat }

/-- The DEVICE certificate stands after the MANUFACTURING certificate in the identity region (R360). -/
def deviceCert (n : Node) : Blob := bslice n.identity 3112 3112

def deviceOk (n : Node) : Bool := Config.falconPublic (blist (devSeed n.fuses)) = blist (certKey (deviceCert n))

/-- The KIND 4 certificate that the ROM issues (step 4); its key ids are left open. -/
def attCertMk (n : Node) (keyId issuer : Nat) : Blob :=
  let pub := Config.falconPublic (blist (attReport.attSeed n))
  let body := bslice (bconcat [bofNat 4 (2 ^ 24 + 4 * 2 ^ 16 + keyId % 65536), bofNat 4 (issuer % 65536), bofNat 16 n.fuses.serial.toNat,
    bofNat 8 0, bofList (pub.map (·.toNat))]) 0 0x728
  let dig : Blob := { len := 64, bits := (Config.shake256 (blist body)).toNat }
  bappend body { len := 1280, bits := Config.falconSign (blist (devSeed n.fuses)) (blist dig) }

/-- The mode of EP0 in recovery: the calibration set's, or four ports of 100GBASE-CR1 where the set is invalid (R367). -/
def recoveryMode (n : Node) : Nat :=
  match calRecord n.calFlash with
  | some c => calField c 9 % 3
  | none => 2

def enterRecovery (n : Node) : Node :=
  let n : Node := secReport 0x07 (imgVersion n.image) { n with
    topState := 1, bootState := 1, ethMode := n.ethMode.set 0 (recoveryMode n) }
  ethSet 0 { ethGet n 0 with link := 1 } n

/-! #### Flash (R236, R250) -/

/-- Whether a package keeps to R235 as far as its geometry says. -/
def pkgFits (p : PkgInfo) : Bool :=
  p.fits && decide (1 ≤ p.pkg.luns) && decide (p.pkg.luns ≤ 4) && decide (2 ≤ p.pkg.planes) && decide (p.pkg.planes ≤ 6) && decide (p.ce < 256)

def sameGeometry (a b : Pkg) : Bool := a.luns = b.luns && a.planes = b.planes && a.blocks = b.blocks && a.pages = b.pages

/-- The parameter pages are read: packages that do not fit, or differ from the channel's first accepted one, stay out; one without
single-bit mode is reported and used in multi-bit mode. -/
def findPkgs (l : List PkgInfo) (n : Node) : Node :=
  let n : Node := ftlMod (fun f => { f with pkgs := [] }) n
  l.foldl (fun n p =>
    let ch := p.ce / 8
    let first := (n.ftl.pkgs.filter (fun x => x.1 / 8 = ch)).findSome? (·.2)
    let n : Node := if !pkgFits p || !first.all (fun q => sameGeometry q p.pkg) || !p.pkg.single
      then flashReport .fch (ch % 32) 0x05 (p.ce * 4 * 2 ^ 17) 0 0 0 n else n
    if !pkgFits p || !first.all (fun q => sameGeometry q p.pkg) then n
    else
      let rate := Nat.min p.mts (n.boot.fchMax.getD ch 3600)
      let old := sget 0 n.boot.fchMts ch
      let n : Node := { n with boot := { n.boot with fchMts := sset 0 n.boot.fchMts ch (if old = 0 then rate else Nat.min old rate) } }
      ftlMod (fun f => { f with pkgs := sset none f.pkgs p.ce (some p.pkg) }) n) n

/-- A discard made after the last root may be undone (R247). -/
def undoDiscards (root : Root) (n : Node) : Node :=
  root.map.foldl (fun n e =>
    match e.2, fmapGet n e.1 with
    | some old, some now =>
      if now.mstate = 2 ∧ old.mstate = 1 ∧ old.seq = now.seq then
        let (x, n) := fresh n
        if x % 2 = 1 then fmapSet e.1 (some old) n else n
      else n
    | _, _ => n) n

/-- Power-loss replay: every unit in flash is in the map again; units not yet in flash are gone, a page set whose program was under
way is torn; every open block is closed, a reserved one in which nothing is found is erased, and the pool returns to the root's state. -/
def replayFlash (n : Node) : Node :=
  if n.ftl.pool = 0 then n
  else
    match n.ftl.roots.getLast? with
    | none => flashReport .ftl 0 0x09 0 0 0 0 (ftlMod (fun f => { f with pool := 5, buf := [], opens := [] }) n)
    | some root =>
      let torn := ((n.ftl.buf.filter (fun u => u.stage = 1)).map (fun u => (u.blk, u.page))).foldl
        (fun l x => if l.any (fun y => y.1 = x.1) then l else l ++ [x]) []
      let n : Node := torn.foldl (fun n x => healthAdd 0x8C 1 (flashReport .ftl 0 0x06 x.1 0 x.2 0 n)) n
      let n : Node := healthAdd 0x88 1 (undoDiscards root n)
      let n : Node := n.ftl.opens.foldl (fun n o => fblkMod (o.2 - 1) (fun b => { b with state := 2, closed := n.ftl.seq }) n) n
      let n : Node := ftlMod (fun f => { f with
        buf := [], opens := [], resv := [], pool := root.pool,
        blocks := f.blocks.map (fun b => (b.1, b.2.map (fun k => if k.state = 5 then { k with state := 0 } else k))) }) n
      let (frames, _) := poolShape n n.ftl.reserve
      rootWrite { n with mmu := { n.mmu with capFlash := frames } }

/-! #### DIMM channels (R397) -/

/-- The rate of a channel: what its DIMMs trained at, capped by MAX_MTS. -/
def dimmRate (n : Node) (i : Nat) (d : DimmInfo) : Nat := Nat.min d.mts (n.boot.dchMax.getD i 6400)

def dimmDiffers (a b : DimmInfo) : Bool := a.present ≠ b.present || a.gib ≠ b.gib || a.rank ≠ b.rank

/-- DIMMs are trained: whether every channel carries the same population and every DIMM trained. -/
def trainDimms (l : List DimmInfo) (n : Node) : Bool × Node :=
  let none_ : DimmInfo := { present := 0, gib := 0, rank := 0, mts := 0 }
  let l := (List.range 8).map (fun i => l.getD i none_)
  let first := (l.find? (fun d => d.present ≠ 0)).getD none_
  let n : Node := { n with
    boot := { n.boot with dimms := l },
    mmu := { n.mmu with capDimm := nsum (l.map (·.gib)) * 16384 } }
  let idx := (List.range 8).zip l
  let bad := idx.filter (fun x => x.2.present = 0 || dimmDiffers x.2 first)
  let untrained := idx.filter (fun x => x.2.present ≠ 0 && x.2.mts < 3200)
  let n : Node := bad.foldl (fun n x => report .dch x.1 0x02 0 0 n) n
  let n : Node := untrained.foldl (fun n x => report .dch x.1 0x03 0 0 n) n
  (bad.isEmpty && untrained.isEmpty, n)

/-! #### The firmware (steps 5 and 6) -/

/-- The calibration set is applied, or treated as absent (R372): cabling, WIN_RKEY and the queue pairs of tenant 0. -/
def applyCal (n : Node) : Node :=
  match calRecord n.calFlash with
  | none => secReport 0x0C (imgVersion n.running) { n with calInvalid := true, calSet := { len := 0, bits := 0 }, cabling := [] }
  | some c =>
    let n : Node := regPut (regAddr .rdma 0 0x128) (w32 (calField c 7)) { n with calInvalid := false, calSet := c, cabling := calCables c }
    (List.range 16).foldl (fun n i =>
      let o := (Config.calAt 8).1 + 64 * i
      let q := qpParse c o
      if decide ((Config.calAt 8).2 < 64 * (i + 1)) || q.tid ≠ 0 || (qpBad n c o).isSome || !qpRoom n 0 then n else (qpMake q n).2) n

/-- Ethernet ports of the mode in effect start to train (R289). -/
def ethStart (n : Node) : Node :=
  (List.range 16).foldl (fun n p => if ethThere n p then ethSet p { ethGet n p with link := 1 } n else n) n

/-- JOIN goes to the first neighbour that this node reaches, once a link runs, while it has no map and a valid calibration set
(R284, R364, R372). -/
def joinDue (n : Node) : Node :=
  let waiting := n.awaits.any (fun a => match a.m with | .join _ => true | _ => false)
  if n.topState ≠ 3 ∨ n.map.epoch ≠ 0 ∨ n.calInvalid ∨ waiting then n
  else
    match n.links.findSome? (fun l => match l.2 with
      | some x => if x.state = 2 || x.state = 3 then some x.peer else none
      | none => none) with
    | some peer => joinSend peer 0 n
    | none => n

/-- Firmware start: memory, calibration set, flash, links and Ethernet; the units to be requalified start. -/
def firmware (p : Population) (n : Node) : Node :=
  let (ok, n) := trainDimms p.dimms { n with topState := 2, bootState := 2 }
  if !ok then n
  else requalStart (ethStart (trainLanes (replayFlash (findPkgs p.pkgs (applyCal { n with topState := 3 })))))

/-- The ROM goes on once the rails are in tolerance, PWRFAIL_N is deasserted and no sensor is below 0 °C (R409, R411): device key,
image, attestation key, firmware. -/
def romGo (p : Population) (n : Node) : Node :=
  if n.topState ≠ 0 ∨ n.bootState ≠ 0 then n
  else if !deviceOk n then secReport 0x06 (imgVersion n.image) { n with bootState := 3 }
  else if n.boot.toRecovery ∨ n.boot.straps % 2 = 1 then enterRecovery n
  else
    let c := imageCheck n.fuses n.image
    if c ≠ 0 then enterRecovery (secReport c (imgVersion n.image) n)
    else
      let (k, n) := fresh n
      let n : Node := { n with
        running := n.image, recovered := n.boot.cause = 3, boot := { n.boot with seedLocked := true } }
      let n : Node := { n with attCert := attCertMk n k (bnum (deviceCert n) 0 2) }
      firmware p (secReport 0x01 (imgVersion n.image) n)

/-! ### Recovery (R366, R367, R385) -/

def rcvMod (f : RecovSt → RecovSt) (n : Node) : Node := { n with rcv := f n.rcv }

/-- A TFTP write request: one transfer, of the file lk3-image, with blocks of up to 8,192 bytes. -/
def tftpStart (name : String) (blk : Option Nat) (client : Blob) (n : Node) : Node :=
  if n.topState ≠ 1 then n
  else if name ≠ "lk3-image" ∨ n.recSource ≠ 0 ∨ n.rcv.tftp.any (fun t => t.client ≠ client) ∨ blk = some 0 then emit (.frame 0 8 client) n
  else
    emit (.frame 0 7 client) (rcvMod (fun r => { r with
      tftp := some { blk := Nat.min 8192 (blk.getD 512), next_ := 1, data := { len := 0, bits := 0 }, client := client } }) n)

/-- A DATA block: the next one is kept and acknowledged, a shorter one ends the transfer; the previous one is acknowledged again. -/
def tftpBlock (block : Nat) (data : Blob) (n : Node) : Node :=
  match (if n.topState = 1 then n.rcv.tftp else none) with
  | none => n
  | some t =>
    if block = t.next_ % 65536 ∧ data.len ≤ t.blk then
      let all := bappend t.data data
      let n : Node := emit (.frame 0 7 (bofNat 2 block)) n
      if data.len < t.blk then
        { n with rcv := { n.rcv with tftp := none, whole := all }, recSource := 1 }
      else rcvMod (fun r => { r with tftp := some { t with next_ := t.next_ + 1, data := all } }) n
    else if block = (t.next_ - 1) % 65536 then emit (.frame 0 7 (bofNat 2 block)) n
    else n

/-- Whether the chunks so far hold the whole image, by the length its header gives. -/
def imageWhole (i : Blob) : Bool := decide (0x2000 ≤ i.len) && decide (0x2000 + imgBodyLen i ≤ i.len)

/-- A chunk is submitted to the mailbox. Where its CRC fails and it is out of order, either is reported. -/
def mboxSubmit (crc : Word) (n : Node) : Node :=
  if n.topState ≠ 1 ∨ n.recSource ≠ 0 then n
  else
    let r := n.rcv
    let bad := crc32c r.page ≠ crc.toNat
    let late := r.chunk ≠ 0 && r.chunk ≠ r.next_
    let (x, n) := if bad && late then fresh n else (b2n late, n)
    if bad && x % 2 = 0 then rcvMod (fun r => { r with stat := 2 }) n
    else if late then rcvMod (fun r => { r with stat := 3 }) n
    else if bad then rcvMod (fun r => { r with stat := 2 }) n
    else
      let image := if r.chunk = 0 then r.page else bappend r.image r.page
      let n : Node := rcvMod (fun r => { r with image := image, next_ := r.chunk + 1, stat := 1 }) n
      if imageWhole image then { n with rcv := { n.rcv with whole := image, stat := 5 }, recSource := 2 } else n

/-- The MRAM records that await writing are written before the node resets itself. -/
def mramDrain (n : Node) : Node :=
  (List.range (n.mram.staged.length + n.mram.waiting.length)).foldl (fun n _ => mramStep n) n

/-- The image received whole is checked; accepted, it is written to config flash, and the node resets itself. -/
def recoveryImage (source : Nat) (n : Node) : Node :=
  if n.topState ≠ 1 ∨ source = 0 ∨ n.recSource ≠ source then n
  else
    let i := n.rcv.whole
    let c := imageCheck n.fuses i
    if c ≠ 0 then
      let n : Node := secReport c (imgVersion i) { n with recSource := 0 }
      rcvMod (fun r => { RecovSt.empty with chunk := r.chunk, page := r.page, stat := if source = 2 then 4 else 0 }) n
    else
      let n : Node := mramDrain (secReport 0x08 (imgVersion i) { n with image := i })
      nodeReset 3 n.boot.straps n

/-! ### Fuses and recovery on demand (R365, R366) -/

def rollbackCommit (n : Node) : Node :=
  if n.bootState ≠ 2 then n
  else
    let n : Node := { n with fuses := { n.fuses with
      rollback := Nat.max n.fuses.rollback (Nat.min 64 (imgVersion n.running)), revoke := n.fuses.revoke ||| imgRevoke n.running } }
    secReport 0x0A (imgVersion n.running) n

/-! ### Config flash (R368, R371) -/

/-- A write to config flash ends: the region holds the new contents, or keeps its state; its request answers. -/
def flashWritten (ok : Bool) (n : Node) : Node :=
  match n.flashJob with
  | none => n
  | some j =>
    let n : Node := { n with flashJob := none }
    let v := imgVersion n.running
    if !ok then mgmtAnswer j.req 6 0 0 0 false { len := 0, bits := 0 } (secReport 0x0D v n)
    else
      let n : Node := if j.cal then secReport 0x0B v { n with calFlash := j.data, calPending := true }
        else secReport 0x09 v { n with image := j.data }
      mgmtOk j.req 0 { len := 0, bits := 0 } n

/-! ### The test access port (R404) -/

/-- EXTEST, CLAMP and HIGHZ act only while RESET_N is asserted, and otherwise as BYPASS. -/
def tapSet (ir drive : Nat) (bsr : Option Nat) (n : Node) : Node :=
  { n with tap := { ir := ir, bsr := bsr.getD n.tap.bsr, drive := drive } }

def tapBypass (n : Node) : Node := emit (.tdo 1 0) (tapSet 1 0 none n)

def tapDrive (ir drive : Nat) (bsr : Option Nat) (n : Node) : Node := if n.boot.inReset then tapSet ir drive bsr n else tapBypass n

/-! ### The commands -/

def execLaneTrained (lane : Fin 136) (info : LaneInfo) (s : State) : Host.Outcome State Fault Refusal :=
  run s (fun n => joinDue (laneTrain lane.val info n))

def execSpareLaneTrained (lane : Fin 136) (info : LaneInfo) (s : State) : Host.Outcome State Fault Refusal :=
  run s (spareTrained lane.val info)

/-- Every 1 s, the training of a lane that did not train is tried again (R288). -/
def execTrainFailRetry (lane : Fin 136) (info : LaneInfo) (s : State) : Host.Outcome State Fault Refusal :=
  run s (fun n => if (laneGet n lane.val).state = 0 then joinDue (laneTrain lane.val info n) else n)

def execResetNAssert (ns : Nat) (s : State) : Host.Outcome State Fault Refusal := runAlways s (resetAssert ns)

def execResetNRelease (straps : BitVec 4) (s : State) : Host.Outcome State Fault Refusal := runAlways s (resetRelease straps.toNat)

def execRomConditionsMet (p : Population) (s : State) : Host.Outcome State Fault Refusal := run s (romGo p)

def execTftpWriteRequest (name : String) (blksize : Option Nat) (client : Blob) (s : State) : Host.Outcome State Fault Refusal :=
  run s (tftpStart name blksize client)

def execTftpData (block : Nat) (data : Blob) (s : State) : Host.Outcome State Fault Refusal := run s (tftpBlock block data)

def execRecoveryImageReceived (source : Nat) (s : State) : Host.Outcome State Fault Refusal := run s (recoveryImage source)

def execMboxCrc (crc : Word) (s : State) : Host.Outcome State Fault Refusal := run s (mboxSubmit crc)

def execRollbackCommit (s : State) : Host.Outcome State Fault Refusal := run s rollbackCommit

/-- RECOVER is a state bit: it reads 1 until the next reset (R366, R373). -/
def execRecover (s : State) : Host.Outcome State Fault Refusal := run s (fun n => { n with recoverNext := true })

def execTopReset (v : Word) (s : State) : Host.Outcome State Fault Refusal := run s (topReset v)

def execConfigFlashWriteComplete (ok : Bool) (s : State) : Host.Outcome State Fault Refusal := run s (flashWritten ok)

def execBypass (s : State) : Host.Outcome State Fault Refusal := runAlways s tapBypass

/-- IDCODE: version 1, part number 0x9600 and the manufacturer field, shifted out as 32 bits. -/
def execIdcode (s : State) : Host.Outcome State Fault Refusal := runAlways s (fun n => emit (.tdo 32 0x1960054B) (tapSet 2 0 none n))

/-- SAMPLE/PRELOAD: the pins are sampled into the boundary scan register. -/
def execSamplePreload (pins : Nat) (s : State) : Host.Outcome State Fault Refusal := runAlways s (tapSet 3 0 (some pins))

def execExtest (pins : Nat) (s : State) : Host.Outcome State Fault Refusal := runAlways s (tapDrive 4 1 (some pins))

def execClamp (s : State) : Host.Outcome State Fault Refusal := runAlways s (tapDrive 5 1 none)

def execHighz (s : State) : Host.Outcome State Fault Refusal := runAlways s (tapDrive 6 2 none)

/-- Reset of the port leaves the node as it is; IEEE 1149.1 selects IDCODE then. -/
def execTapReset (s : State) : Host.Outcome State Fault Refusal := runAlways s (tapSet 2 0 none)

end Sys2Proof.Machine
end

