-- ==== Sys2Proof/Machine/Regs.lean ====
section
/-!
DEFINITION. Sys2Proof/Machine/Regs.lean: reads and writes of the register space as single accesses, on every access path
(R9, R300, R375-R385, R394-R396 and the register tables of the block chapters).
-/
namespace Sys2Proof.Machine

/-! ### What read-only registers show -/

/-- Two 16-bit fields. -/
def hl16 (hi lo : Nat) : Nat := hi % 65536 * 65536 + lo % 65536

def mean (l : List Nat) : Nat := if l.isEmpty then 0 else nsum l / l.length

def sbyte (t : Int) : Nat := (t % 256).toNat

def imaxOr (l : List Int) : Int := if l.isEmpty then 0 else imax l

/-- A unit's UNIT register (R93). -/
def unitWord (n : Node) (p : Nat) : Nat :=
  let u := unitGet n p
  u.state * 2 ^ 28 + u.fused % 8 * 256 + u.aged % 8 * 16 + u.cur % 8

def unitBlks : List Blk := [.gwe, .mce, .tns, .svc]

/-- Units that read a state, in the layout of TOP_UNITS_ACTIVE. -/
def unitCounts (n : Node) (st : Nat) : Nat :=
  unitBlks.foldl (fun a b =>
    a * 256 + ((List.range (blkInfo b).2.1).filter (fun i => (unitGet n (pageOf b i)).state = st)).length) 0

/-- The words of a record or digest from an offset. -/
def blobReg (b : Blob) (off : Nat) : Nat := bword b off

def headReg (n : Node) (b : Blk) (i off : Nat) : Nat :=
  let p := pageOf b i
  let g := pageGet n p
  let find := fun (seq : Nat) => (g.ring.find? (fun e => e.seq = seq)).map evBytes
  if off = 0x00 then (blkInfo b).2.2.1 * 2 ^ 24 + i * 2 ^ 16 + p
  else if off = 0x04 then 0x00010000
  else if off = 0x0C then
    (if isUnitBlk b then (unitGet n p).state else 0) * 2 ^ 28 + 2 * b2n (pagePending n p) + b2n (g.cause ≠ 0)
  else if off = 0x10 then g.intStat.toNat
  else if off = 0x1C then g.cause
  else if off = 0x20 then g.lo.toNat
  else if off = 0x24 then g.hi.toNat
  else if off = 0x34 then hl16 g.newest (g.ring.length * 256 + g.dropped)
  else if off = 0x38 then b2n g.frozen * (2 ^ 31 + 2 ^ 30) + g.minSev
  else if 0x40 ≤ off ∧ off < 0x80 then
    match find ((wbits (regStored n (p * 0x1000 + 0x30)) 15 0 + (off - 0x40) / 32) % 65536) with
    | some e => bword e ((off - 0x40) % 32)
    | none => 0
  else if 0x80 ≤ off ∧ off < 0x100 then (g.snap.getD ((off - 0x80) / 4) 0).toNat
  else 0

def topReg (n : Node) (off : Nat) : Nat :=
  if off = 0x100 then 0xA1 * 2 ^ 24 + 3 * 2 ^ 16 + n.nodeId.toNat
  else if off = 0x104 then n.topState * 2 ^ 28 + n.stopCause * 2 ^ 24
  else if off = 0x108 then intSum n
  else if off = 0x10C then (match pendingPages n with | p :: _ => 2 ^ 31 + p | [] => 0)
  else if off = 0x118 then 16 * b2n n.afterFatal + n.boot.cause
  else if 0x120 ≤ off ∧ off < 0x130 then blobReg (bofNat 16 n.fuses.serial.toNat) (off - 0x120)
  else if off = 0x130 then unitCounts n 0
  else if off = 0x134 then unitCounts n 1
  else if off = 0x138 then n.boot.straps
  else 0

def pwrReg (n : Node) (off : Nat) : Nat :=
  let thr := (sget 0 (accrue n).pwr.thr (rfield n .pwr 0 0x11C 2 0)) / 100
  let id := rfield n .pwr 0 0x138 23 0
  let en := match rfield n .pwr 0 0x138 31 30 with
    | 0 => sget 0 n.pwr.tenE (id % 4096)
    | 1 => sget 0 n.pwr.qpE id
    | 2 => n.pwr.nodeE
    | _ => n.pwr.packE
  if off = 0x114 then
    nsum ((inForce n).map (fun c => 2 ^ (24 + c))) + Nat.max n.pwr.capGate n.pwr.thmGate * 2 ^ 16 + n.pwr.alertLim * 2 ^ 12 +
      n.pwr.thmLim * 2 ^ 8 + n.pwr.capLim * 2 ^ 4 + nodeOp n
  else if off = 0x118 then hl16 (Nat.min 65535 n.pwr.meanWin) (Nat.min 65535 n.pwr.mean50)
  else if off = 0x120 then thr
  else if off = 0x124 then thr / 2 ^ 32
  else if off = 0x134 then
    let t := rfield n .pwr 0 0x130 11 0
    b2n (n.pwr.held.contains t) * 2 ^ 31 + sget 0 n.pwr.budgets t
  else if off = 0x13C then en
  else if off = 0x140 then en / 2 ^ 32
  else 0

def thmReg (n : Node) (off : Nat) : Nat :=
  let part := fun (a k : Nat) => sbyte (imaxOr ((n.pwr.sensors.drop a).take k))
  let stackTemps := fun (a : Nat) => nsum ((List.range 4).map (fun j => sbyte (n.pwr.stackTemps.getD (a + j) 0) * 2 ^ (8 * j)))
  if off = 0x104 then part 0 64 + part 64 64 * 2 ^ 8 + part 128 16 * 2 ^ 16 + part 144 16 * 2 ^ 24
  else if off = 0x108 then stackTemps 0
  else if off = 0x10C then stackTemps 4
  else if off = 0x110 then sbyte n.pwr.maxJ + sbyte n.pwr.maxS * 256 + b2n n.pwr.thermN * 65536
  else if off = 0x118 then sbyte (n.pwr.sensors.getD (rfield n .thm 0 0x114 7 0) 0)
  else 0

def recReg (n : Node) (off : Nat) : Nat :=
  if off = 0x10C then (match n.jnl.getLast? with | some c => c.jseq | none => 0)
  else if off = 0x11C then (n.units.filter (fun u => u.2.state = 3)).length
  else if off = 0x120 then stageBytes n.mram.staged
  else if 0x140 ≤ off ∧ off < 0x160 then
    match n.jnl.find? (fun c => c.jseq = (regStored n (regAddr .recb 0 0x108)).toNat) with
    | some c => bword (evBytes c.ev) (off - 0x140)
    | none => 0
  else 0

def secReg (n : Node) (off : Nat) : Nat :=
  if off = 0x100 then hl16 n.fuses.revoke n.fuses.rollback
  else if off = 0x104 then 2 + b2n n.boot.seedLocked
  else if 0x140 ≤ off ∧ off < 0x180 then blobReg (bofNat 64 n.fuses.rootDigest.toNat) (off - 0x140)
  else 0

def bootReg (n : Node) (off : Nat) : Nat :=
  if off = 0x100 then n.bootState * 2 ^ 28 + b2n n.recovered * 2 ^ 27 + n.recSource * 2 ^ 25
  else if off = 0x104 then hl16 (imgVersion n.running) (n.fuses.rollback * 256)
  else if off = 0x108 then 2 * b2n n.recoverNext
  else if 0x140 ≤ off ∧ off < 0x180 then bword n.running (0x10 + off - 0x140)
  else 0

def calReg (n : Node) (off : Nat) : Nat :=
  if off = 0x100 then (if n.calInvalid then 2 else calField n.calSet 3 % 4) * 2 ^ 30 + b2n n.calPending * 2 ^ 29
  else if 0x140 ≤ off ∧ off < 0x180 then blobReg (bofNat 64 (Config.shake256 (blist n.calSet)).toNat) (off - 0x140)
  else 0

def frtReg (n : Node) (off : Nat) : Nat :=
  if off = 0x100 then n.nodeId.toNat / 64 * 2 ^ 22 + n.nodeId.toNat % 64 * 2 ^ 16 + 0x30 +
    (if n.map.epoch = 0 then 0 else n.map.minCompat % 8)
  else if off = 0x104 then
    ownState n * 2 ^ 28 + b2n (onCouncil n) * 2 ^ 27 + n.map.council.length % 8 * 2 ^ 24 + b2n n.quorum * 2 ^ 23
  else if off = 0x108 then n.map.epoch
  else if off = 0x110 then hl16 (countState n.map [.spare]) (if n.map.epoch = 0 then 0 else spareTargetOf n.map)
  else if off = 0x12C then fencedCount n
  else 0

def schReg (n : Node) (off : Nat) : Nat :=
  if off = 0x100 then hl16 (Nat.min 65535 n.walkQ.length) (Nat.min 65535 n.reqs.length)
  else if off = 0x104 then hl16 ((n.shards.filter (fun s => s.role = 0)).length % 512) ((n.shards.filter (fun s => s.role ≠ 3)).length % 512)
  else if off = 0x108 then (n.sched.folds.filter (fun t => n.tick < t + ticksS 1)).length
  else if off = 0x10C then hl16 (Nat.min 65535 (nmaxl n.sched.waits / 10)) (Nat.min 65535 (mean n.sched.waits / 10))
  else 0

def mmuReg (n : Node) (off : Nat) : Nat :=
  let t := rfield n .mmu 0 0x10C 11 0
  let q := quotaGet n t
  let d := dmaGet n (rfield n .mmu 0 0x164 5 0)
  if off = 0x110 then q.stack
  else if off = 0x114 then q.dimm
  else if off = 0x118 then q.flash
  else if off = 0x11C then q.promo
  else if off = 0x120 then q.usedStack
  else if off = 0x124 then q.usedDimm
  else if off = 0x128 then q.usedFlash
  else if off = 0x12C then (promotedOf n t).length
  else if off = 0x130 then freeIn n 1
  else if off = 0x134 then freeIn n 2
  else if off = 0x138 then freeIn n 3
  else if off = 0x160 then n.mmu.retiredN
  else if off = 0x168 then d.state * 2 ^ 28 + d.tid % 4096 * 2 ^ 16
  else if off = 0x16C then d.progress
  else 0

def ftlReg (n : Node) (off : Nat) : Nat :=
  if off = 0x100 then n.ftl.pool * 2 ^ 28 +
    (if n.ftl.spareInit = 0 then 0 else Nat.min 255 (n.ftl.spareNow * 100 / n.ftl.spareInit)) * 2 ^ 16
  else if off = 0x13C then retiredBlocks n - n.ftl.oldRetired
  else if off = 0x148 then sat32 n.ftl.spareNow
  else 0

def fchReg (n : Node) (i off : Nat) : Nat :=
  let found := n.ftl.pkgs.filter (fun x => x.1 / 8 = i && x.2.isSome)
  if off = 0x100 then
    match found.findSome? (·.2) with
    | none => 0
    | some k => nsum (found.map (fun x => 2 ^ (24 + x.1 % 8))) + (k.luns - 1) % 4 * 2 ^ 22 + k.planes % 8 * 2 ^ 19 +
        b2n k.single * 2 ^ 18 + sget 0 n.boot.fchMts i % 65536
  else if off = 0x108 then n.ftl.tempTop.getD i 0 % 256 * 256 + n.ftl.temps.getD i 0 % 256
  else 0

def ethReg (n : Node) (i off : Nat) : Nat :=
  if off = 0x104 then
    nsum ((List.range 4).map (fun q => (ethGet n (4 * i + q)).link * 2 ^ (16 + 4 * q))) +
      nsum ((List.range 4).map (fun q => if (ethGet n (4 * i + q)).link = 2 then ethLanes n (4 * i + q) else 0))
  else 0

def rdmaReg (n : Node) (off : Nat) : Nat :=
  let t := tenantFind (catchUp n) (rfield n .rdma 0 0x108 11 0)
  let q := qpFind n (rfield n .rdma 0 0x118 23 0)
  if off = 0x104 then n.qps.length
  else if off = 0x10C then
    match t with
    | some t => hl16 t.balance (if t.cfg.mode = 0 then 0 else t.peak)
    | none => 0
  else if off = 0x110 then (match t with | some t => t.held % 65536 | none => 0)
  else
    match q with
    | none => 0
    | some q =>
      let depth := q.samples.map (·.1)
      let delay := q.samples.map (·.2)
      if off = 0x11C then q.state * 2 ^ 28 + q.cfg.tid % 4096 * 2 ^ 16 + q.slots.length
      else if off = 0x120 then hl16 (nmaxl depth) (if depth.isEmpty then 0 else nsum depth * 16 / depth.length)
      else if off = 0x124 then hl16 (Nat.min 65535 (nmaxl delay)) (Nat.min 65535 (mean delay))
      else 0

def gweReg (n : Node) (i off : Nat) : Nat :=
  let cs := n.ctxs.filterMap (fun x => if x.1 / 512 = i then x.2 else none)
  let inState := fun (st : Nat) => (cs.filter (fun c => c.state = st)).length
  let e := engGet n i
  if off = 0x108 then hl16 (freeCount n i) (inState 1)
  else if off = 0x10C then hl16 (inState 3) (inState 4)
  else if off = 0x110 then hl16 (cs.filter (fun c => c.fold)).length (cs.filter (fun c => c.role ≠ 0)).length
  else if off = 0x114 then hl16 (e.lutLoads % 65536) e.luts.length
  else if off = 0x118 then hl16 (Nat.min 65535 (nmaxl e.expNs)) (Nat.min 65535 (mean e.expNs))
  else if off = 0x11C then nmaxl e.fills
  else 0

/-- The program that runs on an array, or that waits and had it last (R192, R195). -/
def progOn (n : Node) (i : Nat) : Option Prog :=
  match n.progs.find? (fun p => p.state = 1 && p.arrays.contains i) with
  | some p => some p
  | none => n.progs.find? (fun p => p.arrays.contains i)

def tnsReg (n : Node) (i off : Nat) : Nat :=
  if off = 0x108 then
    match progOn n i with
    | some p => p.state * 2 ^ 28 + p.cls * 2 ^ 26 + p.op % 4096
    | none => 0
  else if off = 0x10C then
    let l := sget [] n.tnsTimes i
    hl16 (Nat.min 65535 (nmaxl l / 100)) (Nat.min 65535 (mean l / 100))
  else 0

def mscReg (n : Node) (i off : Nat) : Nat :=
  let units := (List.range 768).map (fun u => i * 768 + u)
  let st := stkGet n i
  let mode := fun (pc : Nat) => !st.lost && !st.pcOff.contains pc
  let mask := fun (f : Nat → Bool) => nsum ((List.range 32).map (fun pc => b2n (f pc) * 2 ^ pc))
  if off = 0x100 then
    let offs := (units.filter (fun k => (clvGet n k).off)).length
    hl16 (768 - offs) offs
  else if off = 0x104 then mask mode
  else if off = 0x124 then mask (fun pc => mode pc && (pcUnits i pc).all (fun k => clvReady (clvGet n k)))
  else if off = 0x12C then
    let u := clvGet n (i * 768 + Nat.min 767 (rfield n .msc i 0x128 9 0))
    if st.selected then b2n u.off * 2 ^ 30 + clvSummary u else 0
  else 0

def dchReg (n : Node) (i off : Nat) : Nat :=
  match n.boot.dimms[i]? with
  | some d => if off = 0x100 then d.present % 4 * 2 ^ 30 + dimmRate n i d % 65536 else if off = 0x104 then d.gib % 65536 else 0
  | none => 0

/-- Link-level fields stand on the page of the link's position-0 lane (R287). -/
def plReg (n : Node) (i off : Nat) : Nat :=
  let l := laneGet n i
  let cabled : Bool := (cableOf n i).isSome || (spareOf n i).isSome || l.link.isSome
  if off = 0x100 then
    (if l.state = 0 ∧ !cabled ∧ !n.cabling.isEmpty then 6 else l.state) * 2 ^ 28 + l.link.getD 0 % 128 * 2 ^ 16 +
      l.pos % 16 * 256 + l.rate
  else if off = 0x108 then
    match l.link.bind (linkGet n) with
    | some k => if headLane k = i then k.state * 2 ^ 28 + k.active.length % 32 * 2 ^ 16 + k.cabled.length % 32 * 256 + k.compat % 8 else 0
    | none => 0
  else if off = 0x10C then l.peer % 4096 * 2 ^ 16 + l.peerLane % 256
  else 0

/-- HS(s) is ACTIVE, COVERING or LOST (R338, R396). -/
def hsReg (n : Node) (i off : Nat) : Nat :=
  if off = 0x100 then
    (if n.hsLost.contains i then 2 else if n.hsLost.contains (i ^^^ 32) then 1 else 0) * 2 ^ 28
  else 0

def cmpReg (n : Node) (off : Nat) : Nat :=
  if off = 0x100 ∨ off = 0x104 then
    nmaxl ((unitPages.filter (fun p => dieOf p = (off - 0x100) / 4 && unitPowered n p)).map (fun p => (unitGet n p).cur)) % 8 * 65536
  else 0

/-- The value of a read-only register that the node's state gives, at least 32 bits of it. -/
def roReg (n : Node) (b : Blk) (i off : Nat) : Nat :=
  if off < 0x100 then headReg n b i off
  else if isUnitBlk b ∧ off = 0x100 then unitWord n (pageOf b i)
  else
    match b with
    | .top => topReg n off
    | .pwr => pwrReg n off
    | .thm => thmReg n off
    | .recb => recReg n off
    | .sec => secReg n off
    | .boot => bootReg n off
    | .cal => calReg n off
    | .tmr => if off = 0x100 then n.tick else if off = 0x104 then n.tick / 2 ^ 32 else if off = 0x108 then hl16 n.pwr.gaps 1 else 0
    | .cmp => cmpReg n off
    | .frt => frtReg n off
    | .sch => schReg n off
    | .mmu => mmuReg n off
    | .ftl => ftlReg n off
    | .eth => ethReg n i off
    | .rdma => rdmaReg n off
    | .svc => 0
    | .gwe => gweReg n i off
    | .mce => if off = 0x108 then mceLoad n i else 0
    | .tns => tnsReg n i off
    | .msc => mscReg n i off
    | .dch => dchReg n i off
    | .fch => fchReg n i off
    | .pl => plReg n i off
    | .hs => hsReg n i off

/-! ### Reads -/

/-- A _LO register: its _HI partner stands behind it (R377; log 34). -/
def isLo (b : Blk) (off : Nat) : Bool :=
  if off < 0x100 then [0x20, 0x80, 0x88, 0x90, 0x98, 0xA0].contains off
  else sfind (blkRegs b) off = some .lo64 ||
    (match b with
      | .pwr => off = 0x120 || off = 0x13C
      | .thm => off = 0x108
      | .tmr => off = 0x100
      | _ => false)

/-- The counter behind an RC register: RDMA_TEN_DENIED is that of the tenant selected (R308). -/
def rcTake (b : Blk) (i off : Nat) (n : Node) : Nat × Node :=
  if b = .rdma ∧ off = 0x114 then
    let t := rfield n .rdma 0 0x108 11 0
    (sget 0 n.tenDenied t, { n with tenDenied := sset 0 n.tenDenied t 0 })
  else
    let a := pageOf b i * 0x1000 + off
    (sget 0 n.cnts a, { n with cnts := sset 0 n.cnts a 0 })

/-- What is left free of a register's value. -/
def withFree (b : Blk) (off v : Nat) (n : Node) : Nat × Node :=
  match freeBits b off with
  | 0 => (v, n)
  | 7 => let (x, n) := fresh n; (x % 101, n)
  | k => let (x, n) := fresh n; (v + x % 2 ^ k, n)

/-- The latch of a path (R377). -/
def pathCode : Path → Nat
  | .firmware => 0
  | .i3c => 1
  | .qp q => 2 + q

def latchKey (p : Path) (addr : Nat) : Nat := pathCode p * 2 ^ 24 + addr

/-- The value of a register that is not a _HI one, before any effect of the read, with the 64 bits of a counter. -/
def regLive (k : RegKind) (b : Blk) (i off : Nat) (n : Node) : Nat × Node :=
  match k with
  | .rw _ _ => ((regStored n (pageOf b i * 0x1000 + off)).toNat, n)
  | .lo64 => withFree b off (sget 0 n.cnts (pageOf b i * 0x1000 + off)) n
  | .hi64 => (0, n)
  | .rc => let (v, n) := rcTake b i off n; withFree b off v n
  | .ro | .act =>
    if isLo b off then (roReg n b i off % 2 ^ 32 + roReg n b i (off + 4) % 2 ^ 32 * 2 ^ 32, n)
    else withFree b off (roReg n b i off) n

/-- One register read on a path (R9, R376, R377). The address is that of an aligned word. -/
def regRead (p : Path) (addr : Nat) (n : Node) : Word × Node :=
  if 0x800000 ≤ addr then (w32 (bword n.staging (addr - 0x800000)), n)
  else
    match regKind addr, blkOfPage (addr / 0x1000) with
    | some k, some (b, i) =>
      let off := addr % 0x1000
      if 4 ≤ off ∧ isLo b (off - 4) then (sget 0 n.latches (latchKey p addr), n)
      else
        let (v, n) := regLive k b i off n
        let n : Node := if isLo b off then { n with latches := sset 0 n.latches (latchKey p (addr + 4)) (w32 (v / 2 ^ 32)) } else n
        (w32 v, n)
    | _, _ => (0, n)

/-! ### Writes -/

/-- The nearer bound of a range (R333, R346). -/
def clampTo (lo hi v : Nat) : Nat := Nat.min hi (Nat.max lo v)

/-- A field held to its range. -/
def wclamp (hi lo a b : Nat) (v : Word) : Word := wput v hi lo (clampTo a b (wbits v hi lo))

/-- A temperature field, signed, held to its range. -/
def wclampT (hi lo a b : Nat) (v : Word) : Word :=
  wput v hi lo (if 128 ≤ wbits v hi lo then a else clampTo a b (wbits v hi lo))

/-- SHADOW_LOG2 is 0 or 8-20 (R346); 4 lies midway between 0 and 8, and either is stored. -/
def shadowLog (v : Nat) (n : Node) : Nat × Node :=
  if v = 4 then pick 0 [0, 8] n else (if v < 4 then 0 else clampTo 8 20 v, n)

/-- What an RW write stores, by the register's own rule (R120, R129, R289, R320, R333, R346); a value is otherwise stored as written
(R9). -/
def rwValue (b : Blk) (off : Nat) (v : Word) (n : Node) : Word × Node :=
  match b with
  | .pwr =>
    (if off = 0x104 then wclamp 9 0 1 1000 (wclamp 26 16 500 1600 v)
     else if off = 0x108 then wclamp 10 0 100 2000 v
     else if off = 0x10C then wclamp 13 0 100 10000 (wclamp 23 14 5 1000 v)
     else if off = 0x110 then wclamp 6 0 20 120 v
     else v, n)
  | .thm => (if off = 0x100 then wclampT 7 0 85 105 (wclampT 15 8 85 105 (wclampT 23 16 70 105 v)) else v, n)
  | .recb =>
    if off = 0x100 then
      let (l, n) := shadowLog (wbits v 4 0) n
      (wput (wclamp 11 8 1 15 (wclamp 27 14 1 10080 v)) 4 0 l, n)
    else (if off = 0x104 then wclamp 7 0 1 168 (wclamp 26 16 5 1440 v) else v, n)
  | .msc => (if off = 0x110 then wclamp 2 0 0 4 v else if off = 0x114 then wclamp 5 0 0 40 v else v, n)
  | .eth =>
    (if off = 0x100 then
      let v := if wbits v 31 30 = 3 then wput v 31 30 0 else v
      if wbits v 29 28 = 3 then wput v 29 28 0 else v
    else v, n)
  | _ => (v, n)

/-- REC_CTRL is written (R351, R352). -/
def recCtrl (p : Nat) (v : Word) (n : Node) : Node :=
  let n : Node := pageSet p { pageGet n p with minSev := wbits v 1 0 } n
  let n : Node := if nbit v.toNat 29 then recClear p n else n
  if nbit v.toNat 31 then recFreeze p n else recUnfreeze p n

def quotaWrite (off : Nat) (v : Word) (n : Node) : Node :=
  let t := rfield n .mmu 0 0x10C 11 0
  let q := quotaGet n t
  if off = 0x11C then promoRetry (quotaSet t { q with promo := v.toNat } n)
  else quotaSet t (if off = 0x110 then { q with stack := v.toNat } else if off = 0x114 then { q with dimm := v.toNat }
    else { q with flash := v.toNat }) n

/-- PWR_TEN_BUDGET_W of the tenant shown (R330). -/
def budgetWrite (v : Word) (n : Node) : Node :=
  let t := rfield n .pwr 0 0x130 11 0
  budgetCheck (pwrMod (fun p => { p with budgets := sset 0 p.budgets t (wbits v 10 0) }) (accrue n))

/-- BOOT_CTRL (R373). -/
def bootCtrl (v : Word) (n : Node) : Node :=
  let n : Node := if nbit v.toNat 1 then { n with recoverNext := true } else n
  if nbit v.toNat 0 then rollbackCommit n else n

/-- A write of a register that a rule of its own acts on; `f` stores the value of an RW register. -/
def writeAct (b : Blk) (i off : Nat) (v : Word) (f : Node → Node) (n : Node) : Node :=
  let p := pageOf b i
  if off < 0x100 then
    if off = 0x08 then (if nbit v.toNat 0 then snap p n else n)
    else if off = 0x10 then intClear p v n
    else if off = 0x14 then withIbi f n
    else if off = 0x18 then intSet p v n
    else if off = 0x2C then errClear p n
    else if off = 0x38 then recCtrl p v n
    else f n
  else
    match b with
    | .top => if off = 0x110 then withIbi f n else if off = 0x114 then topReset v n else f n
    | .pwr => if off = 0x100 then lowerUnits (f (accrue n)) else if off = 0x134 then budgetWrite v n else f n
    | .recb => if off = 0x100 ∧ nbit v.toNat 31 then requalStart (f n) else f n
    | .boot => if off = 0x108 then bootCtrl v n else f n
    | .mmu => if 0x110 ≤ off ∧ off ≤ 0x11C then quotaWrite off v n else f n
    | .ftl => if off = 0x114 then ftlFormat v n else f n
    | .svc => if off = 0x104 then unitDrain .svc i (nbit v.toNat 31) (f n) else f n
    | .gwe => if off = 0x104 then gweCtrl i v n else f n
    | .mce => if off = 0x104 then mceCtrl i (v &&& 0x8000007F#32) n else f n
    | .tns => if off = 0x104 then tnsCtrl i v n else f n
    | .msc => if off = 0x108 then cloveOff i v.toNat n else if off = 0x10C then mscOpen i v n
      else if off = 0x11C then compactAll (fun k => k / 768 = i) (f n)
      else if off = 0x128 then stkSet i { stkGet n i with selected := true } (f n) else f n
    | .pl => if off = 0x104 then plCtrl i v n else f n
    | _ => f n

/-- One register write (R9, R376): what is read-only, read-clear, reserved or unlisted ignores it. -/
def regWrite (addr : Nat) (v : Word) (n : Node) : Node :=
  if 0x800000 ≤ addr then
    { n with staging := { len := 8388608, bits := (bpatch n.staging (addr - 0x800000) (bofNat 4 v.toNat)).bits } }
  else
    match regKind addr, blkOfPage (addr / 0x1000) with
    | some (.rw _ m), some (b, i) =>
      let off := addr % 0x1000
      let (x, n) := rwValue b off v n
      writeAct b i off v (regPut addr (x &&& w32 m)) n
    | some .act, some (b, i) => writeAct b i (addr % 0x1000) v id n
    | _, _ => n

/-- Registers read in ascending address order, each as a single access. -/
def readRun (p : Path) : Nat → Nat → Node → List Word × Node
  | _, 0, n => ([], n)
  | addr, k + 1, n =>
    let (v, n) := regRead p addr n
    let (l, n) := readRun p (addr + 4) k n
    (v :: l, n)

/-- A keyed write of TOP_RESET. -/
def resets (addr : Nat) (v : Word) : Bool := addr = 0x114 && wbits v 31 16 = 0x5A17 && nbit v.toNat 0

/-- Registers written in ascending address order; a node reset among them ends the run. -/
def writeRun : Nat → List Word → Node → Node
  | _, [], n => n
  | addr, v :: l, n =>
    let n : Node := regWrite addr v n
    if resets addr v then n else writeRun (addr + 4) l n

def wordsBlob (l : List Word) : Blob := bconcat (l.map (fun v => bofNat 4 v.toNat))

def blobWords (b : Blob) : List Word := (List.range (b.len / 4)).map (fun i => w32 (bword b (4 * i)))

/-! ### The management window (R300) -/

/-- A READ or WRITE of the window: a queue pair of tenant 0 in RTS, the rkey, whole aligned registers inside the space. -/
def windowBad (n : Node) (x : Qp) (addr len : Nat) (rkey : Word) : Bool :=
  let key := regStored n (regAddr .rdma 0 0x128)
  x.cfg.tid ≠ 0 || key = 0 || rkey ≠ key || addr % 4 ≠ 0 || len % 4 ≠ 0 || 0x1000000 < addr + len

/-- An access of the window: refused with a remote access error, which leaves the queue pair in RTS (R296, R309), held back without a credit, or done by `act`. -/
def windowAccess (q addr len : Nat) (rkey : Word) (act : Node → Node) (n : Node) : Node :=
  match qpFind n q with
  | none => n
  | some x =>
    if x.state ≠ 1 then n
    else if windowBad n x addr len rkey then rdmaReport 0x05 x (emit (.nak q 1) n)
    else
      let (ok, n) := police x.cfg.tid n
      if ok then act n else emit (.rnrNak q) (bump (regAddr .rdma 0 0x134) 1 n)

def windowReadQp (q addr len : Nat) (rkey : Word) (n : Node) : Node :=
  windowAccess q addr len rkey (fun n =>
    let (l, n) := readRun (.qp q) addr (len / 4) n
    emit (.readData q (wordsBlob l)) n) n

def windowWriteQp (q addr : Nat) (rkey : Word) (data : Blob) (n : Node) : Node :=
  windowAccess q addr data.len rkey (writeRun addr (blobWords data)) n

/-! ### I3C (R383-R385) -/

/-- The registers that I3C reaches: in ROM and after a fatal stop only BOOT_STATE, TOP_STATE and the REC page. -/
def i3cReach (n : Node) (addr : Nat) : Bool :=
  let p := addr / 0x1000
  let all : Bool := p < 8 || p = 0x7FE || p = 0x7FF || addr = regAddr .rdma 0 0x128
  let few : Bool := addr = regAddr .boot 0 0x100 || addr = regAddr .top 0 0x104 || p = 3
  addr % 4 = 0 && all && (few || !(n.topState = 0 || n.topState = 4 || n.pwrfail))

/-- The recovery mailbox (R385). -/
def mboxRead (addr : Nat) (n : Node) : Nat :=
  if addr / 0x1000 = 0x7FF then bword n.rcv.page (addr % 0x1000)
  else if addr % 0x1000 = 0x100 then n.rcv.chunk
  else if addr % 0x1000 = 0x108 then n.rcv.stat * 2 ^ 28 + n.rcv.next_ % 2 ^ 24
  else 0

def mboxWrite (addr : Nat) (v : Word) (n : Node) : Node :=
  if addr / 0x1000 = 0x7FF then
    rcvMod (fun r => { r with page := { len := 4096, bits := (bpatch r.page (addr % 0x1000) (bofNat 4 v.toNat)).bits } }) n
  else if addr % 0x1000 = 0x100 then rcvMod (fun r => { r with chunk := v.toNat }) n
  else if addr % 0x1000 = 0x104 then mboxSubmit v n
  else n

def i3cReject (n : Node) : Node := bump (regAddr .top 0 0x11C) 1 n

def i3cReadOne (addr : Nat) (n : Node) : Word × Node :=
  if !i3cReach n addr then (0, i3cReject n)
  else if addr / 0x1000 = 0x7FE ∨ addr / 0x1000 = 0x7FF then (w32 (mboxRead addr n), n)
  else regRead .i3c addr n

def i3cWriteOne (addr : Nat) (v : Word) (n : Node) : Node :=
  if !i3cReach n addr then i3cReject n
  else if addr / 0x1000 = 0x7FE ∨ addr / 0x1000 = 0x7FF then mboxWrite addr v n
  else regWrite addr v n

def i3cWriteRun : Nat → List Word → Node → Node
  | _, [], n => n
  | addr, v :: l, n =>
    let n : Node := i3cWriteOne addr v n
    if resets addr v then n else i3cWriteRun (addr + 4) l n

def i3cReadRun : Nat → Nat → Node → List Word × Node
  | _, 0, n => ([], n)
  | addr, k + 1, n =>
    let (v, n) := i3cReadOne addr n
    let (l, n) := i3cReadRun (addr + 4) k n
    (v :: l, n)

/-- A private write: three address bytes, and 4 to 64 data bytes of a write. A transfer of another shape is refused whole. -/
def i3cWrite (d : Blob) (n : Node) : Node :=
  let a := bnum d 0 3
  if d.len < 3 then i3cReject n
  else
    let n : Node := { n with i3c := { n.i3c with reg := a } }
    if d.len = 3 then n
    else if d.len < 7 ∨ 67 < d.len ∨ (d.len - 3) % 4 ≠ 0 ∨ a % 4 ≠ 0 then i3cReject n
    else i3cWriteRun a (blobWords (bslice d 3 (d.len - 3))) n

/-- A private read of 4 to 64 bytes from the address last written. -/
def i3cRead (len : Nat) (n : Node) : Node :=
  if n.i3c.reg % 4 ≠ 0 ∨ len < 4 ∨ 64 < len ∨ len % 4 ≠ 0 then emit (.i3cData { len := len, bits := 0 }) (i3cReject n)
  else
    let (l, n) := i3cReadRun n.i3c.reg (len / 4) n
    emit (.i3cData (wordsBlob l)) n

/-- The interrupt is raised again 10 ms after it was acknowledged, while its condition holds (R384). -/
def ibiAgain (n : Node) : Node :=
  if ibiCond n then
    let n : Node := reach (n.i3c.ibiAt + ticksMs 10) n
    emit (.ibi (ibiByte n)) { n with i3c := { n.i3c with ibiAt := n.tick } }
  else n

/-! ### Accesses on a path -/

/-- One access as its path sees it: I3C reaches its subset only. -/
def pathRead (p : Path) (addr : Nat) (n : Node) : Node :=
  let (v, n) := match p with
    | .i3c => i3cReadOne addr n
    | _ => if addr % 4 = 0 then regRead p addr n else ((0 : Word), n)
  emit (.regValue p addr v) n

def pathWrite (p : Path) (addr : Nat) (v : Word) (n : Node) : Node :=
  match p with
  | .i3c => i3cWriteOne addr v n
  | _ => if addr % 4 = 0 then regWrite addr v n else n

/-- A register command; a stopped node answers I3C alone (R356). -/
def runPath (p : Path) (s : State) (f : Node → Node) : Host.Outcome State Fault Refusal :=
  match p with
  | .i3c => if s.node.boot.inReset then .next s else runAlways s f
  | _ => run s f

/-! ### The commands -/

def execRcRegisterRead (p : Path) (addr : BitVec 24) (s : State) : Host.Outcome State Fault Refusal :=
  runPath p s (pathRead p addr.toNat)

def execLoRegisterRead (p : Path) (addr : BitVec 24) (s : State) : Host.Outcome State Fault Refusal :=
  runPath p s (pathRead p addr.toNat)

def execRegisterWrite (p : Path) (addr : BitVec 24) (v : Word) (s : State) : Host.Outcome State Fault Refusal :=
  runPath p s (pathWrite p addr.toNat v)

/-- The common header commands name a page; one that is not there ignores them (R376). -/
def execBlkSnap (page : BitVec 12) (s : State) : Host.Outcome State Fault Refusal :=
  run s (onPage page snap)

def execBlkErrClr (page : BitVec 12) (s : State) : Host.Outcome State Fault Refusal := run s (onPage page errClear)

def execBlkIntStatClear (page : BitVec 12) (v : Word) (s : State) : Host.Outcome State Fault Refusal :=
  run s (onPage page (fun p => intClear p v))

def execBlkIntSet (page : BitVec 12) (v : Word) (s : State) : Host.Outcome State Fault Refusal :=
  run s (onPage page (fun p => intSet p v))

def execSvcDrain (svc : Fin 72) (v : Word) (s : State) : Host.Outcome State Fault Refusal :=
  run s (regWrite (regAddr .svc svc.val 0x104) v)

def execRdmaReadWindow (qp addr len : Nat) (rkey : Word) (s : State) : Host.Outcome State Fault Refusal :=
  run s (windowReadQp qp addr len rkey)

def execRdmaWriteWindow (qp addr : Nat) (rkey : Word) (data : Blob) (s : State) : Host.Outcome State Fault Refusal :=
  run s (windowWriteQp qp addr rkey data)

/-- The I3C target is always on: it answers a stopped node's board controller (R383), but not while RESET_N is asserted. -/
def execI3cPrivateWrite (data : Blob) (s : State) : Host.Outcome State Fault Refusal := runPath .i3c s (i3cWrite data)

def execI3cPrivateRead (len : Nat) (s : State) : Host.Outcome State Fault Refusal := runPath .i3c s (i3cRead len)

/-- ENTDAA gives the target its dynamic address (R383). -/
def execEntdaa (addr : BitVec 7) (s : State) : Host.Outcome State Fault Refusal :=
  runPath .i3c s (fun n => { n with i3c := { n.i3c with dyn := some addr.toNat } })

def execIbiRepeat (s : State) : Host.Outcome State Fault Refusal := runPath .i3c s ibiAgain

end Sys2Proof.Machine
end

