-- ==== Sys2Proof/Machine/Mgmt.lean ====
section
/-!
DEFINITION. Sys2Proof/Machine/Mgmt.lean: the MGMT operations (R386-R393) on registers, tenants, queue pairs, memory, flash,
configuration and the composition.
-/
namespace Sys2Proof.Machine

/-! ### The descriptor (R386, R387) -/

def mFlags (d : Blob) : Nat := bnum d 4 2
def mTarget (d : Blob) : Nat := bword d 8
def mGen (d : Blob) : Nat := bnum d 14 2
def mArg16 (d : Blob) : Nat := bnum d 12 2
def mAddr (d : Blob) : Nat := bnum d 0x28 8
def mOff (d : Blob) : Nat := bword d 0x30
def mLen (d : Blob) : Nat := bword d 0x34
def mArg32 (d : Blob) : Nat := bword d 0x3C
def mStaged (d : Blob) : Bool := nbit (bword d 0) 16
def mFinal (d : Blob) : Bool := nbit (mFlags d) 0

/-- The payload: inline, or copied out of the staging window (R387). -/
def mPayload (n : Node) (d : Blob) : Blob :=
  if mLen d = 0 then bempty else if mStaged d then bslice n.staging (mOff d) (mLen d) else bslice d (mOff d) (mLen d)

/-- What is fixed of an operation: its code, the OP_FLAGS bits in use, the bytes it returns, its own limits by header word, the
handle it acts on, and whether it changes the composition map. -/
structure MgmtOp where
  code   : Nat
  flags  : Nat
  ret    : Nat
  limits : List (Nat × Bool)
  handle : Nat
  map    : Bool

/-- The word of a header that fails check step 2 (R386-R388). -/
def mgmtBad (x : Qp) (o : MgmtOp) (d : Blob) (n : Node) : Option Nat :=
  let w0 := bword d 0
  let len := nbits w0 8 0 * 64
  let lim := fun (w : Nat) => o.limits.any (fun l => l.1 = w && l.2)
  firstBad [
    offIf (nbits w0 31 24 ≠ 4 || nbits w0 23 20 ≠ 1 || nbits w0 19 17 ≠ 0 || nbits w0 15 9 ≠ 0 || len = 0 ||
      2 ^ x.cfg.slotLog2 < len) 0,
    offIf (bnum d 6 2 ≠ o.code || mFlags d &&& o.flags ≠ mFlags d) 4,
    offIf (lim 8) 8,
    offIf (lim 0xC) 0xC,
    offIf (bnum d 0x18 8 % 16 ≠ 0) 0x18,
    offIf (bword d 0x24 < 64 + o.ret) 0x24,
    offIf (lim 0x28) 0x28,
    offIf (mLen d ≠ 0 && (mOff d % 8 ≠ 0 || (!mStaged d && decide (mOff d < 64)))) 0x30,
    offIf ((mLen d ≠ 0 && decide ((if mStaged d then 8388608 else len) < mOff d + mLen d)) || lim 0x34) 0x34,
    offIf (bword d 0x38 ≠ (if mStaged d then crc32c (mPayload n d) else 0)) 0x38,
    offIf (lim 0x3C) 0x3C]

/-! ### Answers -/

def mgmtBadAt (id off : Nat) (n : Node) : Node := mgmtAnswer id 1 off 0 0 false bempty n

/-- A word of the payload fails (R393). -/
def mgmtBadIn (id off : Nat) (n : Node) : Node := mgmtAnswer id 1 off 0 0 true bempty n

def mgmtDenied (id : Nat) (n : Node) : Node := mgmtAnswer id 2 0 0 0 false bempty n

/-- RETRY_LATER with an expected wait, which the manual leaves to the node. -/
def mgmtLater (id : Nat) (n : Node) : Node :=
  let (x, n) := fresh n
  mgmtAnswer id 5 (x % 2 ^ 32) 0 0 false bempty n

/-- Bytes whose content the manual leaves open. -/
def freeBlob (len : Nat) (n : Node) : Blob × Node :=
  let (x, n) := fresh n
  (bofNat len x, n)

/-- A map change that this node proposed has not yet committed. -/
def mapBusy (n : Node) : Bool := n.council.prop.isSome || !n.mapJobs.isEmpty

/-- Another operation on the handle is in progress. -/
def handleBusy (n : Node) (id h : Nat) : Bool :=
  h ≠ 0 && n.reqs.any (fun r => r.op = 4 && decide (r.id ≠ id) && decide (r.handle = h))

/-- The request answers once a map with the change has committed (R392); at the last epoch no map follows but a re-formed one. -/
def mapWant (id : Nat) (c : MapChange) (data : Blob) (n : Node) : Node :=
  if !n.quorum then mgmtAnswer id 5 10000 0 0 false bempty n
  else if !epochOpen n c then mgmtLater id n
  else want c { n with mapJobs := n.mapJobs ++ [{ req := id, change := c, result := 0, at_ := n.tick, data := data }] }

/-- An MGMT descriptor after policing: checks 2 to 4 of R12, the cases of R392, then the operation on its payload. -/
def mgmtIn (o : MgmtOp) (act : Nat → Blob → Node → Node) (d : Blob) (x : Qp) (t : RespTo) (n : Node) : Node :=
  match mgmtBad x o d n with
  | some w => answerStatus t (bnum d 3 1) 0 1 w n
  | none =>
    if x.cfg.tid ≠ 0 then answerStatus t 4 0 2 0 n
    else
      let p := mPayload n d
      let (wait, n) := admitEntry x.cfg.tid n
      match wait with
      | some w => answerStatus t 4 0 5 w n
      | none =>
        let (id, n) := reqNew x t d o.handle 0 0 0 n
        if handleBusy n id o.handle || n.flashJob.isSome || mapBusy n then mgmtLater id n
        else if o.map && !n.quorum then mgmtAnswer id 5 10000 0 0 false bempty n
        else act id p n

def mgmtRun (o : MgmtOp) (act : Nat → Blob → Node → Node) (qp : Nat) (d : Blob) (s : State) :
    Host.Outcome State Fault Refusal := run s (receive qp d (mgmtIn o act d))

def mop (code : Nat) : MgmtOp := { code := code, flags := 0, ret := 0, limits := [], handle := 0, map := false }

/-! ### Chunked operations (R388) -/

def chunkFind (n : Node) (id : Nat) : Option ChunkOp :=
  n.chunkOps.find? (fun c => c.id = id && decide (n.tick < c.at_ + ticksS 60))

/-- Take a chunk: what has arrived so far, or none where it does not continue the sequence. -/
def chunkTake (q : Nat) (d p : Blob) (n : Node) : Option (Blob × Node) :=
  let id := q * 65536 + bnum d 6 2
  let old := chunkFind n id
  let put := fun (c : ChunkOp) => { n with chunkOps := n.chunkOps.filter (fun c => c.id ≠ id) ++ (if mFinal d then [] else [c]) }
  if mAddr d = 0 then some (p, put { id := id, data := p, at_ := n.tick })
  else match old with
    | none => none
    | some c => if c.data.len = mAddr d then let b := bappend c.data p; some (b, put { c with data := b }) else none

/-- A chunk is taken and answered; the last one goes on to `done` with the whole object. -/
def chunked (q : Nat) (d : Blob) (done : Nat → Blob → Node → Node) (id : Nat) (p : Blob) (n : Node) : Node :=
  match chunkTake q d p n with
  | none => mgmtBadAt id 0x28 n
  | some (b, n) => if mFinal d then done id b n else mgmtOk id 0 bempty n

/-- 60 s without a FINAL chunk: the sequence is discarded. -/
def execChunkSequenceTimeout (op : Nat) (s : State) : Host.Outcome State Fault Refusal :=
  run s (fun n => match n.chunkOps.find? (fun c => c.id = op) with
    | some c => reach (c.at_ + ticksS 60) { n with chunkOps := n.chunkOps.filter (fun c => c.id ≠ op) }
    | none => n)

/-! ### Registers -/

def regRangeBad (a len : Nat) : Bool := len % 4 ≠ 0 || len < 4 || 4096 < len || 2 ^ 24 < a + len

def opRegRead (d : Blob) : MgmtOp :=
  { mop 0x57 with
    ret := mArg32 d,
    limits := [(0x28, mAddr d % 4 ≠ 0 || decide (2 ^ 24 ≤ mAddr d)), (0x3C, regRangeBad (mAddr d) (mArg32 d))] }

def execRegRead (qp : Nat) (d : Blob) (s : State) : Host.Outcome State Fault Refusal :=
  mgmtRun (opRegRead d)
    (fun id _ n =>
      let (l, n) := readRun (.qp qp) (mAddr d) (mArg32 d / 4) n
      mgmtOk id 0 (wordsBlob l) n) qp d s

def opRegWrite (d : Blob) : MgmtOp :=
  { mop 0x58 with
    limits := [(0x28, mAddr d % 4 ≠ 0 || decide (2 ^ 24 ≤ mAddr d)), (0x34, regRangeBad (mAddr d) (mLen d))] }

/-- REG_WRITE; a node reset among the writes leaves nothing to answer. -/
def execRegWrite (qp : Nat) (d : Blob) (s : State) : Host.Outcome State Fault Refusal :=
  mgmtRun (opRegWrite d)
    (fun id p n => mgmtOk id 0 bempty (writeRun (mAddr d) (blobWords p) n)) qp d s

/-! ### Tenants and queue pairs (R294-R296) -/

/-- The first word of a tenant context record that breaks its limits (R294). -/
def tenantBad (p : Blob) : Option Nat :=
  let w := bword p
  let hi := fun (o : Nat) => nbits (w o) 31 16
  let lo := fun (o : Nat) => nbits (w o) 15 0
  firstBad [
    offIf (1 < nbits (w 0) 19 18 || nbits (w 0) 17 0 ≠ 0) 0x00,
    offIf (hi 4 = 0 || lo 4 = 0) 0x04,
    offIf (hi 8 = 0 || lo 8 = 0) 0x08,
    offIf (hi 12 < hi 8 || lo 12 = 0) 0x0C,
    offIf (hi 16 = 0 || lo 16 = 0) 0x10,
    offIf (w 20 ≠ 0) 0x14, offIf (w 24 ≠ 0) 0x18, offIf (w 28 ≠ 0) 0x1C]

/-- The record's values; for TID 0 those that would shut it out are raised (R294). -/
def tenantParse (p : Blob) : TenantCfg :=
  let own := nbits (bword p 0) 31 20 = 0
  let r := fun (o : Nat) => let v := bnum p (o + 2) 2; if own then Nat.max 1000 v else v
  let b := fun (o : Nat) => let v := bnum p o 2; if own then Nat.max 16 v else v
  { mode := nbits (bword p 0) 19 18, rate := r 4, burst := b 4, cir := r 8, cbs := b 8, pir := r 12, pbs := b 12,
    admitMax := bnum p 18 2, qpMax := bnum p 16 2 }

/-- The record is in effect from the next calendar entry (R294, R304). -/
def tenantWrite (p : Blob) (n : Node) : Node :=
  let n : Node := catchUp n
  let tid := nbits (bword p 0) 31 20
  let c := tenantParse p
  match tenantFind n tid with
  | some _ => tenantMod tid (fun t => { t with next := some c }) n
  | none => { n with
      tenants := n.tenants ++ [{ tid := tid, cfg := c, next := some c, started := false, balance := 0, peak := 0, held := 0, holds := [] }] }

def opTenantWrite (d : Blob) : MgmtOp :=
  { mop 0x30 with limits := [(0x34, decide (mLen d ≠ 32))] }

def execTenantWrite (qp : Nat) (d : Blob) (s : State) : Host.Outcome State Fault Refusal :=
  mgmtRun (opTenantWrite d)
    (fun id p n => match tenantBad p with
      | some o => mgmtBadIn id o n
      | none => mgmtOk id 0 bempty (tenantWrite p n)) qp d s

def opQpCreate (d : Blob) : MgmtOp :=
  { mop 0x31 with limits := [(0x34, decide (mLen d ≠ 64))] }

def execQpCreate (qp : Nat) (d : Blob) (s : State) : Host.Outcome State Fault Refusal :=
  mgmtRun (opQpCreate d)
    (fun id p n => match qpBad n p 0 with
      | some o => mgmtBadIn id o n
      | none =>
        if !qpRoom n (qpParse p 0).tid then mgmtDenied id n
        else
          let (k, n) := qpMake (qpParse p 0) n
          mgmtOk id (k % 2 ^ 24) bempty n) qp d s

def opQpDestroy (qp : Nat) (d : Blob) : MgmtOp :=
  { mop 0x32 with limits := [(8, mTarget d = qp)] }

/-- QP_DESTROY: the queue pair drains; the answer leaves when it is free (R296). -/
def execQpDestroy (qp : Nat) (d : Blob) (s : State) : Host.Outcome State Fault Refusal :=
  mgmtRun (opQpDestroy qp d)
    (fun id _ n =>
      if (qpFind n (mTarget d)).isNone then mgmtBadAt id 8 n
      else qpMod (mTarget d) (fun x => { x with state := 3 }) n) qp d s

/-- A draining queue pair has no admitted request left: it is free, and what asked for it is answered. -/
def execQpDrainEnd (qp : Nat) (s : State) : Host.Outcome State Fault Refusal :=
  run s (fun n => match qpFind n qp with
    | none => n
    | some x =>
      if x.state ≠ 3 ∨ n.reqs.any (fun r => r.qp = qp) then n
      else
        let jobs := n.reqs.filter (fun r => r.op = 4 && bnum r.d 6 2 = 0x32 && mTarget r.d = qp)
        jobs.foldl (fun n r => mgmtOk r.id 0 bempty n) { n with qps := n.qps.filter (fun x => x.num ≠ qp) })

/-! ### Object memory by tenant address (R218) -/

/-- The node linear address of a tenant range, where it lies in one segment of the tenant; with its rights. -/
def segFind (n : Node) (tid a len : Nat) : Option (Nat × Bool) :=
  (n.mmu.segments.find? (fun s => s.tid = tid && decide (s.addr ≤ a) && decide (a + len ≤ s.addr + s.pages * 65536) &&
    decide (a < s.addr + s.pages * 65536))).map (fun s => (s.base * 65536 + (a - s.addr), s.rw))

def tidBad (d : Blob) : Nat × Bool := (8, decide (4095 < mTarget d))

def opMemRead (d : Blob) : MgmtOp :=
  { mop 0x33 with ret := mArg32 d, limits := [tidBad d, (0x3C, decide (1048576 < mArg32 d))] }

def execMemRead (qp : Nat) (d : Blob) (s : State) : Host.Outcome State Fault Refusal :=
  mgmtRun (opMemRead d)
    (fun id _ n => match segFind n (mTarget d) (mAddr d) (mArg32 d) with
      | none => mgmtDenied id n
      | some (a, _) =>
        if mArg32 d = 0 then mgmtOk id 0 bempty n
        else match dmaStart id (mTarget d) a (mArg32 d) false bempty n with
          | some n => n
          | none => mgmtLater id n) qp d s

def opMemWrite (d : Blob) : MgmtOp :=
  { mop 0x34 with limits := [tidBad d] }

def execMemWrite (qp : Nat) (d : Blob) (s : State) : Host.Outcome State Fault Refusal :=
  mgmtRun (opMemWrite d)
    (fun id p n => match segFind n (mTarget d) (mAddr d) p.len with
      | some (a, true) =>
        if p.len = 0 then mgmtOk id 0 bempty n
        else match dmaStart id (mTarget d) a p.len true p n with
          | some n => n
          | none => mgmtLater id n
      | _ => mgmtDenied id n) qp d s

/-- The flash units under a range of node linear addresses are discarded (R247). -/
def discardRange (a len : Nat) (n : Node) : Node :=
  let pages := n.mmu.ptab.filterMap (fun e => match e.2 with
    | some p => if p.home = 3 && a / 65536 ≤ e.1 && e.1 * 65536 < a + len then some (e.1, p.frame) else none
    | none => none)
  pages.foldl (fun n x => (List.range 16).foldl (fun n i =>
    let u := x.1 * 65536 + 4096 * i
    if a ≤ u && u < a + len then discardUnit (x.2 * 16 + i) n else n) n) n

def opFlashDiscard (d : Blob) : MgmtOp :=
  { mop 0x35 with
    limits := [tidBad d, (0x28, decide (mAddr d % 4096 ≠ 0)), (0x3C, decide (mArg32 d % 4096 ≠ 0))] }

def execFlashDiscard (qp : Nat) (d : Blob) (s : State) : Host.Outcome State Fault Refusal :=
  mgmtRun (opFlashDiscard d)
    (fun id _ n => match segFind n (mTarget d) (mAddr d) (mArg32 d) with
      | some (a, true) => mgmtOk id 0 bempty (discardRange a (mArg32 d) n)
      | _ => mgmtDenied id n) qp d s

/-! ### Reads of what the node keeps -/

/-- A read of bytes ends where its content ends (DEDUCED, log 49). -/
def partOf (b : Blob) (a len : Nat) : Blob := bslice b a (Nat.min len (b.len - a))

def opMapRead (d : Blob) : MgmtOp :=
  { mop 0x41 with ret := mArg32 d }

def execMapRead (qp : Nat) (d : Blob) (s : State) : Host.Outcome State Fault Refusal :=
  mgmtRun (opMapRead d)
    (fun id _ n => mgmtOk id n.map.epoch (partOf (mapBytes n.map) (mAddr d) (mArg32 d)) n) qp d s

def opCalRead (d : Blob) : MgmtOp :=
  { mop 0x52 with ret := mArg32 d }

def execCalRead (qp : Nat) (d : Blob) (s : State) : Host.Outcome State Fault Refusal :=
  mgmtRun (opCalRead d)
    (fun id _ n => mgmtOk id 0 (partOf n.calFlash (mAddr d) (mArg32 d)) n) qp d s

/-- Width of a health log word (R254). -/
def healthWidth (o : Nat) : Nat :=
  if o = 0x44 then 2 else if 0xD0 ≤ o then 1
  else if [0x00, 0x28, 0x2C, 0x30, 0x34, 0x38, 0x3C, 0x40, 0x88, 0x8C].contains o then 4 else 8

def opHealthRead : MgmtOp :=
  { mop 0x54 with ret := 256 }

/-- The health log of the last root; before any root its content is open. -/
def execHealthRead (qp : Nat) (d : Blob) (s : State) : Host.Outcome State Fault Refusal :=
  mgmtRun opHealthRead
    (fun id _ n => match n.ftl.roots.getLast? with
      | some r => mgmtOk id 0 (r.health.foldl (fun b e => bpatch b e.1 (bofNat (healthWidth e.1) e.2)) { len := 256, bits := 0 }) n
      | none =>
        let (b, n) := freeBlob 256 n
        mgmtOk id 0 b n) qp d s

/-- The bytes of an MRAM channel (R354): the POWER table by page, then a ring's records, oldest first (log 30). -/
def mramBytes (n : Node) (ch : Nat) : Blob :=
  let recs := fun (l : List EvRec) => bconcat (l.map evBytes)
  if ch = 0 then
    { bappend (bconcat (unitPages.map (fun p => ({ len := 16, bits := (sget 0 n.mram.powerTab p).toNat } : Blob)))) (recs n.mram.power) with
      len := 1048576 }
  else if ch = 1 then { recs n.mram.security with len := 3145728 }
  else { recs n.mram.fatal with len := 4194304 }

def opMramRead (d : Blob) : MgmtOp :=
  { mop 0x55 with ret := mArg32 d, limits := [(0xC, decide (2 < mArg16 d))] }

def execMramRead (qp : Nat) (d : Blob) (s : State) : Host.Outcome State Fault Refusal :=
  mgmtRun (opMramRead d)
    (fun id _ n => mgmtOk id 0 (partOf (mramBytes n (mArg16 d)) (mAddr d) (mArg32 d)) n) qp d s

/-- A context header (R84). -/
def ctxHeader (x : Ctx) (cand res : Nat) : Blob :=
  bconcat [bofNat 4 (x.state * 2 ^ 28 + x.role * 2 ^ 26 + b2n x.fold * 2 ^ 25 + b2n x.shadow * 2 ^ 24 + x.key.shard % 65536),
    bofNat 4 x.key.handle, bofNat 4 (x.key.gen % 65536 * 2 ^ 16 + x.width), bofNat 4 (x.degree * 2 ^ 8 + x.level),
    bofNat 8 x.snap, bofNat 8 x.deadline, bofNat 8 x.salt, bofNat 8 x.lutAddr, bofNat 4 x.lut.scale.toNat, bofNat 4 x.lut.minsum.toNat,
    bofNat 4 (cand * 2 ^ 16 + res), bofNat 4 x.expansions, bofNat 4 x.evals,
    bofNat 4 (Nat.min 65535 x.tierFaults * 2 ^ 16 + Nat.min 65535 x.skips), bofNat 8 x.curId, bofNat 8 x.idHigh, bofNat 8 x.sub,
    bofNat 4 x.expandCap, bofNat 156 0]

/-- Queue entries (R85), the places behind them left open. -/
def queueBytes (l : List (Nat × Nat)) (n : Node) : Blob × Node :=
  let b := bconcat (l.map (fun e => bofNat 8 (e.1 % 65536 * 2 ^ 48 + e.2 % 2 ^ 34)))
  let (f, n) := freeBlob (2048 - b.len) n
  (bappend b f, n)

/-- The adjacency block buffer and the code staging area of a context (R82, R83): the block last read and the codes staged, one after
the other; bytes that hold none of them are left open. -/
def stagingBytes (x : Ctx) (n : Node) : Blob × Node :=
  let (f, n) := freeBlob 1792 n
  let size := x.lut.m / 2
  let block := if x.buf = 0 then bslice f 0 256 else bofNat 256 x.buf
  let codes := (List.range x.codes.length).map (fun i => match x.codes.getD i none with
    | some c => bofNat size c
    | none => bslice f (256 + size * i) size)
  let staged := bconcat codes
  (bconcat [block, bslice staged 0 (Nat.min 1536 staged.len), bslice f (256 + staged.len) (1536 - staged.len)], n)

/-- The image of a context (R83): of a gang's lists and filter, the part of its place in the gang. A FREE context shows its state
alone. -/
def ctxImage (e c : Nat) (n : Node) : Blob × Node :=
  match ctxGet n e c with
  | none =>
    let (f, n) := freeBlob 10236 n
    (bappend (bofNat 4 (f.bits % 2 ^ 28)) f, n)
  | some x =>
    let l := (ctxGet n e (leaderOf n e c)).getD x
    let i := if x.role = 0 then 0 else c % 4
    let cand := (l.cand.drop (256 * i)).take 256
    let res := (l.res.drop (256 * i)).take 256
    let (cb, n) := queueBytes cand n
    let (rb, n) := queueBytes res n
    let (f, n) := stagingBytes x n
    (bconcat [ctxHeader x cand.length res.length, bofNat 4096 (l.filter >>> (32768 * i)), cb, rb, f], n)

def opContextDump (d : Blob) : MgmtOp :=
  { mop 0x56 with ret := 10240, limits := [(0xC, decide (71 < mArg16 d)), (0x3C, decide (511 < mArg32 d))] }

def execContextDump (qp : Nat) (d : Blob) (s : State) : Host.Outcome State Fault Refusal :=
  mgmtRun (opContextDump d)
    (fun id _ n =>
      let (b, n) := ctxImage (mArg16 d) (mArg32 d) n
      mgmtOk id 0 b n) qp d s

def opAttest (d : Blob) : MgmtOp :=
  { mop 0x50 with ret := 10936, limits := [(0x34, decide (mLen d ≠ 32))] }

/-- ATTEST (R369); it completes in the step. -/
def execAttest (qp : Nat) (d : Blob) (s : State) : Host.Outcome State Fault Refusal :=
  mgmtRun (opAttest d)
    (fun id p n => mgmtOk id 0 (attBlob n p.bits) n) qp d s

/-! ### Config flash (R257, R368, R371, R389) -/

/-- The entry of a cabling payload that breaks R257 or R389, as its offset. Links come in order; a lane or spare lane serves one
link. -/
def cablesBad (p : Blob) : Nat → Nat → Option Nat → List Nat → Option Nat
  | 0, _, _, _ => none
  | k + 1, o, last, used =>
    let count := bbyte p (o + 1)
    let lanes := (List.range count).map (fun i => bbyte p (o + 0x18 + i))
    let spare := bbyte p (o + 2)
    let all := lanes ++ (if spare = 0xFF then [] else [spare])
    if 127 < bbyte p o || (match last with | some l => decide (bbyte p o ≤ l) | none => false) || count = 0 || decide (16 < count) ||
        bword p (o + 4) ≠ 0 || lanes.any (fun l => decide (127 < l)) || !lanes.Nodup || (spare ≠ 0xFF && (spare < 128 || 135 < spare)) ||
        all.any used.contains ||
        (List.range (16 - count)).any (fun i => bbyte p (o + 0x18 + count + i) ≠ 0xFF || bbyte p (o + 0x28 + count + i) ≠ 0xFF)
    then some o
    else cablesBad p k (o + 56) (some (bbyte p o)) (used ++ all)

/-- The calibration region with another cabling table, its CRC taken again. -/
def calWithCables (p c : Blob) : Blob :=
  let at_ := Config.calAt 6
  let c := bpatch c at_.1 (bslice (bappend p { len := at_.2, bits := 0 }) 0 at_.2)
  calPut 4 (calCrc (bslice c 0 (calField c 1))) c

/-- Config flash is written; the request answers when that has ended. -/
def flashStart (cal : Bool) (data : Blob) (id : Nat) (n : Node) : Node :=
  { n with flashJob := some { cal := cal, data := data, req := id, at_ := n.tick } }

def opCablingWrite (d : Blob) : MgmtOp :=
  { mop 0x40 with limits := [(0x34, decide (mLen d % 56 ≠ 0) || decide (128 * 56 < mLen d))] }

def execCablingWrite (qp : Nat) (d : Blob) (s : State) : Host.Outcome State Fault Refusal :=
  mgmtRun (opCablingWrite d)
    (fun id p n => match cablesBad p (p.len / 56) 0 none [] with
      | some o => mgmtBadIn id o n
      | none => flashStart true (calWithCables p n.calFlash) id n) qp d s

/-- IMAGE_WRITE at FINAL: the checks of R362, then the image region. A check that fails names no word in the manual. -/
def imageDone (id : Nat) (b : Blob) (n : Node) : Node :=
  let c := imageCheck n.fuses b
  if c ≠ 0 then
    let (x, n) := fresh (secReport c (imgVersion b) n)
    mgmtBadIn id (x % 2 ^ 32) n
  else flashStart false b id n

def opImageWrite : MgmtOp :=
  { mop 0x51 with flags := 1 }

def execImageWrite (qp : Nat) (d : Blob) (s : State) : Host.Outcome State Fault Refusal :=
  mgmtRun opImageWrite (chunked qp d imageDone) qp d s

/-- The header field of a calibration record that R371 refuses, as its offset. -/
def calBad (n : Node) (c : Blob) : Option Nat :=
  let o := fun (i : Nat) => (Config.calAt i).1 / 4 * 4
  firstBad [
    offIf (calField c 0 ≠ 1) (o 0),
    offIf (calField c 1 ≠ c.len || decide (1048576 < c.len)) (o 1),
    offIf (calField c 2 ≠ n.fuses.serial.toNat) (o 2),
    offIf (calField c 4 ≠ calCrc c) (o 4),
    offIf (!calMacsOk c) (o 5)]

/-- CAL_WRITE at FINAL (R371): the record is written with ORIGIN 1, its CRC taken again. -/
def calDone (id : Nat) (b : Blob) (n : Node) : Node :=
  match calBad n b with
  | some o => mgmtBadIn id o n
  | none =>
    let c := calPut 3 1 b
    flashStart true (calPut 4 (calCrc c) c) id n

def opCalWrite : MgmtOp :=
  { mop 0x53 with flags := 1 }

def execCalWrite (qp : Nat) (d : Blob) (s : State) : Host.Outcome State Fault Refusal :=
  mgmtRun opCalWrite (chunked qp d calDone) qp d s

/-! ### The composition (R272, R281, R283, R391) -/

/-- A council: its members are of the composition, each on a sled of its own; the word of the first id that is not. -/
def councilBad (n : Node) (l : List (BitVec 12 × Nat)) : Option Nat :=
  ((List.range l.length).find? (fun i =>
    let x := l.getD i (0, 0)
    decide (4095 < x.2) ||
    !(memberFind n.map x.2).any (fun m => m.state ≠ .failed && m.state ≠ .retired && m.state ≠ .absent) ||
    (l.take i).any (fun y => sledOf n.map y.1 = sledOf n.map x.1))).map (fun i => i / 2 * 4)

def opCouncilSet (d : Blob) : MgmtOp :=
  { mop 0x42 with map := true, limits := [(0x34, ! [2, 6, 10, 14].contains (mLen d))] }

def execCouncilSet (qp : Nat) (d : Blob) (s : State) : Host.Outcome State Fault Refusal :=
  mgmtRun (opCouncilSet d)
    (fun id p n =>
      let l := (List.range (p.len / 2)).map (fun i => (BitVec.ofNat 12 (bnum p (2 * i) 2), bnum p (2 * i) 2))
      match councilBad n l with
      | some o => mgmtBadIn id o n
      | none => mapWant id (.council (l.map (·.1)) (mArg16 d)) bempty n) qp d s

def opNodeRetire (d : Blob) : MgmtOp :=
  { mop 0x43 with map := true, limits := [(8, decide (4095 < mTarget d))] }

def execNodeRetire (qp : Nat) (d : Blob) (s : State) : Host.Outcome State Fault Refusal :=
  mgmtRun (opNodeRetire d)
    (fun id _ n => match memberFind n.map (mTarget d) with
      | none => mgmtBadAt id 8 n
      | some m => if m.state = .retired then mgmtOk id 0 bempty n
          else mapWant id (.memberState m.node .retired) bempty n) qp d s

def opCompositionReform : MgmtOp :=
  { mop 0x44 with map := true }

/-- COMPOSITION_REFORM; `idle` says that no request is in progress at any other node. -/
def execCompositionReform (qp : Nat) (d : Blob) (idle : Bool) (s : State) : Host.Outcome State Fault Refusal :=
  mgmtRun opCompositionReform
    (fun id _ n =>
      if n.map.epoch = 0xFFFFFFFE && idle && n.reqs.all (fun r => r.id = id) then mapWant id .reform bempty n
      else mgmtLater id n) qp d s

/-- MGMT_OP names no operation (R388). -/
def execMgmtInvalidOp (qp : Nat) (d : Blob) (s : State) : Host.Outcome State Fault Refusal :=
  run s (receive qp d (fun x t n => match mgmtBad x { mop (bnum d 6 2) with flags := 0xFFFF } d n with
    | some 0 => answerStatus t (bnum d 3 1) 0 1 0 n
    | _ => answerStatus t 4 0 1 4 n))

end Sys2Proof.Machine
end

