-- ==== Sys2Proof/Machine/MgmtObj.lean ====
section
/-!
DEFINITION. Sys2Proof/Machine/MgmtObj.lean: the MGMT operations on indexes (R57-R60, R162, R167), embedding tables (R197-R199,
R211, R212) and encoders (R183, R188).
-/
namespace Sys2Proof.Machine

/-! ### Handles and generations (R58) -/

/-- An index handle, a table handle, an encoder handle that this node or its map knows. -/
def isIndex (n : Node) (h : Nat) : Bool := n.gens.any (fun g => g.handle = h) || n.map.shards.any (fun r => r.key.handle = h)
def isTable (n : Node) (h : Nat) : Bool := n.tabs.any (fun t => t.handle = h) || n.map.tables.any (fun r => r.key.handle = h)
def isEncoder (n : Node) (h : Nat) : Bool := n.encoders.any (fun e => e.handle = h)

/-- INDEX_GEN, TABLE_GEN or ENCODER_GEN is the one that comes next. -/
def genDue (n : Node) (h g : Nat) : Bool :=
  match currentGen n.map h with
  | none => g = 0
  | some c => g = nextGen c

/-- A generation of that number under the handle is not freed yet. -/
def genHeld (n : Node) (h g : Nat) : Bool :=
  n.gens.any (fun x => x.handle = h && x.gen = g) || n.tabs.any (fun x => x.handle = h && x.gen = g) ||
  n.encoders.any (fun x => x.handle = h && x.gen = g)

/-- RETRY_LATER with the time in µs until the deadline of the last request bound to the generation. -/
def genLater (id h g : Nat) (n : Node) : Node :=
  let ends := (n.reqs.filter (fun r => (r.handle = h && r.gen = g) || (r.tabHandle = h && r.tabGen = g) ||
    (r.op = 1 && bword r.d 0x34 = h && r.auxGen = g))).map (fun r => (r.deadline - n.tick + 99) / 100)
  if ends.isEmpty then mgmtLater id n else mgmtAnswer id 5 (Nat.min (nmaxl ends) 0xFFFFFFFF) 0 0 false bempty n

/-! ### Placing roles (R169, R280) -/

/-- Places given out so far in a creation: node and slice. -/
abbrev Given := List Place

/-- Roles that a node holds in a map. -/
def roleCount (m : CMap) (id : BitVec 12) : Nat := (m.shards.filter (fun r => (shardHolders r).contains id)).length

/-- A member that can take a role: in service, of a level, with a slice given in this creation or free. -/
def canHold (n : Node) (level more : Nat) (given : Given) (x : Member) : Bool :=
  (x.state = .active || x.state = .spare) && decide (level ≤ x.compat) && decide (roleCount n.map x.node + more < 256) &&
  (given.any (fun p => p.node = x.node) || (freeSlice n.map x.node).isSome)

/-- The place of a role on a node: one slice of it serves the whole creation. -/
def placeGive (n : Node) (id : BitVec 12) (given : Given) : Place × Given :=
  match given.find? (fun p => p.node = id) with
  | some p => (p, given)
  | none => let p : Place := { node := id, slice := (freeSlice n.map id).getD 0 }; (p, given ++ [p])

/-- One of the members that can take a role beside the holders `others`; `apart`: on a sled of its own. Which one is the node's
choice. -/
def placePick (n0 : Node) (level more : Nat) (others : List (BitVec 12)) (apart : Bool) (given : Given) (n : Node) :
    Option (Place × Given) × Node :=
  let ms := n0.map.members.filter (fun x => canHold n0 level more given x && !others.contains x.node &&
    (!apart || others.all (fun o => sledOf n0.map o ≠ some x.sled)))
  match ms with
  | [] => (none, n)
  | m :: l =>
    let (x, n) := pick m (m :: l) n
    (some (placeGive n0 x.node given), n)

/-- Further replicas of a shard. -/
def placeReps (n0 : Node) (level more : Nat) : Nat → List Place → Given → Node → Option (List Place × Given) × Node
  | 0, ps, given, n => (some (ps, given), n)
  | k + 1, ps, given, n =>
    match placePick n0 level more (ps.map (·.node)) false given n with
    | (some (p, given), n) => placeReps n0 level more k (ps ++ [p]) given n
    | (none, n) => (none, n)

/-- The roles of a shard: primary, partner on another sled, further replicas. With REPLICAS 1 a partner that cannot be placed stays
unfilled. -/
def placeShard (n0 : Node) (level reps : Nat) (key : ShardKey) (more : Nat) (given : Given) (n : Node) :
    Option (ShardRole × Given) × Node :=
  match placePick n0 level more [] false given n with
  | (none, n) => (none, n)
  | (some (p, given), n) =>
    let role := fun (q : Option Place) (l : List Place) => ({
      key := key, floor := 3, primary := some p, partner := q, replicas := l, incoming := none, committed := 0 } : ShardRole)
    match placePick n0 level more [p.node] true given n with
    | (none, n) => (if reps < 2 then some (role none [], given) else none, n)
    | (some (q, given), n) =>
      match placeReps n0 level more (reps - 2) [p, q] given n with
      | (none, n) => (none, n)
      | (some (l, given), n) => (some (role (some q) (l.drop 2), given), n)

/-- The roles of every shard of a generation. -/
def placeShards (n0 : Node) (level reps handle gen : Nat) : Nat → List ShardRole → Given → Node →
    Option (List ShardRole × Given) × Node
  | 0, rs, given, n => (some (rs, given), n)
  | k + 1, rs, given, n =>
    match placeShard n0 level reps { handle := handle, gen := gen, shard := rs.length } rs.length given n with
    | (none, n) => (none, n)
    | (some (r, given), n) => placeShards n0 level reps handle gen k (rs ++ [r]) given n

/-- Home and partner, on different sleds, of every shard of a table. -/
def placeTables (n0 : Node) (handle gen : Nat) : Nat → List TableRole → Given → Node → Option (List TableRole × Given) × Node
  | 0, rs, given, n => (some (rs, given), n)
  | k + 1, rs, given, n =>
    match placePick n0 1 0 [] false given n with
    | (none, n) => (none, n)
    | (some (p, given), n) =>
      match placePick n0 1 0 [p.node] true given n with
      | (none, n) => (none, n)
      | (some (q, given), n) => placeTables n0 handle gen k
          (rs ++ [{ key := { handle := handle, gen := gen, shard := rs.length }, home := some p, partner := some q }]) given n

/-- Slice records of a creation: contexts and lanes are the node's choice, the pages those that the generation reserves there. -/
def sliceRecs (given : Given) (pages : BitVec 12 → Nat × Nat × Nat) (n : Node) : List SliceRec × Node :=
  given.foldl (fun (acc : List SliceRec × Node) p =>
    let (c, n) := fresh acc.2
    let (l, n) := fresh n
    (acc.1 ++ [{ node := p.node, slice := p.slice, contexts := c % 36865, stack := (pages p.node).1, dimm := (pages p.node).2.1,
                 flash := (pages p.node).2.2, lanes := l % 129 }], n)) ([], n)

/-- Whether the other holders can provide what a creation reserves there is for them to say (R59; log 4). -/
def othersProvide (given : Given) (n : Node) : Bool × Node :=
  if given.all (fun p => p.node = n.nodeId) then (true, n)
  else
    let (x, n) := fresh n
    (x % 2 = 0, n)

/-! ### INDEX_CREATE (R57-R60) -/

/-- The lowest compat level that supports a descriptor (R279). -/
def descLevel (g : IdxGen) : Nat :=
  if gColdOk g then 3 else if 2048 < gDim g || ! [16, 32, 64].contains (gM g) || gFullFmt g = 3 then 2 else 1

/-- The first word of an index generation descriptor that breaks its limits. -/
def idxBad (n : Node) (p : Blob) : Option Nat :=
  let g : IdxGen := { handle := bword p 0, gen := bnum p 6 2, desc := bslice p 0 64, codebook := none, owner := 0 }
  let w := bword p
  let cl := w 0x1C
  let co := w 0x20
  let nodes := (n.map.members.filter (fun x => x.state ≠ .failed && x.state ≠ .retired)).length
  firstBad [
    offIf (g.handle = 0 || isTable n g.handle || isEncoder n g.handle) 0x00,
    offIf (!genDue n g.handle g.gen || decide (2 < gMetric g) || decide (3 < gFullFmt g)) 0x04,
    offIf (gDim g < 8 || 4096 < gDim g || ! [16, 32, 48, 64, 96, 128].contains (gM g) || gDegree g = 0 || 48 < gDegree g) 0x08,
    offIf (gShards g = 0 || gReplicas g = 0 || 4 < gReplicas g || nodes < gReplicas g || nbits (w 0xC) 7 4 ≠ 0) 0x0C,
    offIf (gDefEf g < 16 || 1024 < gDefEf g || gDefDeadline g = 0 || 10000 < gDefDeadline g) 0x10,
    offIf (gDeltaCap g < 4096 || 67108864 < gDeltaCap g) 0x14,
    offIf (w 0x18 = 0 || 16383 < w 0x18) 0x18,
    offIf (cl ≠ 0 && cl ≠ gM g * 64 * gWidth g) 0x1C,
    offIf (if cl = 0 then co ≠ 0 else co < 64 || co % 8 ≠ 0 || p.len < co + cl) 0x20,
    offIf (nbits (w 0x24) 31 2 ≠ 0) 0x24,
    [0x28, 0x2C, 0x30, 0x34, 0x38, 0x3C].find? (fun o => w o ≠ 0),
    if cl = 0 then none else (bookBad (bslice p co cl) (gDim g) (gM g) (gWidth g)).map (fun o => co + o)]

/-- Shards of a creation whose objects a node holds. -/
def objectsAt (reps : Nat) (rs : List ShardRole) (id : BitVec 12) : Nat :=
  (rs.filter (fun r => r.primary.any (fun p => p.node = id) || (2 ≤ reps && r.partner.any (fun p => p.node = id)) ||
    r.replicas.any (fun p => p.node = id))).length

def indexCreate (id owner : Nat) (p : Blob) (n : Node) : Node :=
  match idxBad n p with
  | some o => mgmtBadIn id o n
  | none =>
    let cl := bword p 0x1C
    let g : IdxGen := {
      handle := bword p 0, gen := bnum p 6 2, desc := bslice p 0 64,
      codebook := if cl = 0 then none else some (bslice p (bword p 0x20) cl), owner := owner }
    if genHeld n g.handle g.gen then genLater id g.handle g.gen n
    else
      match placeShards n (descLevel g) (gReplicas g) g.handle g.gen (gShards g) [] [] n with
      | (none, n) => mgmtDenied id n
      | (some (rs, given), n) =>
        let pg := shardPages g
        let at_ := fun (x : BitVec 12) => let k := objectsAt (gReplicas g) rs x; (k * pg.1, k * pg.2.1, k * pg.2.2)
        let own := at_ n.nodeId
        let (ok, n) := othersProvide given n
        if !ok || (reserve owner own.1 own.2.1 own.2.2 n).isNone then mgmtDenied id n
        else
          let (sl, n) := sliceRecs given at_ n
          let floor := (given.map (fun x => match memberFind n.map x.node.toNat with | some m => m.compat | none => 3)).foldl Nat.min 3
          let rs := rs.map (fun r => { r with floor := floor })
          mapWant id (.create { handle := g.handle, gen := g.gen } rs [] sl) bempty { n with gens := n.gens ++ [g] }

def opIndexCreate (n : Node) (d : Blob) : MgmtOp :=
  { mop 1 with
    map := true, handle := bword (mPayload n d) 0, limits := [tidBad d, (0x34, decide (mLen d < 64))] }

def execIndexCreate (qp : Nat) (d : Blob) (s : State) : Host.Outcome State Fault Refusal :=
  mgmtRun (opIndexCreate s.node d)
    (fun id p n => indexCreate id (mTarget d) p n) qp d s

/-! ### Codebooks (R36, R60, R190) -/

/-- The index generation that TARGET and TARGET_GEN name, or the header word that names none. -/
def idxTarget (n : Node) (d : Blob) : Nat ⊕ IdxGen :=
  match genFind n (mTarget d) (mGen d) with
  | some g => .inr g
  | none => .inl (if isIndex n (mTarget d) then 0xC else 8)

/-- A codebook enters service at one epoch. -/
def bookWant (id h g : Nat) (b : Blob) (n : Node) : Node := mapWant id (.codebook h g) b n

def codebookLoad (id : Nat) (d p : Blob) (n : Node) : Node :=
  match idxTarget n d with
  | .inl o => mgmtBadAt id o n
  | .inr g =>
    if g.codebook.isSome then mgmtBadAt id 0xC n
    else if p.len ≠ gM g * 64 * gWidth g then mgmtBadAt id 0x34 n
    else match bookBad p (gDim g) (gM g) (gWidth g) with
      | some o => mgmtBadIn id o n
      | none => bookWant id g.handle g.gen p n

def opCodebookLoad (d : Blob) : MgmtOp :=
  { mop 2 with map := true, handle := mTarget d }

def execCodebookLoad (qp : Nat) (d : Blob) (s : State) : Host.Outcome State Fault Refusal :=
  mgmtRun (opCodebookLoad d) (fun id p n => codebookLoad id d p n) qp d s

/-- Items of the shards of a generation that this node holds: the first and the last tier page of the stored record, and the record. -/
def ownItems (n : Node) (h g : Nat) : List ((Nat × Nat) × List F32) :=
  match genFind n h g with
  | none => []
  | some gen =>
    (n.shards.filter (fun s => s.key.handle = h && s.key.gen = g && decide (s.role < 3))).flatMap (fun s =>
      (s.full.filter (fun e => idmapDel (sget 0 s.idmap e.1) = 0 && s.idmap.any (fun i => i.1 = e.1))).map
        (fun e =>
          let a := fullAddr gen s e.1
          ((tpage a, tpage (a + fullSize (gFullFmt gen) (gDim gen) - 1)), fullValues (gFullFmt gen) (gDim gen) e.2)))

/-- N samples of the items, any of them. -/
def sampleItems (l : List ((Nat × Nat) × List F32)) : Nat → Node → List ((Nat × Nat) × List F32) × Node
  | 0, n => ([], n)
  | k + 1, n =>
    let (x, n) := pick ((0, 0), []) l n
    let (r, n) := sampleItems l k n
    (x :: r, n)

/-- Pages among those of the sampled records that can be homed in memory: the training run needs them there (R192). -/
def samplePages (n : Node) (l : List ((Nat × Nat) × List F32)) : List Nat :=
  ((l.flatMap (fun x => [x.1.1, x.1.2])).foldl (fun acc p => ninsert p acc) []).filter (fun p =>
    match ptGet n p with | some e => !(promoTiers e).isEmpty | none => false)

def trainStart (id : Nat) (g : IdxGen) (d : Blob) (vs : List (List F32)) (pages : List Nat) (n : Node) : Node :=
  let (p, n) := progStart (trainProg g.handle g.gen (gM g) (gWidth g) (mArg16 d) (gDim g) id (vs.map (storedVec g)) pages) n
  reqMod id (fun r => { r with prog := some p }) n

/-- CODEBOOK_TRAIN: samples from the payload, or of the generation before from the shards that this node holds; with none of them
here the request is to be made again. -/
def codebookTrain (id : Nat) (d p : Blob) (n : Node) : Node :=
  match idxTarget n d with
  | .inl o => mgmtBadAt id o n
  | .inr g =>
    let k := mArg32 d
    if g.codebook.isSome then mgmtBadAt id 0xC n
    else if !mFinal d then
      (if p.len ≠ k * gDim g * 4 then mgmtBadAt id 0x34 n
      else match elemsBad p 0 0 0 (k * gDim g) with
        | some i => mgmtBadIn id (4 * i) n
        | none => trainStart id g d ((List.range k).map (fun i => elemsGet p (4 * gDim g * i) 0 0 (gDim g))) [] n)
    else
      let old := (mGen d + 65535) % 65536
      match genFind n g.handle old with
      | none => mgmtBadAt id 0xC n
      | some o =>
        let l := ownItems n g.handle old
        if gDim o ≠ gDim g then mgmtBadAt id 0xC n
        else if l.isEmpty then mgmtLater id n
        else
          let (vs, n) := sampleItems l k n
          trainStart id g d (vs.map (·.2)) (samplePages n vs) n

def opCodebookTrain (d : Blob) : MgmtOp :=
  { mop 3 with
    flags := 1, map := true, handle := mTarget d,
    limits := [(0xC, mArg16 d = 0 || decide (100 < mArg16 d)), (0x3C, decide (mArg32 d < 256) || decide (16777216 < mArg32 d))] }

def execCodebookTrain (qp : Nat) (d : Blob) (s : State) : Host.Outcome State Fault Refusal :=
  mgmtRun (opCodebookTrain d)
    (fun id p n => codebookTrain id d p n) qp d s

/-! ### DEDUP_SET, SHARD_READ, OBJECT_FREE -/

def opDedupSet (d : Blob) : MgmtOp :=
  { mop 4 with handle := mTarget d, limits := [(0x3C, mArg32 d = 0 || decide (600 < mArg32 d))] }

def execDedupSet (qp : Nat) (d : Blob) (s : State) : Host.Outcome State Fault Refusal :=
  mgmtRun (opDedupSet d)
    (fun id _ n =>
      if isIndex n (mTarget d) then mgmtOk id 0 bempty { n with idxDedup := sset 30 n.idxDedup (mTarget d) (mArg32 d) }
      else mgmtBadAt id 8 n) qp d s

/-- The 128-byte shard descriptor (R61). -/
def shardDesc (n : Node) (s : Shard) : Blob :=
  let log := match genFind n s.key.handle s.key.gen with | some g => keyLog2 (gItems g) | none => 0
  bconcat ([bofNat 4 s.key.handle, bofNat 4 (s.key.gen % 65536 * 65536 + s.key.shard % 65536),
    bofNat 4 (s.state * 2 ^ 28 + s.role * 2 ^ 24 + s.entryLvl * 2 ^ 16), bofNat 4 0, bofNat 8 s.committed, bofNat 8 s.entryId,
    bofNat 8 (liveCount s), bofNat 4 (deltaCount s), bofNat 4 (repairIds s).length, bofNat 8 s.idHigh] ++
    (List.range 8).map (fun i => bofNat 8 (baseOf s i)) ++ [bofNat 4 log, bofNat 4 0])

/-- The shard progress record (R167). The age of an entry that came with a restart is measured and left open. -/
def shardProgress (s : Shard) (n : Node) : Blob × Node :=
  let (lag, n) := match oldestUnfolded n s with
    | none => (0, n)
    | some (_, e) => match s.ages.find? (fun a => a.1 = e.msn) with
      | some a => ((n.tick - a.2) / 100, n)
      | none => fresh n
  (bconcat [bofNat 8 s.folded, bofNat 8 s.level0, bofNat 8 s.repaired, bofNat 8 (unfoldedEnts n s).length, bofNat 8 lag], n)

/-- MISROUTE with this node's epoch. -/
def mgmtMisroute (id : Nat) (n : Node) : Node := mgmtAnswer id 4 n.map.epoch 0 0 false bempty n

def shardRead (id : Nat) (d : Blob) (n : Node) : Node :=
  let key : ShardKey := { handle := mTarget d, gen := mGen d, shard := mArg16 d }
  if !isIndex n key.handle then mgmtBadAt id 8 n
  else
    let known := match genFind n key.handle key.gen with
      | some g => decide (key.shard < gShards g)
      | none => (shardRole n.map key).isSome
    if !known then mgmtBadAt id 0xC n
    else match (shardFind n key).filter (fun s => s.role < 3) with
      | none => mgmtMisroute id n
      | some s =>
        let (b, n) := shardProgress s n
        mgmtOk id 0 (bappend (shardDesc n s) b) n

def opShardRead (d : Blob) : MgmtOp :=
  { mop 5 with ret := 168, handle := mTarget d }

def execShardRead (qp : Nat) (d : Blob) (s : State) : Host.Outcome State Fault Refusal :=
  mgmtRun (opShardRead d) (fun id _ n => shardRead id d n) qp d s

def opObjectFree (d : Blob) : MgmtOp :=
  { mop 6 with map := true, handle := mTarget d }

/-- OBJECT_FREE: every generation of the handle leaves the map at one epoch. -/
def execObjectFree (qp : Nat) (d : Blob) (s : State) : Host.Outcome State Fault Refusal :=
  mgmtRun (opObjectFree d)
    (fun id _ n =>
      if (currentGen n.map (mTarget d)).isSome then mapWant id (.free (mTarget d)) bempty n else mgmtBadAt id 8 n) qp d s

/-! ### Embedding tables (R197-R199, R211, R212) -/

/-- The first word of a table descriptor that breaks its limits (R197). -/
def tabBad (n : Node) (p : Blob) : Option Nat :=
  let w := bword p
  let h := w 0
  firstBad [
    offIf (h = 0 || isIndex n h || isEncoder n h) 0x00,
    offIf (!genDue n h (bnum p 6 2) || decide (3 < bnum p 5 1) || decide (1 < bnum p 4 1)) 0x04,
    offIf (bnum p 8 8 = 0 || decide (2 ^ 40 < bnum p 8 8)) 0x08,
    offIf (nbits (w 0x10) 31 16 < 8 || 4096 < nbits (w 0x10) 31 16 || nbits (w 0x10) 15 0 = 0) 0x10,
    offIf (200 < nbits (w 0x14) 31 24 || nbits (w 0x14) 23 16 ≠ 0 || nbits (w 0x14) 15 0 < 10 || 10000 < nbits (w 0x14) 15 0) 0x14,
    offIf (16777216 < w 0x18) 0x18,
    [0x1C, 0x20, 0x24, 0x28, 0x2C, 0x30, 0x34, 0x38, 0x3C].find? (fun o => w o ≠ 0)]

/-- TABLE_CREATE: rows at their default homes, and MIGRATE_SLOTS rows here as at every member (R198). -/
def tableCreate (id owner : Nat) (p : Blob) (n : Node) : Node :=
  match tabBad n p with
  | some o => mgmtBadIn id o n
  | none =>
    let t := tabNew p owner n.tick
    if genHeld n t.handle t.gen then genLater id t.handle t.gen n
    else
      match placeTables n t.handle t.gen (tShards t) [] [] n with
      | (none, n) => mgmtDenied id n
      | (some (rs, given), n) =>
        let at_ := fun (x : BitVec 12) => if tDimm t then (0, tabPages t rs x, 0) else (tabPages t rs x, 0, 0)
        let own := at_ n.nodeId
        let (ok, n) := othersProvide given n
        match (if ok then reserve owner own.1 own.2.1 own.2.2 n else none) with
        | none => mgmtDenied id n
        | some n =>
          let (sl, n) := sliceRecs given at_ (tabRange { t with reserved := tabPages t rs n.nodeId } n)
          mapWant id (.create { handle := t.handle, gen := t.gen } [] rs sl) bempty n

def opTableCreate (n : Node) (d : Blob) : MgmtOp :=
  { mop 0x10 with
    map := true, handle := bword (mPayload n d) 0, limits := [tidBad d, (0x34, decide (mLen d ≠ 64))] }

def execTableCreate (qp : Nat) (d : Blob) (s : State) : Host.Outcome State Fault Refusal :=
  mgmtRun (opTableCreate s.node d)
    (fun id p n => tableCreate id (mTarget d) p n) qp d s

/-- The table generation that TARGET and TARGET_GEN name and that is not current, or the header word that names none. -/
def tabTarget (n : Node) (d : Blob) : Nat ⊕ TabSt :=
  if !isTable n (mTarget d) then .inl 8
  else match (tabFind n (mTarget d) (mGen d)).filter (fun _ => decide (currentGen n.map (mTarget d) ≠ some (mGen d))) with
    | some t => .inr t
    | none => .inl 0xC

/-- TABLE_FILL: the row update records go to their homes as WRITE. -/
def tableFill (id : Nat) (d p : Blob) (n : Node) : Node :=
  match tabTarget n d with
  | .inl o => mgmtBadAt id o n
  | .inr t =>
    let size := 8 + 4 * tWidth t
    let count := p.len / size
    if p.len % size ≠ 0 then mgmtBadAt id 0x34 n
    else
      let bad := (List.range count).findSome? (fun i =>
        let o := size * i
        if tRows t ≤ bnum p o 8 then some o
        else ((List.range (tWidth t)).find? (fun j => !f32Finite (w32 (bword p (o + 8 + 4 * j))))).map (fun j => o + 8 + 4 * j))
      match bad with
      | some o => mgmtBadIn id o n
      | none => updatesSend id 1 t.handle t.gen 0 count p (reqMod id (fun r => { r with tabHandle := t.handle, tabGen := t.gen }) n)

def opTableFill (d : Blob) : MgmtOp :=
  { mop 0x11 with handle := mTarget d }

def execTableFill (qp : Nat) (d : Blob) (s : State) : Host.Outcome State Fault Refusal :=
  mgmtRun (opTableFill d) (fun id p n => tableFill id d p n) qp d s

def opTableActivate (d : Blob) : MgmtOp :=
  { mop 0x12 with map := true, handle := mTarget d }

/-- TABLE_ACTIVATE: the next generation becomes current at one epoch (R212). -/
def execTableActivate (qp : Nat) (d : Blob) (s : State) : Host.Outcome State Fault Refusal :=
  mgmtRun (opTableActivate d)
    (fun id _ n => match tabTarget n d with
      | .inl o => mgmtBadAt id o n
      | .inr t =>
        if genDue n t.handle t.gen then mapWant id (.makeCurrent { handle := t.handle, gen := t.gen }) bempty n
        else mgmtBadAt id 0xC n) qp d s

/-- The load record of a table shard (R211). -/
def loadRecord (t : TabSt) (s : Nat) : Blob :=
  let reds := (t.redirect.filter (fun e => tShardOf t e.1 = s)).length
  bconcat ([sget 0 t.lastReads s, sget 0 t.lastUpd s, sget 0 t.outN s, sget 0 t.inN s, reds, sget 0 t.fwdN s].map (bofNat 8))

/-- This node is the default home of a table shard or homes a row of it. -/
def homesShard (n : Node) (t : TabSt) (s : Nat) : Bool :=
  (tRole n t s).any (fun r => r.home.any (fun p => p.node = n.nodeId)) || t.here.any (fun r => tShardOf t r = s)

def tableLoadRead (id : Nat) (d : Blob) (n : Node) : Node :=
  if !isTable n (mTarget d) then mgmtBadAt id 8 n
  else match tabFind n (mTarget d) (mGen d) with
    | none => mgmtBadAt id 0xC n
    | some t =>
      if tShards t ≤ mArg16 d then mgmtBadAt id 0xC n
      else if homesShard n t (mArg16 d) then mgmtOk id 0 (loadRecord t (mArg16 d)) n
      else mgmtMisroute id n

def opTableLoadRead (d : Blob) : MgmtOp :=
  { mop 0x13 with ret := 48, handle := mTarget d }

def execTableLoadRead (qp : Nat) (d : Blob) (s : State) : Host.Outcome State Fault Refusal :=
  mgmtRun (opTableLoadRead d) (fun id _ n => tableLoadRead id d n) qp d s

/-! ### Encoders (R183, R188, R192) -/

/-- A list's BOUND_TABLE: none, or a current table of width INPUT_DIM. -/
def boundOk (n : Node) (b : Blob) : Bool :=
  let h := bword b 0x30
  h = 0 || (currentTab n h).any (fun t => tWidth t = olInDim b)

/-- ENCODER_LOAD at FINAL: the checks, the pinned reservation, and the map change. Whether the pinned tensors stand in stack or
DIMM is the node's choice. -/
def encoderDone (owner id : Nat) (b : Blob) (n : Node) : Node :=
  let h := bword b 8
  let g := bnum b 14 2
  let genOk := genDue n h g && !isIndex n h && !isTable n h
  match olBad b genOk (boundOk n b) with
  | some o => mgmtBadIn id o n
  | none =>
    if handleBusy n id h then mgmtLater id n
    else if genHeld n h g then genLater id h g n
    else
      let pages := pagesFor (bnum b 0x28 8)
      let (x, n) := fresh n
      let tier := 1 + x % 2
      match reserve owner (if tier = 1 then pages else 0) (if tier = 1 then 0 else pages) 0 n with
      | none => mgmtDenied id n
      | some n =>
        let n : Node := reqMod id (fun r => { r with handle := h }) (encoderPin h g owner b tier n)
        mapWant id (.makeCurrent { handle := h, gen := g }) bempty n

def opEncoderLoad (d : Blob) : MgmtOp :=
  { mop 0x20 with flags := 1, map := mFinal d, limits := [tidBad d] }

def execEncoderLoad (qp : Nat) (d : Blob) (s : State) : Host.Outcome State Fault Refusal :=
  mgmtRun (opEncoderLoad d) (chunked qp d (encoderDone (mTarget d))) qp d s

end Sys2Proof.Machine
end

