-- ==== Sys2Proof/Machine/Requests.lean ====
section
/-!
DEFINITION. Sys2Proof/Machine/Requests.lean: QUERY and MUTATE at the admitting node (R11-R25, R138-R140, R151-R153, R165, R189),
fan-out and partials, sub-requests at the shard holder (R20-R22), re-routing (R21), the end of a tensor program (R187, R189),
and applying a committed map with the messages that waited for it (R272, R273).
-/
namespace Sys2Proof.Machine

/-! ### The QUERY descriptor (R14-R16, R138-R140, R165, R189, R280) -/

/-- The level floor of a generation (R280). -/
def levelFloor (n : Node) (h g : Nat) : Nat :=
  (n.map.shards.filter (fun r => r.key.handle = h && r.key.gen = g)).foldl (fun a r => Nat.min a r.floor) 3

def currentIdx (n : Node) (h : Nat) : Option IdxGen := (currentGen n.map h).bind (genFind n h)

def currentEnc (n : Node) (h : Nat) : Option Encoder :=
  (currentGen n.map h).bind (fun g => n.encoders.find? (fun e => e.handle = h && e.gen = g))

def qKind (d : Blob) : Nat := nbits (bword d 0) 19 16
def qEf (d : Blob) : Nat := bnum d 4 2
def qRerank (d : Blob) : Nat := nbits (bword d 0xC) 31 22
def qWiden (d : Blob) : Nat := nbits (bword d 0xC) 21 20
def qFilterOff (d : Blob) : Nat := bnum d 0x2A 2
def qFilterLen (d : Blob) : Nat := bnum d 0x28 2
def qPayOff (d : Blob) : Nat := bnum d 0x2E 2
def qCount (d : Blob) : Nat := bnum d 0x2C 2
def qFmt (d : Blob) : Nat := bnum d 0x33 1
def qPool (d : Blob) : Nat := bnum d 0x32 1
def qAux (d : Blob) : Nat := bword d 0x34
def qScale (d : Blob) : F32 := w32 (bword d 0x38)
def qTokOff (d : Blob) : Nat := bnum d 0x3E 2
def qTokens (d : Blob) : Nat := bnum d 0x3D 1

/-- Bytes of one payload element. -/
def qElem (d : Blob) : Nat := if qKind d = 0 then vecBytes (qFmt d) else if qKind d = 2 then 4 else 8

/-- The table whose rows a QUERY names: AUX_HANDLE, or the encoder's BOUND_TABLE (R16). -/
def qTable (n : Node) (d : Blob) : Option TabSt :=
  if qKind d = 1 then currentTab n (qAux d)
  else (currentEnc n (qAux d)).bind (fun e => if bword e.list 0x30 = 0 then none else currentTab n (bword e.list 0x30))

/-- The parts of a descriptor that are there (R424): offset, length, and the word of the offset field. -/
def qParts (d : Blob) : List (Nat × Nat × Nat) :=
  [(qFilterOff d, qFilterLen d, 0x28), (qPayOff d, qElem d * qCount d, 0x2C), (qTokOff d, 16 * qTokens d, 0x3C)].filter
    (fun p => p.2.1 ≠ 0)

/-- R15: some part breaks the layout at this word. -/
def partBad (d : Blob) (w : Nat) : Bool :=
  let ps := qParts d
  let len := nbits (bword d 0) 8 0 * 64
  ps.any (fun a => a.2.2 = w && (decide (len < a.1 + a.2.1) || decide (a.1 < 64) || a.1 % 8 ≠ 0 ||
    ps.any (fun b => b.2.2 ≠ w && decide (a.1 < b.1 + b.2.1) && decide (b.1 < a.1 + a.2.1) &&
      (decide (b.1 < a.1) || (a.1 = b.1 && decide (b.2.2 < w))))))

/-- The first word of a QUERY header that breaks its limits. -/
def queryHeaderBad (x : Qp) (d : Blob) (n : Node) : Option Nat :=
  let w0 := bword d 0
  let len := nbits w0 8 0
  let k := echoK d
  let kind := qKind d
  let idx := currentIdx n (bword d 8)
  let enc := currentEnc n (qAux d)
  let level := match idx with | some g => levelFloor n g.handle g.gen | none => 3
  let low := decide (level < 2)
  let dim := match idx with | some g => gDim g | none => 0
  firstBad [
    offIf (nbits w0 31 24 ≠ 1 || nbits w0 23 20 ≠ 1 || 3 < kind || nbits w0 15 9 ≠ 0 || len = 0 || 2 ^ x.cfg.slotLog2 < len * 64) 0,
    offIf (4096 < k || (low && 1024 < k) || (qEf d ≠ 0 && (qEf d < 16 || 1024 < qEf d || (low && 256 < qEf d)))) 4,
    offIf idx.isNone 8,
    offIf (512 < qRerank d || (low && 256 < qRerank d) || (qRerank d ≠ 0 && qRerank d < k) || (low && qWiden d ≠ 0) ||
      nbits (bword d 0xC) 19 15 ≠ 0 || 10000 < nbits (bword d 0xC) 14 0) 0xC,
    offIf (bnum d 0x18 8 % 16 ≠ 0) 0x18,
    offIf (bword d 0x24 < 64 + 16 * k) 0x24,
    offIf (512 < qFilterLen d || qFilterLen d % 16 ≠ 0 || partBad d 0x28) 0x28,
    offIf ((match kind with
      | 0 => qCount d ≠ dim
      | 2 => qCount d = 0 || 2048 < qCount d
      | _ => 1024 < qCount d || (qCount d = 0 && qPool d = 1)) || partBad d 0x2C) 0x2C,
    offIf ((if kind = 0 then 3 < qFmt d else qFmt d ≠ 0) ||
      (if kind = 1 || kind = 3 then 1 < qPool d else qPool d ≠ 0) || nbits (bword d 0x30) 15 1 ≠ 0) 0x30,
    offIf (match kind with
      | 0 => qAux d ≠ 0
      | 1 => !(qTable n d).any (fun t => tWidth t = dim)
      | 2 => !enc.any (fun e => olKind e.list = 0 && olOutDim e.list = dim)
      | _ => !enc.any (fun e => olKind e.list = 1 && olOutDim e.list = dim && (qTable n d).any (fun t => tWidth t = olInDim e.list))) 0x34,
    offIf (!f32Finite (qScale d) || (if qFmt d = 3 then f32Neg (qScale d) || f32Zero (qScale d) else !f32Zero (qScale d))) 0x38,
    offIf (64 < qTokens d || (low && qTokens d ≠ 0) || nbits (bword d 0x3C) 7 0 ≠ 0 || partBad d 0x3C) 0x3C]

/-- The filter's terms. -/
def qFilter (d : Blob) : List (BitVec 128) :=
  (List.range (qFilterLen d / 16)).map (fun i => BitVec.ofNat 128 (bnum d (qFilterOff d + 16 * i) 16))

/-- The word within a filter term that breaks a limit of its own (R139, R140). -/
def termBad (types : Nat) (t : BitVec 128) : Option Nat :=
  let field := decide (termOp t = 3) || decide (termOp t = 4)
  firstBad [
    offIf (4 < termOp t || nbits t.toNat 26 2 ≠ 0 || (!field && termField t ≠ 0)) 0,
    offIf (nbits t.toNat 63 32 ≠ 0) 4,
    offIf (if termOp t = 3 then decide (fieldVal types (termField t) (termHi t) < fieldVal types (termField t) (termLo t))
      else termOp t = 4 && termHi t ≠ 0) 8,
    offIf (field && nbits t.toNat 127 96 ≠ 0) 12]

/-- The filter's terms with their place, the clause each stands in, and its place there. -/
def clausesOf : List (BitVec 128) → Nat → Nat → List (BitVec 128 × Nat × Nat)
  | [], _, _ => []
  | t :: ts, c, i => (t, c, i) :: (if termEnd t then clausesOf ts (c + 1) 0 else clausesOf ts c (i + 1))

/-- R140: the first word of the filter that fails. At level 1 a filter holds at most 4 clauses (R279). -/
def filterBad (types : Nat) (low : Bool) (d : Blob) : Option Nat :=
  let ts := clausesOf (qFilter d) 0 0
  firstBad (ts.mapIdx (fun i t =>
    let o := qFilterOff d + 16 * i
    if (if low then 4 else 8) ≤ t.2.1 || 4 ≤ t.2.2 || (i + 1 = ts.length && !termEnd t.1) then some o
    else (termBad types t.1).map (fun w => o + w)))

/-- The token ids that an encoder's first GATHER on tensor 0 can read: DIM0 of its table (R189). -/
def tokenLimit (e : Encoder) : Option Nat :=
  ((olOpList e.list).find? (fun o => o.code = 8 && o.in0 = 0)).map (fun o => (descAt e.list o.in1).dims.getD 0 1)

/-- The first word of the payload, the filter or the token list that fails at step 2 of R12; of the token ids beyond SEQ_LIMIT the first
one fails (R189; log 124). -/
def queryItemsBad (g : IdxGen) (d : Blob) (n : Node) : Option Nat :=
  let off := qPayOff d
  let count := qCount d
  let payload := match qKind d with
    | 0 => if qFmt d = 3 then none else (elemsBad d off (qFmt d) (qScale d) count).map (elemWord off (qFmt d))
    | 2 => (currentEnc n (qAux d)).bind (fun e =>
        ((List.range count).find? (fun i =>
          decide (olSeq e.list ≤ i) || (tokenLimit e).any (fun m => decide (m ≤ bword d (off + 4 * i))))).map (fun i => off + 4 * i))
    | _ => (qTable n d).bind (fun t =>
        ((List.range count).find? (fun i => decide (tRows t ≤ bnum d (off + 8 * i) 8))).map (fun i => off + 8 * i))
  let filter := filterBad (gFieldTypes g) (decide (levelFloor n g.handle g.gen < 2)) d
  let token := ((List.range (qTokens d)).find? (fun i =>
    decide (gShards g ≤ bnum d (qTokOff d + 16 * i + 10) 2) || bword d (qTokOff d + 16 * i + 12) ≠ 0)).map (fun i => qTokOff d + 16 * i)
  match [payload, filter, token].filterMap id with
  | [] => none
  | o :: os => some (os.foldl Nat.min o)

/-- Checks 2 to 4 of R12 on a QUERY, its binding (R17), and the start of its vector (R16, R189, R213). -/
def queryIn (d : Blob) (x : Qp) (t : RespTo) (n : Node) : Node :=
  let k := echoK d
  let bad := match queryHeaderBad x d n, currentIdx n (bword d 8) with
    | some o, _ => some o
    | none, some g => queryItemsBad g d n
    | none, none => some 8
  match bad, currentIdx n (bword d 8) with
  | some o, _ => answerStatus t (bnum d 3 1) k 1 o n
  | none, none => answerStatus t 1 k 1 8 n
  | none, some g =>
    if !hasRights n false x.cfg.tid g.handle || (qKind d ≠ 0 && !hasRights n false x.cfg.tid (qAux d)) then answerStatus t 1 k 2 0 n
    else
      let (wait, n) := clientEntry x.cfg.tid n
      match wait with
      | some w => answerStatus t 1 k 5 w n
      | none =>
        let us := nbits (bword d 0xC) 14 0
        let deadline := t.arrive + ticksUs (if us = 0 then gDefDeadline g else us)
        let aux := if qKind d = 0 then 0 else (currentGen n.map (qAux d)).getD 0
        let tab := if qKind d = 1 || qKind d = 3 then qTable n d else none
        let (id, n) := reqNew x t d g.handle g.gen aux deadline n
        let n : Node := match tab with
          | some tb => reqMod id (fun r => { r with tabHandle := tb.handle, tabGen := tb.gen }) n
          | none => n
        match reqFind n id with
        | none => n
        | some r =>
          if k = 0 then finish r bempty (boundResp r) n
          else if g.codebook.isNone then
            finish r bempty { boundResp r with total := gShards g, answered := gShards g, flags := 1 } n
          else match qKind d with
            | 0 => reqMod id (fun r => { r with vec := some ((elemsGet d (qPayOff d) (qFmt d) (qScale d) (qCount d)).map posZero) }) n
            | 2 => encoderStart id
                { fmt := 7, dims := [qCount d], vals := (List.range (qCount d)).map (fun i => bword d (qPayOff d + 4 * i)) } (qCount d) n
            | _ => poolStart id n

def execQuery (qp : Nat) (d : Blob) (s : State) : Host.Outcome State Fault Refusal := run s (receive qp d (queryIn d))

/-- The MGMT operation that a descriptor names (R388). -/
def mgmtOpOf (qp : Nat) (d : Blob) (n : Node) : Option MgmtOp :=
  [opIndexCreate n d, opCodebookLoad d, opCodebookTrain d, opDedupSet d, opShardRead d, opObjectFree d, opTableCreate n d, opTableFill d,
   opTableActivate d, opTableLoadRead d, opEncoderLoad d, opTenantWrite d, opQpCreate d, opQpDestroy qp d, opMemRead d, opMemWrite d,
   opFlashDiscard d, opCablingWrite d, opMapRead d, opCouncilSet d, opNodeRetire d, opCompositionReform, opAttest d, opImageWrite,
   opCalRead d, opCalWrite, opHealthRead, opMramRead d, opContextDump d, opRegRead d, opRegWrite d].find? (fun o => o.code = bnum d 6 2)

/-- A descriptor that its OPCODE shuts out (R11): MGMT from a tenant other than 0 fails step 2 of R12 at its first failing header word, or
else step 3; any other fails step 2 at its first word. -/
def opcodeIn (d : Blob) (x : Qp) (t : RespTo) (n : Node) : Node :=
  if bnum d 3 1 ≠ 4 ∨ x.cfg.tid = 0 then answerStatus t (bnum d 3 1) (echoK d) 1 0 n
  else
    let bad := match mgmtOpOf x.num d n with
      | some o => mgmtBad x o d n
      | none => match mgmtBad x { mop (bnum d 6 2) with flags := 0xFFFF } d n with | some 0 => some 0 | _ => some 4
    match bad with
    | some w => answerStatus t 4 0 1 w n
    | none => answerStatus t 4 0 2 0 n

def execInvalidRequestOpcode (qp : Nat) (d : Blob) (s : State) : Host.Outcome State Fault Refusal :=
  run s (receive qp d (opcodeIn d))

/-! ### Fan-out (R18, R20) -/

/-- The MSN token of a shard: the largest of the bound generation (R165). -/
def tokenOf (r : Req) (shard : Nat) : Option Nat :=
  let ts := ((List.range (qTokens r.d)).map (fun i => qTokOff r.d + 16 * i)).filter
    (fun o => bnum r.d (o + 10) 2 = shard && bnum r.d (o + 8) 2 = r.gen)
  match ts.map (fun o => bnum r.d o 8) with
  | [] => none
  | m :: ms => some (ms.foldl Nat.max m)

/-- Epochs from one to another (R272: epoch 1 follows 0xFFFF_FFFE). -/
def epochsSince (old now : Nat) : Nat := if old ≤ now then now - old else now + (0xFFFFFFFE - old)

/-- A TIMEOUT before any sub-request has gone out (R20, R24; log 147). -/
def timeoutResp (r : Req) (shards : Nat) : Resp :=
  { boundResp r with total := shards, status := 8, flags := if nbit (bword r.d 0x30) 0 then 0 else 2 }

/-- The query vector cannot be used: an INT8 element leaves the FP32 range, or the norm is 0 under COSINE (R16, R66). -/
def vecBad (g : IdxGen) (r : Req) (v : List F32) : Bool :=
  (qKind r.d = 0 && (elemsBad r.d (qPayOff r.d) (qFmt r.d) (qScale r.d) (qCount r.d)).isSome) || (gMetric g = 2 && normZero v)

/-- One sub-request (R20); a shard without a holder is unanswered. -/
def subSend (r : Req) (g : IdxGen) (lut : Lut) (q : List F32) (budget i : Nat) (n : Node) : Node :=
  let key : ShardKey := { handle := g.handle, gen := g.gen, shard := i }
  let token := tokenOf r i
  let m : SubRequestMsg := {
    epoch := r.epoch, key := key, k := echoK r.d, ef := qEf r.d, rerankDepth := qRerank r.d, widen := qWiden r.d,
    requireFull := nbit (bword r.d 0x30) 0, budgetUs := budget, token := token, tid := r.tid, lut := lut, filter := qFilter r.d,
    qvec := if qRerank r.d = 0 then [] else q, forwarded := false }
  match queryHolders n key token.isSome with
  | [] => reqMod r.id (fun r => { r with
      subs := r.subs ++ [{ newSub (2 ^ 32 + i) 4095 i (.subRequest m) false false n.tick with state := 2 }] }) n
  | h :: hs =>
    let (d, n) := pick h (h :: hs) n
    subAdd r.id d.toNat i (.subRequest m) false false n

/-- FAN_OUT: the LUT is built, the epoch is compared, and one sub-request goes out for each shard (R18, R20, R65, R66). -/
def fanOut (id : Nat) (n : Node) : Node :=
  match reqFind n id with
  | none => n
  | some r =>
    match r.vec, genFind n r.handle r.gen with
    | some v, some g =>
      if r.op ≠ 1 ∨ r.fanned then n
      else
        let q := storedVec g v
        let lut := if vecBad g r v then none else g.codebook.bind (fun b => buildLut g b q)
        match lut with
        | none => finish r bempty { boundResp r with status := 1, err := 0x2C } n
        | some lut =>
          let n : Node := if 1 < epochsSince r.epoch n.map.epoch then
              reqMod id (fun r => { r with epoch := n.map.epoch, rebound := true }) n
            else n
          match reqFind n id with
          | none => n
          | some r =>
            let budget := budgetUs r n
            if budget = 0 then finish r bempty (timeoutResp r (gShards g)) n
            else
              let (mce, n) := mcePick none n
              let n : Node := reqMod id (fun r => { r with fanned := true, mce := mce }) n
              (List.range (gShards g)).foldl (fun n i => subSend r g lut q budget i n) n
    | _, _ => n

def execFanOut (req : Nat) (s : State) : Host.Outcome State Fault Refusal := run s (fanOut req)

/-! ### Partials and deadlines (R23-R25, R148, R204) -/

/-- The sub-request that a partial answers: under its tag, or one under which it was sent before (R148). -/
def partialOwner (n : Node) (tag : Nat) : Option (Req × Sub) :=
  (n.reqs.filterMap (fun r => (r.subs.find? (fun s => (s.tag = tag || s.olds.contains tag) && s.sent && s.state = 0)).map
    (fun s => (r, s)))).head?

/-- A sub-request goes once more, to a replica other than those it was sent to and than the node that lost it (R23). -/
def subRerun (r : Req) (s : Sub) (m : SubRequestMsg) (lost : BitVec 12) (n : Node) : Node :=
  let left := budgetUs r n
  match (queryHolders n m.key m.token.isSome).filter (fun d => d.toNat ≠ s.dst && decide (d ≠ lost)) with
  | [] => subUnanswered r.id s.tag n
  | h :: hs =>
    if s.rerun ∨ left = 0 then subUnanswered r.id s.tag n
    else
      let (d, n) := pick h (h :: hs) n
      let msg : Msg := .subRequest { m with budgetUs := left }
      let tag := n.nextTag
      let n : Node := sendTag d.toNat tag msg { n with nextTag := (n.nextTag + 1) % 2 ^ 32 }
      subsMod r.id s.tag (fun s => { s with
        tag := tag, olds := s.tag :: s.olds, dst := d.toNat, msg := msg, rerun := true, sentAt := n.tick }) n

/-- A PARTIAL arrives (R23, R25, R148, R282, R285). -/
def partialIn (h : MsgHdr) (m : PartialMsg) (n : Node) : Node :=
  match partialOwner n h.tag.toNat with
  | none => n
  | some (r, s) =>
    match s.msg with
    | .subRequest q =>
      let n : Node := reqMod r.id (fun r => { r with energy := r.energy + m.energy, rerouted := r.rerouted || m.forwarded }) n
      if m.failed then
        (match (if s.tag = h.tag.toNat then reqFind n r.id else none) with
        | some r => subRerun r s q h.src n
        | none => n)
      else
        let k := echoK r.d
        let (unit, n) := match r.mce with | some i => (some i, n) | none => mcePick none n
        let n : Node := reqMod r.id (fun r => { r with mce := unit }) n
        let (recs, n) := stageAll unit k m.records r.records n
        let n : Node := reqMod r.id (fun r => { r with
          records := recs, widened := r.widened || decide (0 < m.widenUsed), widenUsed := Nat.max r.widenUsed m.widenUsed,
          fullShard := r.fullShard || (decide (1024 < k) && !m.shortfall && decide (m.records.length = 1024)),
          subs := lmodify (fun x => x.tag = s.tag) (fun x => { x with state := 1 }) r.subs }) n
        queryCheck r.id { n with partialTimes := n.partialTimes ++ [(h.src.toNat, n.tick - s.sentAt)] }
    | _ => n

/-- An uncorrectable error in the vector register or the staging area of a final merge: another unit does it again from the inputs the
node keeps (R132, R150). -/
def mergeEcc (h : MsgHdr) (m : PartialMsg) (n : Node) : Node :=
  match partialOwner n h.tag.toNat with
  | none => n
  | some (r, _) =>
    match r.mce with
    | none => n
    | some i =>
      let (j, n) := mcePick (some i) (mceReport i 0x01 m.shard 0 n)
      match j with
      | some j => reqMod r.id (fun r => { r with mce := some j }) n
      | none => n

def execPartialMsg (h : MsgHdr) (m : PartialMsg) (ecc : Bool) (s : State) : Host.Outcome State Fault Refusal :=
  run s (fabricIn h (.partialMsg m) (fun n => partialIn h m (if ecc then mergeEcc h m n else n)))

/-- The request's deadline passes (R24, R204): a query answers from what has arrived, a LOOKUP answers TIMEOUT. -/
def deadlinePass (id : Nat) (n : Node) : Node :=
  match reqFind n id with
  | none => n
  | some r =>
    if r.op ≠ 1 ∧ r.op ≠ 3 then n
    else
      let n : Node := reach r.deadline n
      if r.op = 3 then finish r bempty { boundResp r with status := 8 } n
      else if r.fanned then queryAnswer r n
      else
        let total := match genFind n r.handle r.gen with | some g => gShards g | none => 0
        finish r bempty (timeoutResp r total) n

def execRequestDeadline (req : Nat) (s : State) : Host.Outcome State Fault Refusal := run s (deadlinePass req)

/-! ### MISROUTE (R21, R153, R209, R276) -/

/-- A MISROUTE arrives. One whose epoch is above this node's waits for that map. -/
def misrouteIn (h : MsgHdr) (m : MisrouteMsg) (n : Node) : Node :=
  match tagOwner n h.tag.toNat with
  | none => n
  | some (r, s) =>
    if n.map.epoch < m.epoch then
      fetchEpoch (n.map.epoch + 1) { subsMod r.id s.tag (fun s => { s with parked := true }) n with
        heldMsgs := n.heldMsgs ++ [{ h := { h with epoch := BitVec.ofNat 32 m.epoch }, m := .misroute m, at_ := n.tick }] }
    else match s.msg with
      | .subRequest q =>
        let all := queryHolders n q.key q.token.isSome
        let others := all.filter (fun d => d ≠ h.src)
        let left := budgetUs r n
        if s.rerouted ∨ left = 0 then subUnanswered r.id s.tag n
        else match (if others.isEmpty then all else others) with
          | [] => subUnanswered r.id s.tag n
          | d :: ds => let (d, n) := pick d (d :: ds) n; resendSub r s d (.subRequest { q with budgetUs := left }) n
      | .subBatch b =>
        match (if s.rerouted then none else primaryOf n b.key) with
        | none => subAnswered r s (wholeWords b 4 m.epoch) false false 0 n
        | some p => resendSub r s p s.msg n
      | _ => lookupMisroute r s n

def execMisroute (h : MsgHdr) (m : MisrouteMsg) (s : State) : Host.Outcome State Fault Refusal :=
  run s (fabricIn h (.misroute m) (misrouteIn h m))

/-! ### MUTATE (R151-R153) -/

def muCount (d : Blob) : Nat := bnum d 6 2
def muOff (d : Blob) : Nat := bnum d 0x32 2
def muLen (d : Blob) : Nat := bword d 0x34
def muDurable (d : Blob) : Bool := nbit (bword d 4) 0

def mutateHeaderBad (x : Qp) (d : Blob) (n : Node) : Option Nat :=
  let w0 := bword d 0
  let len := nbits w0 8 0 * 64
  firstBad [
    offIf (nbits w0 31 24 ≠ 2 || nbits w0 23 20 ≠ 1 || nbits w0 19 9 ≠ 0 || len = 0 || 2 ^ x.cfg.slotLog2 < len) 0,
    offIf (1020 < muCount d || nbits (bword d 4) 15 1 ≠ 0) 4,
    offIf (currentIdx n (bword d 8)).isNone 8,
    offIf (bword d 0xC ≠ 0) 0xC,
    offIf (bnum d 0x18 8 % 16 ≠ 0) 0x18,
    offIf (bword d 0x24 < 64 + 16 * muCount d) 0x24,
    offIf ((muCount d ≠ 0 && (muOff d < 64 || muOff d % 8 ≠ 0)) || bnum d 0x30 2 ≠ 0) 0x30,
    offIf (muLen d % 8 ≠ 0 || (muCount d ≠ 0 && len < muOff d + muLen d)) 0x34,
    offIf (bword d 0x38 ≠ 0) 0x38,
    offIf (bword d 0x3C ≠ 0) 0x3C]

/-- The framing of R152 from a record's position on: the records, or the failing word. -/
def mutateFrame (d : Blob) (stop : Nat) : Nat → Nat → Nat ⊕ List MutRec
  | 0, pos => if pos = stop then .inr [] else .inl 0x34
  | k + 1, pos =>
    let len := 8 * bnum d (pos + 8) 2
    if len = 0 ∨ stop < pos + len then .inl (pos + 8)
    else match mutateFrame d stop k (pos + len) with
      | .inl o => .inl o
      | .inr l => .inr ({ off := pos, body := bslice d pos len } :: l)

/-- The records of a descriptor: without any record the area is absent (R424). -/
def mutateRecs (d : Blob) : Nat ⊕ List MutRec :=
  if muCount d = 0 then (if muLen d = 0 then .inr [] else .inl 0x34)
  else mutateFrame d (muOff d + muLen d) (muCount d) (muOff d)

/-- The sub-batch of one shard leaves, or waits behind an earlier one of its queue pair (R153). Without a primary its records answer
RETRY_LATER (R170, R275). -/
def batchSend (id : Nat) (g : IdxGen) (recs : List MutRec) (i : Nat) (n : Node) : Node :=
  match reqFind n id with
  | none => n
  | some r =>
    let key : ShardKey := { handle := g.handle, gen := g.gen, shard := i }
    let m : SubBatchMsg := {
      epoch := r.epoch, key := key, tid := r.tid, reqId := bnum r.d 0x28 8, ackDurable := muDurable r.d,
      records := recs.filter (fun x => shardOf (bnum x.body 0 8) (gShards g) = i), forwarded := false }
    match primaryOf n key with
    | none => reqMod id (fun r => { r with words := setWords m.records (wholeWords m 5 10000) r.words }) n
    | some p =>
      let behind := n.reqs.any (fun q => q.qp = r.qp && q.op = 2 && q.handle = r.handle &&
        q.subs.any (fun s => s.shard = i && (holdsBack s || (s.state = 0 && !s.sent))))
      subAdd id p.toNat i (.subBatch m) false behind n

/-- The first word that fails at step 2 of R12: of the header, or of the framing where the area's own words hold (R27, R152). -/
def mutateBad (x : Qp) (d : Blob) (n : Node) : Option Nat :=
  match mutateHeaderBad x d n, mutateRecs d with
  | some o, .inl f => some (if 0x34 < o then Nat.min o f else o)
  | some o, .inr _ => some o
  | none, .inl f => some f
  | none, .inr _ => none

/-- Checks 2 to 4 of R12 on a MUTATE, its binding, and its sub-batches. -/
def mutateIn (d : Blob) (x : Qp) (t : RespTo) (n : Node) : Node :=
  match mutateBad x d n, currentIdx n (bword d 8), mutateRecs d with
  | some o, _, _ => answerStatus t (bnum d 3 1) 0 1 o n
  | none, none, _ => answerStatus t 2 0 1 8 n
  | none, some _, .inl o => answerStatus t 2 0 1 o n
  | none, some g, .inr recs =>
    if !hasRights n true x.cfg.tid g.handle then answerStatus t 2 0 2 0 n
    else
      let (wait, n) := clientEntry x.cfg.tid n
      match wait with
      | some w => answerStatus t 2 0 5 w n
      | none =>
        let (id, n) := reqNew x t d g.handle g.gen 0 (t.arrive + ticksMs 100) n
        let shards := (recs.map (fun r => shardOf (bnum r.body 0 8) (gShards g))).foldl (fun acc i => ninsert i acc) []
        mutateCheck id (shards.foldl (fun n i => batchSend id g recs i n) n)

def execMutate (qp : Nat) (d : Blob) (s : State) : Host.Outcome State Fault Refusal := run s (receive qp d (mutateIn d))

/-! ### Sub-requests at the shard holder (R21, R22, R69, R165) -/

/-- The snapshot is bound and the delta scan joins its batch (R22, R113); the walk is started by WALK_START. -/
def subBind (id : Nat) (sh : Shard) (n : Node) : Node :=
  batchAdd sh.key id (subMod id (fun q => { q with snap := some sh.committed }) n)

/-- A sub-request is taken up by a holder. LUT records of equal content share one place in memory (R92; log 151). -/
def subServe (h : MsgHdr) (m0 : SubRequestMsg) (sh : Shard) (g : IdxGen) (n : Node) : Node :=
  let low := decide (h.compat.toNat < 2)
  let m : SubRequestMsg := if low then { m0 with widen := 0, token := none } else m0
  let id := n.nextSub
  let ef := if m.ef = 0 then gDefEf g else m.ef
  let (addr, n) := match n.subReqs.find? (fun q => q.msg.lut = m.lut) with
    | some q => (q.lutAddr, n)
    | none => lutStore m.lut n
  let (mce, n) := mcePick none n
  let q : SubReq := {
    id := id, msg := m, src := h.src.toNat, tag := h.tag.toNat, arrive := n.tick, budgetEnd := n.tick + ticksUs m.budgetUs,
    width := Nat.min 1024 (Nat.max ef (Nat.max m.k m.rerankDepth)), walkEnd := none, snap := none, lutAddr := addr, steps := 0,
    walk := none, delta := none, prev := [], rerank := [], reranking := false, mce := mce, energy := 0 }
  let n : Node := { n with subReqs := n.subReqs ++ [q], nextSub := id + 1 }
  if m.token.getD 0 ≤ sh.committed then subBind id sh n else n

/-- A SUB_REQUEST arrives (R21, R276). -/
def subRequestIn (h : MsgHdr) (m : SubRequestMsg) (n : Node) : Node :=
  let holds := match shardRole n.map m.key with
    | some r => (servingPlaces n r).any (fun p => p.node = n.nodeId)
    | none => false
  match shardFind n m.key, genFind n m.key.handle m.key.gen with
  | some sh, some g =>
    if holds || sh.state = 3 && decide (sh.role < 3) then subServe h m sh g n
    else
      match fwdFind n m.key false with
      | some f => forwardMsg h f.towards (.subRequest { m with forwarded := true }) n
      | none => sendMisroute h (queryHolders n m.key false).head? n
  | _, _ =>
    match fwdFind n m.key false with
    | some f => forwardMsg h f.towards (.subRequest { m with forwarded := true }) n
    | none => sendMisroute h (queryHolders n m.key false).head? n

def execSubRequest (h : MsgHdr) (m : SubRequestMsg) (s : State) : Host.Outcome State Fault Refusal :=
  run s (fabricIn h (.subRequest m) (subRequestIn h m))

/-- A sub-request with an MSN token binds once COMMITTED_MSN has reached it; at the end of its budget it is given up (R165). -/
def tokenBind (id : Nat) (n : Node) : Node :=
  match subFind n id with
  | none => n
  | some q =>
    if q.snap.isSome then n
    else if q.budgetEnd ≤ n.tick then { n with subReqs := n.subReqs.filter (fun x => x.id ≠ id) }
    else match shardFind n q.msg.key with
      | some sh => if q.msg.token.getD 0 ≤ sh.committed then subBind id sh n else n
      | none => n

def execTokenSnapshotBind (sub : Nat) (s : State) : Host.Outcome State Fault Refusal := run s (tokenBind sub)

/-! ### The end of a tensor program (R187, R189-R191) -/

/-- The operator in progress is complete; a program that has ended hands its output over: the query vector of a request, or a trained
codebook. The codes of an insert encoding are those that the step's writes store (R191). -/
def operatorDone (id : Nat) (n : Node) : Node :=
  match opNext id n with
  | (none, n) => n
  | (some (p, t), n) =>
    match p.cls, p.req with
    | 0, some r => reqMod r (fun q => { q with vec := some (t.vals.map (fun v => posZero (w32 v))), prog := none }) n
    | 2, some r => bookWant r p.handle p.gen (bookBlob t) n
    | _, _ => n

def execOperatorComplete (prog : Nat) (s : State) : Host.Outcome State Fault Refusal := run s (operatorDone prog)

/-! ### Applying a map (R272, R273) -/

/-- What a message does that has waited for its epoch. -/
def deliver (h : MsgHdr) : Msg → Node → Node
  | .subRequest m, n => subRequestIn h m n
  | .partialMsg m, n => partialIn h m n
  | .misroute m, n => misrouteIn h m n
  | .subBatch m, n => subBatchIn h m n
  | .subBatchAnswer m, n => subAnswerIn h m n
  | .step m, n => stepIn h m n
  | .stepAccept k l, n => stepAcceptIn k l n
  | .stepForward m, n => stepForwardIn m n
  | .fill m, n => fillIn m n
  | .subBag m, n => subBagIn h m n
  | .pooled m, n => pooledIn h m n
  | .rowOp m, n => rowOpIn h m n
  | .rowAnswer m, n => rowAnswerIn h m n
  | .rowMove m, n => rowMoveIn h m n
  | .rowInstalled m, n => rowInstalledIn h m n
  | .redirectSet m, n => redirectIn m n
  | .seal k l, n => sealIn h k l n
  | .copy m, n => copyIn m n
  | .rebuildRead m, n => rebuildReadIn h m n
  | .rebuildData m, n => rebuildDataIn h m n
  | .prepare _, n => n
  | .promise _, n => n
  | .accept _, n => n
  | .accepted _, n => n
  | .commit _, n => n
  | .epochFetch _, n => n
  | .epochData _, n => n
  | .suspect _ _, n => n
  | .probe _ _, n => n
  | .probeAnswer _, n => n
  | .loadReport _, n => n
  | .nodeWithdraw _, n => n
  | .join _, n => n
  | .joinAnswer _ _ _, n => n

/-- A map takes effect here, the requests that waited for it answer, and the messages held for its epoch are acted on in their order;
where some still wait for a newer one, that is fetched. -/
def mapTake (m : CMap) (n : Node) : Node :=
  let n : Node := afterMap (mapApply m n)
  let (due, rest) := n.heldMsgs.partition (fun x => decide (x.h.epoch.toNat ≤ n.map.epoch))
  let n : Node := due.foldl (fun n x => deliver x.h x.m n) { n with heldMsgs := rest }
  if n.heldMsgs.isEmpty then n else fetchEpoch (n.map.epoch + 1) n

def mapTakeIf (r : Option CMap × Node) : Node := match r.1 with | some m => mapTake m r.2 | none => r.2

/-- ACCEPTED: with a majority the map is committed, and the proposer applies it (step 5 of R272). -/
def execAccepted (h : MsgHdr) (m : PrepareMsg) (s : State) : Host.Outcome State Fault Refusal :=
  run s (fabricIn h (.accepted m) (fun n => mapTakeIf (acceptedIn h m n)))

def execCommit (h : MsgHdr) (m : CommitMsg) (s : State) : Host.Outcome State Fault Refusal :=
  run s (fabricIn h (.commit m) (fun n => mapTakeIf (commitIn h m n)))

/-- EPOCH_DATA: the map is applied if it follows the one held (R273). -/
def epochDataIn (h : MsgHdr) (m : CMap) (n : Node) : Node :=
  let (a, n) := awaitTake h.tag.toNat n
  if a.isNone || !mapFollows n m then n else mapTake m n

def execEpochData (h : MsgHdr) (m : CMap) (s : State) : Host.Outcome State Fault Refusal :=
  run s (fabricIn h (.epochData m) (epochDataIn h m))

end Sys2Proof.Machine
end

