-- ==== Sys2Proof/Machine/Dispatch.lean ====
section
/-!
DEFINITION. Sys2Proof/Machine/Dispatch.lean: one arm per command; each is one direct call of its meaning.
-/
namespace Sys2Proof.Machine

def exec (i : Instr) (s : State) : Host.Outcome State Fault Refusal :=
  match i with
  | .query qp d => Sys2Proof.Machine.execQuery qp d s
  | .mutate qp d => Sys2Proof.Machine.execMutate qp d s
  | .lookupPool qp d => Sys2Proof.Machine.execLookupPool qp d s
  | .lookupWrite qp d => Sys2Proof.Machine.execLookupWrite qp d s
  | .lookupAdd qp d => Sys2Proof.Machine.execLookupAdd qp d s
  | .invalidRequestOpcode qp d => Sys2Proof.Machine.execInvalidRequestOpcode qp d s
  | .fanOut req => Sys2Proof.Machine.execFanOut req s
  | .requestDeadline req => Sys2Proof.Machine.execRequestDeadline req s
  | .partialMsg h m ecc => Sys2Proof.Machine.execPartialMsg h m ecc s
  | .responseWriteRejected qp => Sys2Proof.Machine.execResponseWriteRejected qp s
  | .subRequest h m => Sys2Proof.Machine.execSubRequest h m s
  | .tokenSnapshotBind sub => Sys2Proof.Machine.execTokenSnapshotBind sub s
  | .misroute h m => Sys2Proof.Machine.execMisroute h m s
  | .walkStart task => Sys2Proof.Machine.execWalkStart task s
  | .walkExpansion eng => Sys2Proof.Machine.execWalkExpansion eng s
  | .memDataArrival eng ctx => Sys2Proof.Machine.execMemDataArrival eng ctx s
  | .walkDeadline eng ctx => Sys2Proof.Machine.execWalkDeadline eng ctx s
  | .walkRestore saved => Sys2Proof.Machine.execWalkRestore saved s
  | .drainPreemptTimeout eng => Sys2Proof.Machine.execDrainPreemptTimeout eng s
  | .gweDrain eng v => Sys2Proof.Machine.execGweDrain eng v s
  | .batchHoldExpiry key => Sys2Proof.Machine.execBatchHoldExpiry key s
  | .passStart => Sys2Proof.Machine.execPassStart s
  | .lutSlotWrite stack target pc slot data => Sys2Proof.Machine.execLutSlotWrite stack target pc slot data s
  | .slotParamWrite stack target pc slot data => Sys2Proof.Machine.execSlotParamWrite stack target pc slot data s
  | .cloveNop u cmd => Sys2Proof.Machine.execCloveNop u cmd s
  | .scan u cmd => Sys2Proof.Machine.execScan u cmd s
  | .check u cmd => Sys2Proof.Machine.execCheck u cmd s
  | .compact u cmd => Sys2Proof.Machine.execCompact u cmd s
  | .abort units cmd => Sys2Proof.Machine.execAbort units cmd s
  | .cloveClear units cmd => Sys2Proof.Machine.execCloveClear units cmd s
  | .cloveInvalidOpcode u cmd => Sys2Proof.Machine.execCloveInvalidOpcode u cmd s
  | .cloveRowDone u => Sys2Proof.Machine.execCloveRowDone u s
  | .resultRead u => Sys2Proof.Machine.execResultRead u s
  | .summaryPoll stack pc => Sys2Proof.Machine.execSummaryPoll stack pc s
  | .unitNoProgress u => Sys2Proof.Machine.execUnitNoProgress u s
  | .refreshDue u bank => Sys2Proof.Machine.execRefreshDue u bank s
  | .refreshComplete u => Sys2Proof.Machine.execRefreshComplete u s
  | .compactedRowRelease key => Sys2Proof.Machine.execCompactedRowRelease key s
  | .scrubPeriod stack => Sys2Proof.Machine.execScrubPeriod stack s
  | .rowRebuild key row => Sys2Proof.Machine.execRowRebuild key row s
  | .mscCloveOff stack v => Sys2Proof.Machine.execMscCloveOff stack v s
  | .mscOpenWrite stack v => Sys2Proof.Machine.execMscOpenWrite stack v s
  | .maceSelect sub ecc => Sys2Proof.Machine.execMaceSelect sub ecc s
  | .rerankReadComplete sub lid ok => Sys2Proof.Machine.execRerankReadComplete sub lid ok s
  | .rerankCutoff sub => Sys2Proof.Machine.execRerankCutoff sub s
  | .mceDrain mce v => Sys2Proof.Machine.execMceDrain mce v s
  | .subBatch h m => Sys2Proof.Machine.execSubBatch h m s
  | .commitStepTimer key => Sys2Proof.Machine.execCommitStepTimer key s
  | .primaryWritesComplete key => Sys2Proof.Machine.execPrimaryWritesComplete key s
  | .step h m => Sys2Proof.Machine.execStep h m s
  | .stepAccept h key lastMsn => Sys2Proof.Machine.execStepAccept h key lastMsn s
  | .partnerAcceptTimeout key => Sys2Proof.Machine.execPartnerAcceptTimeout key s
  | .mutateResponseTimeout req => Sys2Proof.Machine.execMutateResponseTimeout req s
  | .subBatchAnswer h m => Sys2Proof.Machine.execSubBatchAnswer h m s
  | .dedupEntryExpiry key tid reqId => Sys2Proof.Machine.execDedupEntryExpiry key tid reqId s
  | .foldEntry key topLevel nbrs => Sys2Proof.Machine.execFoldEntry key topLevel nbrs s
  | .edgeRepair key block deleted => Sys2Proof.Machine.execEdgeRepair key block deleted s
  | .repairSweep key count => Sys2Proof.Machine.execRepairSweep key count s
  | .generationSwitch handle => Sys2Proof.Machine.execGenerationSwitch handle s
  | .stepForward h m => Sys2Proof.Machine.execStepForward h m s
  | .fill h m => Sys2Proof.Machine.execFill h m s
  | .operatorComplete prog => Sys2Proof.Machine.execOperatorComplete prog s
  | .tnsNop prog => Sys2Proof.Machine.execTnsNop prog s
  | .matmul prog => Sys2Proof.Machine.execMatmul prog s
  | .add prog => Sys2Proof.Machine.execAdd prog s
  | .mul prog => Sys2Proof.Machine.execMul prog s
  | .act prog => Sys2Proof.Machine.execAct prog s
  | .norm prog => Sys2Proof.Machine.execNorm prog s
  | .softmax prog => Sys2Proof.Machine.execSoftmax prog s
  | .permute prog => Sys2Proof.Machine.execPermute prog s
  | .gather prog => Sys2Proof.Machine.execGather prog s
  | .tnsPool prog => Sys2Proof.Machine.execTnsPool prog s
  | .quant prog => Sys2Proof.Machine.execQuant prog s
  | .dequant prog => Sys2Proof.Machine.execDequant prog s
  | .convert prog => Sys2Proof.Machine.execConvert prog s
  | .l2normalize prog => Sys2Proof.Machine.execL2normalize prog s
  | .encodePq prog => Sys2Proof.Machine.execEncodePq prog s
  | .kmeans prog => Sys2Proof.Machine.execKmeans prog s
  | .programRestart prog lost tile => Sys2Proof.Machine.execProgramRestart prog lost tile s
  | .tnsDrain tns v => Sys2Proof.Machine.execTnsDrain tns v s
  | .subBag h m => Sys2Proof.Machine.execSubBag h m s
  | .pooled h m => Sys2Proof.Machine.execPooled h m s
  | .rowOp h m => Sys2Proof.Machine.execRowOp h m s
  | .rowAnswer h m => Sys2Proof.Machine.execRowAnswer h m s
  | .loadWindowExpiry handle gen loads => Sys2Proof.Machine.execLoadWindowExpiry handle gen loads s
  | .rowMove h m => Sys2Proof.Machine.execRowMove h m s
  | .rowInstalled h m => Sys2Proof.Machine.execRowInstalled h m s
  | .rowForwardingExpiry handle gen row => Sys2Proof.Machine.execRowForwardingExpiry handle gen row s
  | .redirectSet h m => Sys2Proof.Machine.execRedirectSet h m s
  | .promotionComplete page ok => Sys2Proof.Machine.execPromotionComplete page ok s
  | .backgroundMove page => Sys2Proof.Machine.execBackgroundMove page s
  | .heatDecay => Sys2Proof.Machine.execHeatDecay s
  | .moveCopyComplete page => Sys2Proof.Machine.execMoveCopyComplete page s
  | .moveSwitch page ok => Sys2Proof.Machine.execMoveSwitch page ok s
  | .dmaChunkComplete ch => Sys2Proof.Machine.execDmaChunkComplete ch s
  | .dmaRestart ch onto => Sys2Proof.Machine.execDmaRestart ch onto s
  | .patrolRead addr r => Sys2Proof.Machine.execPatrolRead addr r s
  | .unitWrite ua stream tid data => Sys2Proof.Machine.execUnitWrite ua stream tid data s
  | .pageSetFlush stream => Sys2Proof.Machine.execPageSetFlush stream s
  | .fillerTimeout stream => Sys2Proof.Machine.execFillerTimeout stream s
  | .programComplete block => Sys2Proof.Machine.execProgramComplete block s
  | .programFail block => Sys2Proof.Machine.execProgramFail block s
  | .unitRead ua cls => Sys2Proof.Machine.execUnitRead ua cls s
  | .flashReadComplete ua r => Sys2Proof.Machine.execFlashReadComplete ua r s
  | .suspendTimeout ch ce lun => Sys2Proof.Machine.execSuspendTimeout ch ce lun s
  | .mapPageReadComplete page => Sys2Proof.Machine.execMapPageReadComplete page s
  | .reclaim => Sys2Proof.Machine.execReclaim s
  | .eraseComplete block ok => Sys2Proof.Machine.execEraseComplete block ok s
  | .blockRefresh block => Sys2Proof.Machine.execBlockRefresh block s
  | .powerUpReadScan block r => Sys2Proof.Machine.execPowerUpReadScan block r s
  | .lunTimeout ch ce lun => Sys2Proof.Machine.execLunTimeout ch ce lun s
  | .shardCheckpoint key room => Sys2Proof.Machine.execShardCheckpoint key room s
  | .mapCheckpoint => Sys2Proof.Machine.execMapCheckpoint s
  | .zqCalibration ch => Sys2Proof.Machine.execZqCalibration ch s
  | .ftlFormat v => Sys2Proof.Machine.execFtlFormat v s
  | .laneTrained lane info => Sys2Proof.Machine.execLaneTrained lane info s
  | .laneFail lane => Sys2Proof.Machine.execLaneFail lane s
  | .spareLaneTrained lane info => Sys2Proof.Machine.execSpareLaneTrained lane info s
  | .retryLimit link => Sys2Proof.Machine.execRetryLimit link s
  | .linkDown link => Sys2Proof.Machine.execLinkDown link s
  | .trainFailRetry lane info => Sys2Proof.Machine.execTrainFailRetry lane info s
  | .plDisable lane v => Sys2Proof.Machine.execPlDisable lane v s
  | .messageTimeout tag => Sys2Proof.Machine.execMessageTimeout tag s
  | .prepare h m => Sys2Proof.Machine.execPrepare h m s
  | .promise h m => Sys2Proof.Machine.execPromise h m s
  | .accept h m => Sys2Proof.Machine.execAccept h m s
  | .accepted h m => Sys2Proof.Machine.execAccepted h m s
  | .commit h m => Sys2Proof.Machine.execCommit h m s
  | .proposerBackoffExpiry => Sys2Proof.Machine.execProposerBackoffExpiry s
  | .epochFetch h epoch => Sys2Proof.Machine.execEpochFetch h epoch s
  | .epochData h m => Sys2Proof.Machine.execEpochData h m s
  | .epochFetchTimeout epoch => Sys2Proof.Machine.execEpochFetchTimeout epoch s
  | .suspect h node cause => Sys2Proof.Machine.execSuspect h node cause s
  | .probe h node nonce => Sys2Proof.Machine.execProbe h node nonce s
  | .probeAnswer h nonce => Sys2Proof.Machine.execProbeAnswer h nonce s
  | .probeWindowExpiry node => Sys2Proof.Machine.execProbeWindowExpiry node s
  | .councilSilenceTimeout node => Sys2Proof.Machine.execCouncilSilenceTimeout node s
  | .quorumLossTimeout => Sys2Proof.Machine.execQuorumLossTimeout s
  | .forwardingEntryExpiry key => Sys2Proof.Machine.execForwardingEntryExpiry key s
  | .loadReportTimer => Sys2Proof.Machine.execLoadReportTimer s
  | .loadReport h medians => Sys2Proof.Machine.execLoadReport h medians s
  | .nodeWithdraw h cause => Sys2Proof.Machine.execNodeWithdraw h cause s
  | .join h m => Sys2Proof.Machine.execJoin h m s
  | .joinAnswer h accepted check nonce => Sys2Proof.Machine.execJoinAnswer h accepted check nonce s
  | .admissionTestsComplete ok failing => Sys2Proof.Machine.execAdmissionTestsComplete ok failing s
  | .seal h key msn => Sys2Proof.Machine.execSeal h key msn s
  | .sealHoldExpiry key => Sys2Proof.Machine.execSealHoldExpiry key s
  | .copy h m => Sys2Proof.Machine.execCopy h m s
  | .rebuildRead h m => Sys2Proof.Machine.execRebuildRead h m s
  | .rebuildData h m => Sys2Proof.Machine.execRebuildData h m s
  | .arp f => Sys2Proof.Machine.execArp f s
  | .neighbourDiscovery f => Sys2Proof.Machine.execNeighbourDiscovery f s
  | .icmpEcho f payload => Sys2Proof.Machine.execIcmpEcho f payload s
  | .nonRoceFrame f => Sys2Proof.Machine.execNonRoceFrame f s
  | .pfcFrame port prio pause => Sys2Proof.Machine.execPfcFrame port prio pause s
  | .pauseFrame port => Sys2Proof.Machine.execPauseFrame port s
  | .pauseStorm port => Sys2Proof.Machine.execPauseStorm port s
  | .pauseStormEnd port => Sys2Proof.Machine.execPauseStormEnd port s
  | .ceMarkedPacket qp => Sys2Proof.Machine.execCeMarkedPacket qp s
  | .cnp qp => Sys2Proof.Machine.execCnp qp s
  | .rateRecoveryTimer qp => Sys2Proof.Machine.execRateRecoveryTimer qp s
  | .rcAck qp upTo => Sys2Proof.Machine.execRcAck qp upTo s
  | .ackTimeout qp => Sys2Proof.Machine.execAckTimeout qp s
  | .clientRnrNak qp => Sys2Proof.Machine.execClientRnrNak qp s
  | .unsupportedOp qp => Sys2Proof.Machine.execUnsupportedOp qp s
  | .rdmaReadWindow qp addr len rkey => Sys2Proof.Machine.execRdmaReadWindow qp addr len rkey s
  | .rdmaWriteWindow qp addr rkey data => Sys2Proof.Machine.execRdmaWriteWindow qp addr rkey data s
  | .discovery port qkey payload sender => Sys2Proof.Machine.execDiscovery port qkey payload sender s
  | .calendarEntry => Sys2Proof.Machine.execCalendarEntry s
  | .qpSample => Sys2Proof.Machine.execQpSample s
  | .ethLinkDown port => Sys2Proof.Machine.execEthLinkDown port s
  | .anRetry port ok => Sys2Proof.Machine.execAnRetry port ok s
  | .capLoopDecision mean50 mean1ms meanWindow => Sys2Proof.Machine.execCapLoopDecision mean50 mean1ms meanWindow s
  | .capDeferralEnd => Sys2Proof.Machine.execCapDeferralEnd s
  | .thermalLoopDecision => Sys2Proof.Machine.execThermalLoopDecision s
  | .sensorSample readings stackTemps => Sys2Proof.Machine.execSensorSample readings stackTemps s
  | .regalertAssert n => Sys2Proof.Machine.execRegalertAssert n s
  | .regalertDeassert => Sys2Proof.Machine.execRegalertDeassert s
  | .alertHoldExpiry => Sys2Proof.Machine.execAlertHoldExpiry s
  | .alertRampStep => Sys2Proof.Machine.execAlertRampStep s
  | .droopGate die det => Sys2Proof.Machine.execDroopGate die det s
  | .droopRecover die det => Sys2Proof.Machine.execDroopRecover die det s
  | .currentGate => Sys2Proof.Machine.execCurrentGate s
  | .opStepSettled die => Sys2Proof.Machine.execOpStepSettled die s
  | .ageingMarginCheck unit below => Sys2Proof.Machine.execAgeingMarginCheck unit below s
  | .energySplit dynamic fixed => Sys2Proof.Machine.execEnergySplit dynamic fixed s
  | .brownOut => Sys2Proof.Machine.execBrownOut s
  | .refclkLoss => Sys2Proof.Machine.execRefclkLoss s
  | .pwrfailAssert => Sys2Proof.Machine.execPwrfailAssert s
  | .mramStagingWrite => Sys2Proof.Machine.execMramStagingWrite s
  | .channelFail ch => Sys2Proof.Machine.execChannelFail ch s
  | .shadowStart work on => Sys2Proof.Machine.execShadowStart work on s
  | .shadowDropped work => Sys2Proof.Machine.execShadowDropped work s
  | .shadowCompare work agree => Sys2Proof.Machine.execShadowCompare work agree s
  | .arbitration work third agreesOriginal agreesShadow => Sys2Proof.Machine.execArbitration work third agreesOriginal agreesShadow s
  | .sparePowered unit => Sys2Proof.Machine.execSparePowered unit s
  | .oldUnitEmptied unit => Sys2Proof.Machine.execOldUnitEmptied unit s
  | .requal => Sys2Proof.Machine.execRequal s
  | .requalificationComplete unit passed => Sys2Proof.Machine.execRequalificationComplete unit passed s
  | .dataRestore key obj index => Sys2Proof.Machine.execDataRestore key obj index s
  | .recorderFreeze page => Sys2Proof.Machine.execRecorderFreeze page s
  | .recorderUnfreeze page => Sys2Proof.Machine.execRecorderUnfreeze page s
  | .freezeTimeout page => Sys2Proof.Machine.execFreezeTimeout page s
  | .recorderClear page => Sys2Proof.Machine.execRecorderClear page s
  | .resetNAssert ns => Sys2Proof.Machine.execResetNAssert ns s
  | .resetNRelease straps => Sys2Proof.Machine.execResetNRelease straps s
  | .romConditionsMet p => Sys2Proof.Machine.execRomConditionsMet p s
  | .tftpWriteRequest name blksize client => Sys2Proof.Machine.execTftpWriteRequest name blksize client s
  | .recoveryImageReceived source => Sys2Proof.Machine.execRecoveryImageReceived source s
  | .mboxCrc crc => Sys2Proof.Machine.execMboxCrc crc s
  | .rollbackCommit => Sys2Proof.Machine.execRollbackCommit s
  | .recover => Sys2Proof.Machine.execRecover s
  | .topReset v => Sys2Proof.Machine.execTopReset v s
  | .blkSnap page => Sys2Proof.Machine.execBlkSnap page s
  | .blkErrClr page => Sys2Proof.Machine.execBlkErrClr page s
  | .blkIntStatClear page v => Sys2Proof.Machine.execBlkIntStatClear page v s
  | .blkIntSet page v => Sys2Proof.Machine.execBlkIntSet page v s
  | .svcDrain svc v => Sys2Proof.Machine.execSvcDrain svc v s
  | .rcRegisterRead p addr => Sys2Proof.Machine.execRcRegisterRead p addr s
  | .loRegisterRead p addr => Sys2Proof.Machine.execLoRegisterRead p addr s
  | .registerWrite p addr v => Sys2Proof.Machine.execRegisterWrite p addr v s
  | .i3cPrivateWrite data => Sys2Proof.Machine.execI3cPrivateWrite data s
  | .i3cPrivateRead len => Sys2Proof.Machine.execI3cPrivateRead len s
  | .entdaa addr => Sys2Proof.Machine.execEntdaa addr s
  | .ibiRepeat => Sys2Proof.Machine.execIbiRepeat s
  | .bypass => Sys2Proof.Machine.execBypass s
  | .idcode => Sys2Proof.Machine.execIdcode s
  | .samplePreload pins => Sys2Proof.Machine.execSamplePreload pins s
  | .extest pins => Sys2Proof.Machine.execExtest pins s
  | .clamp => Sys2Proof.Machine.execClamp s
  | .highz => Sys2Proof.Machine.execHighz s
  | .tapReset => Sys2Proof.Machine.execTapReset s
  | .indexCreate qp d => Sys2Proof.Machine.execIndexCreate qp d s
  | .codebookLoad qp d => Sys2Proof.Machine.execCodebookLoad qp d s
  | .codebookTrain qp d => Sys2Proof.Machine.execCodebookTrain qp d s
  | .dedupSet qp d => Sys2Proof.Machine.execDedupSet qp d s
  | .shardRead qp d => Sys2Proof.Machine.execShardRead qp d s
  | .objectFree qp d => Sys2Proof.Machine.execObjectFree qp d s
  | .tableCreate qp d => Sys2Proof.Machine.execTableCreate qp d s
  | .tableFill qp d => Sys2Proof.Machine.execTableFill qp d s
  | .tableActivate qp d => Sys2Proof.Machine.execTableActivate qp d s
  | .tableLoadRead qp d => Sys2Proof.Machine.execTableLoadRead qp d s
  | .encoderLoad qp d => Sys2Proof.Machine.execEncoderLoad qp d s
  | .tenantWrite qp d => Sys2Proof.Machine.execTenantWrite qp d s
  | .qpCreate qp d => Sys2Proof.Machine.execQpCreate qp d s
  | .qpDestroy qp d => Sys2Proof.Machine.execQpDestroy qp d s
  | .qpDrainEnd qp => Sys2Proof.Machine.execQpDrainEnd qp s
  | .memRead qp d => Sys2Proof.Machine.execMemRead qp d s
  | .memWrite qp d => Sys2Proof.Machine.execMemWrite qp d s
  | .flashDiscard qp d => Sys2Proof.Machine.execFlashDiscard qp d s
  | .cablingWrite qp d => Sys2Proof.Machine.execCablingWrite qp d s
  | .mapRead qp d => Sys2Proof.Machine.execMapRead qp d s
  | .councilSet qp d => Sys2Proof.Machine.execCouncilSet qp d s
  | .nodeRetire qp d => Sys2Proof.Machine.execNodeRetire qp d s
  | .compositionReform qp d idle => Sys2Proof.Machine.execCompositionReform qp d idle s
  | .attest qp d => Sys2Proof.Machine.execAttest qp d s
  | .imageWrite qp d => Sys2Proof.Machine.execImageWrite qp d s
  | .calRead qp d => Sys2Proof.Machine.execCalRead qp d s
  | .calWrite qp d => Sys2Proof.Machine.execCalWrite qp d s
  | .healthRead qp d => Sys2Proof.Machine.execHealthRead qp d s
  | .mramRead qp d => Sys2Proof.Machine.execMramRead qp d s
  | .contextDump qp d => Sys2Proof.Machine.execContextDump qp d s
  | .regRead qp d => Sys2Proof.Machine.execRegRead qp d s
  | .regWrite qp d => Sys2Proof.Machine.execRegWrite qp d s
  | .mgmtInvalidOp qp d => Sys2Proof.Machine.execMgmtInvalidOp qp d s
  | .chunkSequenceTimeout op => Sys2Proof.Machine.execChunkSequenceTimeout op s
  | .flit link d crc => Sys2Proof.Machine.execFlit link d crc s
  | .idleControlFlit link => Sys2Proof.Machine.execIdleControlFlit link s
  | .ethLinkUp port => Sys2Proof.Machine.execEthLinkUp port s
  | .partFault part => Sys2Proof.Machine.execPartFault part s
  | .arrayNoProgress prog tns => Sys2Proof.Machine.execArrayNoProgress prog tns s
  | .coreFault svc => Sys2Proof.Machine.execCoreFault svc s
  | .avsbusVoutTimeout die => Sys2Proof.Machine.execAvsbusVoutTimeout die s
  | .railRange die => Sys2Proof.Machine.execRailRange die s
  | .refclkGap => Sys2Proof.Machine.execRefclkGap s
  | .configFlashWriteComplete ok => Sys2Proof.Machine.execConfigFlashWriteComplete ok s
  | .tftpData block data => Sys2Proof.Machine.execTftpData block data s
  | .currentGateEnd => Sys2Proof.Machine.execCurrentGateEnd s
  | .packageTemperatureRead temps => Sys2Proof.Machine.execPackageTemperatureRead temps s
  | .postponedMark key room => Sys2Proof.Machine.execPostponedMark key room s

end Sys2Proof.Machine
end

