-- ==== Sys2Proof/WellFormed.lean ====
section
/-!
DEFINITION. Sys2Proof/WellFormed.lean: which commands are well formed: every number within the field that carries it, every byte
string within its length, every list of the length that its format fixes. The meanings are total and do not use these checks; a
statement that needs one names it.
-/
namespace Sys2Proof.WellFormed

/-- No bit beyond the last byte (R7). -/
def blob (b : Blob) : Bool := decide (b.bits < 2 ^ (8 * b.len))

/-- Queue pair numbers are 24 bits (R295). -/
def qp (q : Nat) : Bool := decide (q < 2 ^ 24)

/-- A request arrives as the bytes of one SEND (R297). -/
def request (q : Nat) (d : Blob) : Bool := qp q && blob d

/-- INDEX_HANDLE, INDEX_GEN and SHARD_ID (R8, R14). -/
def key (k : ShardKey) : Bool := decide (k.handle < 2 ^ 32) && decide (k.gen < 2 ^ 16) && decide (k.shard < 2 ^ 16)

/-- A LUT record (R35, R67): M one of 16, 32, 48, 64, 96 and 128, 16 M entries of one byte, all 0 where the span was 0. -/
def lut (l : Lut) : Bool :=
  [16, 32, 48, 64, 96, 128].contains l.m && decide (l.e.length = 16 * l.m) && l.e.all (fun x => decide (x < 256)) &&
  decide (l.gen < 2 ^ 16) && decide (l.handle < 2 ^ 32) && (!l.zeroSpan || l.e.all (fun x => decide (x = 0)))

/-- SUB_REQUEST (R264): the fields within their widths, and no query vector without a rerank (R144). -/
def subRequest (m : SubRequestMsg) : Bool :=
  key m.key && decide (m.epoch < 2 ^ 32) && decide (m.k < 2 ^ 16) && decide (m.ef < 2 ^ 16) && decide (m.rerankDepth < 2 ^ 16) &&
  decide (m.widen < 4) && decide (m.budgetUs < 2 ^ 32) && decide (m.tid < 2 ^ 16) && lut m.lut &&
  (decide (m.rerankDepth ≠ 0) || m.qvec.isEmpty)

/-- One record of a sub-batch (R152). -/
def mutRec (r : MutRec) : Bool := blob r.body && decide (r.off < 2 ^ 32)

/-- A journal record (R160): INSERT, DELETE or UPSERT, local ids of 34 bits, the full-vector record within its length. -/
def jrec (r : JRec) : Bool :=
  decide (1 ≤ r.kind) && decide (r.kind ≤ 3) && decide (r.msn < 2 ^ 64) && decide (r.ckey < 2 ^ 64) && decide (r.lid < 2 ^ 34) &&
  decide (r.oldId < 2 ^ 34) && blob r.full

/-- A commit step (R157): MSNs that follow each other from FIRST_MSN to LAST_MSN. -/
def msnRun : Nat → List JRec → Bool
  | _, [] => true
  | k, r :: l => decide (r.msn = k) && msnRun (k + 1) l

def stepRec (m : StepRec) : Bool :=
  key m.key && m.recs.all jrec && msnRun m.firstMsn m.recs && decide (m.lastMsn + 1 = m.firstMsn + m.recs.length)

/-- A row operation (R205): read, WRITE or ADD, elements of 32 bits only where it writes. -/
def rowOp (m : RowOpMsg) : Bool :=
  decide (m.op < 3) && decide (m.handle < 2 ^ 32) && decide (m.gen < 2 ^ 16) && decide (m.row < 2 ^ 64) && (decide (m.op ≠ 0) || m.elems.isEmpty)

/-- A ballot (R264): round of 32 bits, node id of 16. -/
def ballot (b : Ballot) : Bool := decide (b.round < 2 ^ 32) && decide (b.node < 2 ^ 16)

def distinctNodes : List (BitVec 12) → Bool
  | [] => true
  | x :: l => !l.contains x && distinctNodes l

/-- A composition map (R270): the epoch of 32 bits, each member once, each council member once. -/
def cmap (m : CMap) : Bool :=
  decide (m.epoch < 2 ^ 32) && distinctNodes m.council && distinctNodes (m.members.map (·.node)) && m.shards.all (fun r => key r.key)

/-- A flash block lies in the planes and blocks of a package (R238). -/
def block (b : BlockId) : Bool := decide (b.plane < 16) && decide (b.block < 2 ^ 16)

/-- A package found at power-up (R236): a chip enable of 32 channels of 8. -/
def pkgInfo (p : PkgInfo) : Bool := decide (p.ce < 256) && decide (0 < p.pkg.luns) && decide (0 < p.pkg.planes)

/-- What power-up finds: eight DIMM channels (R397). -/
def population (p : Population) : Bool := decide (p.dimms.length = 8) && p.pkgs.all pkgInfo

/-- A page of the page table (R217) and an address of node linear memory (R215): 48 bits of address. -/
def page (p : Nat) : Bool := decide (p < 2 ^ 32)
def address (a : Nat) : Bool := decide (a < 2 ^ 48)

/-- An access on a path of R377. -/
def path (p : Path) : Bool :=
  match p with
  | .qp q => qp q
  | .i3c => true
  | .firmware => true

/-- Levels and neighbour lists that folding writes (R165, R166): up to level 5, at most 48 neighbours at level 0, 32 above. -/
def foldLists (top : Nat) (nbrs : List (List Nat)) : Bool :=
  decide (top ≤ 5) && decide (nbrs.length = top + 1) && nbrs.all (fun l => decide (l.length ≤ 48) && l.all (fun x => decide (x < 2 ^ 34)))

end Sys2Proof.WellFormed

namespace Sys2Proof

/-- A command is well formed. -/
def wellFormed (c : Instr) : Bool :=
  match c with
  | .query q d | .mutate q d | .lookupPool q d | .lookupWrite q d | .lookupAdd q d | .invalidRequestOpcode q d
  | .indexCreate q d | .codebookLoad q d | .codebookTrain q d | .dedupSet q d | .shardRead q d | .objectFree q d
  | .tableCreate q d | .tableFill q d | .tableActivate q d | .tableLoadRead q d | .encoderLoad q d | .tenantWrite q d
  | .qpCreate q d | .qpDestroy q d | .memRead q d | .memWrite q d | .flashDiscard q d | .cablingWrite q d | .mapRead q d
  | .councilSet q d | .nodeRetire q d | .compositionReform q d _ | .attest q d | .imageWrite q d | .calRead q d | .calWrite q d
  | .healthRead q d | .mramRead q d | .contextDump q d | .regRead q d | .regWrite q d | .mgmtInvalidOp q d => WellFormed.request q d
  | .responseWriteRejected q | .qpDrainEnd q | .ceMarkedPacket q | .cnp q | .rateRecoveryTimer q | .rcAck q _ | .ackTimeout q
  | .clientRnrNak q | .unsupportedOp q | .rdmaReadWindow q _ _ _ => WellFormed.qp q
  | .rdmaWriteWindow q _ _ d => WellFormed.request q d
  | .subRequest _ m => WellFormed.subRequest m
  | .subBatch _ m => WellFormed.key m.key && m.records.all WellFormed.mutRec
  | .step _ m | .stepForward _ m => WellFormed.stepRec m
  | .fill _ m => WellFormed.key m.key && m.recs.all WellFormed.jrec
  | .rebuildData _ m => WellFormed.key m.key && m.recs.all WellFormed.jrec && m.fulls.all (fun x => WellFormed.blob x.2)
  | .stepAccept _ k _ | .seal _ k _ | .batchHoldExpiry k | .compactedRowRelease k | .rowRebuild k _ | .commitStepTimer k
  | .primaryWritesComplete k | .partnerAcceptTimeout k | .dedupEntryExpiry k _ _ | .edgeRepair k _ _ | .repairSweep k _
  | .shardCheckpoint k _ | .forwardingEntryExpiry k | .sealHoldExpiry k | .dataRestore k _ _ | .postponedMark k _ => WellFormed.key k
  | .foldEntry k top nbrs => WellFormed.key k && WellFormed.foldLists top nbrs
  | .walkStart t => (match t with | .query _ => true | .fold k => WellFormed.key k)
  | .flit _ d _ => WellFormed.blob d
  | .copy _ m => WellFormed.key m.key && WellFormed.blob m.data
  | .rebuildRead _ m => WellFormed.key m.key
  | .rowOp _ m => WellFormed.rowOp m
  | .prepare _ m | .accepted _ m => WellFormed.ballot m.ballot
  | .promise _ m => WellFormed.ballot m.ballot && (match m.accepted with | some a => WellFormed.ballot a.1 && WellFormed.cmap a.2 | none => true)
  | .accept _ m => WellFormed.ballot m.ballot && WellFormed.cmap m.map
  | .commit _ m => WellFormed.ballot m.ballot
  | .epochData _ m => WellFormed.cmap m
  | .join _ m => WellFormed.blob m.report && WellFormed.blob m.certs
  | .promotionComplete p _ | .backgroundMove p | .moveCopyComplete p | .moveSwitch p _ => WellFormed.page p
  | .patrolRead a _ => WellFormed.address a
  | .unitWrite _ _ _ d => WellFormed.blob d
  | .programComplete b | .programFail b | .eraseComplete b _ | .blockRefresh b | .powerUpReadScan b _ => WellFormed.block b
  | .arp f | .neighbourDiscovery f | .nonRoceFrame f => WellFormed.blob f.src
  | .icmpEcho f d => WellFormed.blob f.src && WellFormed.blob d
  | .discovery _ _ d r => WellFormed.blob d && WellFormed.blob r
  | .romConditionsMet p => WellFormed.population p
  | .tftpWriteRequest _ _ d | .tftpData _ d | .i3cPrivateWrite d => WellFormed.blob d
  | .rcRegisterRead p _ | .loRegisterRead p _ | .registerWrite p _ _ => WellFormed.path p
  | .fanOut _ | .requestDeadline _ | .partialMsg _ _ _ | .tokenSnapshotBind _ | .misroute _ _ | .walkExpansion _
  | .memDataArrival _ _ | .walkDeadline _ _ | .walkRestore _ | .drainPreemptTimeout _ | .gweDrain _ _ | .passStart
  | .lutSlotWrite _ _ _ _ _ | .slotParamWrite _ _ _ _ _ | .cloveNop _ _ | .scan _ _ | .check _ _ | .compact _ _ | .abort _ _
  | .cloveClear _ _ | .cloveInvalidOpcode _ _ | .cloveRowDone _ | .resultRead _ | .summaryPoll _ _ | .unitNoProgress _
  | .refreshDue _ _ | .refreshComplete _ | .scrubPeriod _ | .mscCloveOff _ _ | .mscOpenWrite _ _ | .maceSelect _ _
  | .rerankReadComplete _ _ _ | .rerankCutoff _ | .mceDrain _ _ | .mutateResponseTimeout _ | .subBatchAnswer _ _
  | .generationSwitch _ | .operatorComplete _ | .tnsNop _ | .matmul _ | .add _ | .mul _ | .act _ | .norm _ | .softmax _
  | .permute _ | .gather _ | .tnsPool _ | .quant _ | .dequant _ | .convert _ | .l2normalize _ | .encodePq _ | .kmeans _
  | .programRestart _ _ _ | .tnsDrain _ _ | .subBag _ _ | .pooled _ _ | .rowAnswer _ _ | .loadWindowExpiry _ _ _ | .rowMove _ _
  | .rowInstalled _ _ | .rowForwardingExpiry _ _ _ | .redirectSet _ _ | .heatDecay | .dmaChunkComplete _ | .dmaRestart _ _
  | .pageSetFlush _ | .fillerTimeout _ | .unitRead _ _ | .flashReadComplete _ _ | .suspendTimeout _ _ _ | .mapPageReadComplete _
  | .reclaim | .lunTimeout _ _ _ | .mapCheckpoint | .zqCalibration _ | .ftlFormat _ | .laneTrained _ _ | .laneFail _
  | .spareLaneTrained _ _ | .retryLimit _ | .linkDown _ | .trainFailRetry _ _ | .plDisable _ _ | .messageTimeout _
  | .proposerBackoffExpiry | .epochFetch _ _ | .epochFetchTimeout _ | .suspect _ _ _ | .probe _ _ _ | .probeAnswer _ _
  | .probeWindowExpiry _ | .councilSilenceTimeout _ | .quorumLossTimeout | .loadReportTimer | .loadReport _ _ | .nodeWithdraw _ _
  | .joinAnswer _ _ _ _ | .admissionTestsComplete _ _ | .pfcFrame _ _ _ | .pauseFrame _ | .pauseStorm _ | .pauseStormEnd _
  | .calendarEntry | .qpSample | .ethLinkDown _ | .anRetry _ _ | .capLoopDecision _ _ _ | .capDeferralEnd | .thermalLoopDecision
  | .sensorSample _ _ | .regalertAssert _ | .regalertDeassert | .alertHoldExpiry | .alertRampStep | .droopGate _ _
  | .droopRecover _ _ | .currentGate | .opStepSettled _ | .ageingMarginCheck _ _ | .energySplit _ _ | .brownOut | .refclkLoss
  | .pwrfailAssert | .mramStagingWrite | .channelFail _ | .shadowStart _ _ | .shadowDropped _ | .shadowCompare _ _
  | .arbitration _ _ _ _ | .sparePowered _ | .oldUnitEmptied _ | .requal | .requalificationComplete _ _ | .recorderFreeze _
  | .recorderUnfreeze _ | .freezeTimeout _ | .recorderClear _ | .resetNAssert _ | .resetNRelease _ | .recoveryImageReceived _
  | .mboxCrc _ | .rollbackCommit | .recover | .topReset _ | .blkSnap _ | .blkErrClr _ | .blkIntStatClear _ _ | .blkIntSet _ _
  | .svcDrain _ _ | .i3cPrivateRead _ | .entdaa _ | .ibiRepeat | .bypass | .idcode | .samplePreload _ | .extest _ | .clamp | .highz
  | .tapReset | .chunkSequenceTimeout _ | .idleControlFlit _ | .ethLinkUp _ | .partFault _ | .arrayNoProgress _ _
  | .coreFault _ | .avsbusVoutTimeout _ | .railRange _ | .refclkGap | .configFlashWriteComplete _ | .currentGateEnd
  | .packageTemperatureRead _ => true

end Sys2Proof
end

