-- ==== Sys2Proof/Safety.lean ====
section
/-!
DEFINITION. Sys2Proof/Safety.lean: the terms in which statements speak of the machine: a node that serves, a node that is stopped, the
canonical form of its stores, a request that has passed its checks, an answer that has left, a message that is accepted.
-/
namespace Sys2Proof.Machine

/-- The node serves: it has not stopped, is not held in reset and has had no power-fail warning (R356, R412, R413). -/
abbrev Live (s : State) : Prop := nodeStopped s.node = false

/-! ### Stores -/

/-- The canonical form of a sparse store whose unlisted keys read as `d`: keys strictly rising from `b`, no entry equal to what its
key reads as anyway. -/
def canonicalFrom {α : Type} [DecidableEq α] (d : Nat → α) : Nat → Sparse α → Bool
  | _, [] => true
  | b, (k, v) :: m => decide (b ≤ k) && decide (v ≠ d k) && canonicalFrom d (k + 1) m

/-- The copies that the node journal holds bear consecutive numbers, the newest the one before the next (R395). -/
def Numbered (n : Node) : Prop :=
  ∀ i (h : i < n.jnl.length), (n.jnl[i]'h).jseq = (n.jnext + 2 ^ 32 - n.jnl.length + i) % 2 ^ 32

/-- The register space, the counters, the latches, the page headers with their rings, the delta rows of the stacks, the walk
contexts, the engines, the Clove units and the stacks are in canonical form; the node journal and the duplicate table stay within
their capacities (R353, R162), and the journal sequence within its 32 bits (R395); every request in progress has a number below the next
one. -/
structure StoresOk (n : Node) : Prop where
  regs     : canonicalFrom (fun a => w32 (regReset a)) 0 n.regs = true
  cnts     : canonicalFrom (fun _ => 0) 0 n.cnts = true
  latches  : canonicalFrom (fun _ => 0) 0 n.latches = true
  pages    : canonicalFrom (fun _ => PageSt.empty) 0 n.pages = true
  openRows : canonicalFrom (fun _ => emptyRow) 0 n.openRows = true
  ctxs     : canonicalFrom (fun _ => none) 0 n.ctxs = true
  engs     : canonicalFrom (fun _ => engEmpty) 0 n.engs = true
  clvs     : canonicalFrom (fun _ => clvIdle) 0 n.clvs = true
  stks     : canonicalFrom (fun _ => stkEmpty) 0 n.stks = true
  jnl      : n.jnl.length ≤ 1048576
  jnext    : n.jnext < 2 ^ 32
  numbers  : Numbered n
  dups     : n.dups.length ≤ 16777216
  reqs     : ∀ r ∈ n.reqs, r.id < n.nextReq

/-! ### Stopping -/

/-- The commands that a stopped node still answers: RESET_N and PWRFAIL_N, the MRAM staging that runs on VDD_AON, the I3C target and
the test port (R356, R383, R404, R412, R413). -/
def actsStopped (c : Instr) : Bool :=
  match c with
  | .resetNAssert _ => true
  | .resetNRelease _ => true
  | .pwrfailAssert => true
  | .mramStagingWrite => true
  | .i3cPrivateWrite _ => true
  | .i3cPrivateRead _ => true
  | .entdaa _ => true
  | .ibiRepeat => true
  | .rcRegisterRead .i3c _ => true
  | .loRegisterRead .i3c _ => true
  | .registerWrite .i3c _ _ => true
  | .bypass => true
  | .idcode => true
  | .samplePreload _ => true
  | .extest _ => true
  | .clamp => true
  | .highz => true
  | .tapReset => true
  | _ => false

/-- A stopped node with nothing waiting that a stopped node answers. -/
structure Inert (s : State) : Prop where
  stopped : nodeStopped s.node = true
  waiting : ∀ c ∈ s.pending, actsStopped c = false

/-! ### Requests -/

/-- The response with this status has left for RESP_ADDR with the descriptor's tag (R26, R29). -/
def Answered (n : Node) (q : Nat) (d : Blob) (status : Nat) : Prop :=
  ∃ r : Resp, r.status = status ∧
    Out.rdmaWriteImm q (bnum d 0x18 8) (bword d 0x20) (respHeader r) (bnum d 0x10 8 % 2 ^ 32) ∈ n.out

/-- A SEND that the ring takes and policing lets through (R296-R298, R302): its queue pair runs, a slot is free, the descriptor fits
it and is 64 bytes or longer, and its tenant has a credit. -/
structure Received (s : State) (q : Nat) (d : Blob) (x : Qp) : Prop where
  live   : Live s
  found  : qpFind s.node q = some x
  rts    : x.state = 1
  room   : x.slots.length < x.cfg.ringDepth
  fits   : d.len ≤ 2 ^ x.cfg.slotLog2
  whole  : 64 ≤ d.len
  credit : (police x.cfg.tid s.node).1 = true

/-- The node once the credit is taken. -/
def policed (s : State) (x : Qp) : Node := (police x.cfg.tid s.node).2

/-- The node once the MGMT request holds its place in the admission queue, before its operation runs. -/
def mgmtEntered (s : State) (q : Nat) (d : Blob) (x : Qp) (o : MgmtOp) : Node :=
  (reqNew x (respTo q s.node.tick d) d o.handle 0 0 0 (admitEntry x.cfg.tid (policed s x)).2).2

/-- A SEND that is received and for which the admission queue has a place (step 4 of R12). -/
structure Admitted (s : State) (q : Nat) (d : Blob) (x : Qp) : Prop extends Received s q d x where
  place : (admitEntry x.cfg.tid (policed s x)).1 = none
  ids   : ∀ r ∈ s.node.reqs, r.id < s.node.nextReq

/-- An MGMT request that passes every check up to its operation (R12, R386-R388, R392): tenant 0, a header in order, room in the
admission queue, no other operation on the handle, no write to config flash in progress, no map change under way, and a quorum where it
changes the map. -/
structure MgmtReady (s : State) (q : Nat) (d : Blob) (x : Qp) (o : MgmtOp) : Prop extends Admitted s q d x where
  header : mgmtBad x o d (policed s x) = none
  tid    : x.cfg.tid = 0
  handle : handleBusy (mgmtEntered s q d x o) s.node.nextReq o.handle = false
  flash  : s.node.flashJob = none
  busy   : mapBusy s.node = false
  quorum : o.map = true → s.node.quorum = true

/-- The response of an MGMT request has left: its status, ERR_DETAIL, class words, and the data before it. -/
def Replied (n : Node) (q : Nat) (d : Blob) (status err cls : Nat) (data : Blob) : Prop :=
  ∃ r : Resp, r.op = 4 ∧ r.status = status ∧ r.err = err ∧ r.cls = cls ∧
    Out.rdmaWriteImm q (bnum d 0x18 8) (bword d 0x20) (respHeader r) (bnum d 0x10 8 % 2 ^ 32) ∈ n.out ∧
    (data.len ≠ 0 → Out.rdmaWrite q (bnum d 0x18 8 + 64) (bword d 0x20) data ∈ n.out)

/-- The node wants a map change committed, and this request waits for it (R392). -/
def Wanted (n : Node) (id : Nat) (c : MapChange) : Prop := c ∈ n.council.wants ∧ ∃ j ∈ n.mapJobs, j.req = id ∧ j.change = c

/-- A QUERY that passes check steps 2 to 4 of R12 for the current generation `g` of its index, at a member that admits client
requests. -/
structure QueryReady (s : State) (q : Nat) (d : Blob) (x : Qp) (g : IdxGen) : Prop extends Admitted s q d x where
  serves : admitsClients s.node = true
  header : queryHeaderBad x d (policed s x) = none
  index  : currentIdx s.node (bword d 8) = some g
  items  : queryItemsBad g d (policed s x) = none
  rights : hasRights s.node false x.cfg.tid g.handle = true
  aux    : qKind d = 0 ∨ hasRights s.node false x.cfg.tid (qAux d) = true

/-- A MUTATE that passes check steps 2 to 4 of R12, framed as these records (R152). -/
structure MutateReady (s : State) (q : Nat) (d : Blob) (x : Qp) (g : IdxGen) (recs : List MutRec) : Prop extends Admitted s q d x where
  serves : admitsClients s.node = true
  header : mutateHeaderBad x d (policed s x) = none
  index  : currentIdx s.node (bword d 8) = some g
  framed : mutateRecs d = .inr recs
  rights : hasRights s.node true x.cfg.tid g.handle = true

/-- A LOOKUP of a table operation that passes check steps 2 to 4 of R12 for the current generation of its table. -/
structure LookupReady (s : State) (q op : Nat) (d : Blob) (x : Qp) (tb : TabSt) : Prop extends Admitted s q d x where
  serves : admitsClients s.node = true
  header : lookupHeaderBad x op d (some tb) = none
  table  : currentTab s.node (bword d 8) = some tb
  items  : lookupItemsBad op d tb = none
  rights : hasRights s.node (decide (op ≠ 0)) x.cfg.tid (bword d 8) = true

/-- No request has this number (any more). -/
def Over (n : Node) (id : Nat) : Prop := ∀ r ∈ n.reqs, r.id ≠ id

/-- This message has left for a node under this tag, over some link or to this node itself (R262, R264, R268). -/
def Sent (n : Node) (dst tag : Nat) (m : Msg) : Prop :=
  ∃ via, Out.msg via n.nodeId.toNat dst (msgLevel n dst m) n.map.epoch 0 tag m ∈ n.out

/-! ### Units -/

/-- A compute unit after a write of its control register (R90, R132, R193): DRAIN 1 drains an ACTIVE one, DRAIN 0 brings a DRAINING one
that no fault takes away back. -/
def drainedUnit (v : Word) (u : UnitSt) : UnitSt :=
  if v.toNat.testBit 31 then (if u.state = 0 then { u with state := 2 } else u)
  else if u.state = 2 ∧ u.leaving = none then { u with state := 0 } else u

/-! ### Clove windows -/

/-- A window write to a unit, or by broadcast to a pseudo-channel of a stack, reaches this unit (R105, R106). -/
def reaches (n : Node) (st : Nat) (target : Option Nat) (pc k : Nat) : Bool :=
  inMode n k && (match target with | some u => decide (k = st * 768 + u) | none => decide (k / 768 = st) && decide (unitPc k = pc))

/-- A row that a command to a unit may name: inside the stack's open region, below the window rows, inside the unit's bounds (R101). -/
def rowAllowed (n : Node) (u : UnitId) (r : Bool × Nat) : Bool :=
  let b := openBounds n u.stack.val
  decide (b.1 ≤ r.2) && decide (r.2 ≤ b.2) && decide (r.2 < 0xFFF0) && !outside (clvGet n (unitNo u)) r

/-! ### Fabric messages -/

/-- A message that passes R266 to R269 here: well formed, from a member that is not fenced, addressed to this node, not received
before, and of no newer epoch unless it is of the MAP class. -/
structure Taken (n : Node) (h : MsgHdr) (m : Msg) : Prop where
  formed : malformed h m = false
  hops   : h.hops.toNat ≤ 6
  member : foreign n h m = false
  here   : h.dst = n.nodeId
  fresh  : (n.seen.filter (fun x => n.tick ≤ x.2.2 + ticksMs 10)).any (fun x => x.1 = h.src.toNat && x.2.1 = seenTag h m) = false
  epoch  : h.epoch.toNat ≤ n.map.epoch ∨ h.cls.toNat = 0

/-- The node when such a message acts on it: the tag is noted, a MAP message counts as a sign of life, suspicion of its sender ends. -/
def heard (n : Node) (h : MsgHdr) (m : Msg) : Node :=
  let n1 : Node := { n with
    seen := n.seen.filter (fun x => n.tick ≤ x.2.2 + ticksMs 10) ++ [(h.src.toNat, seenTag h m, n.tick)] }
  let n2 : Node := if h.cls.toNat = 0 then
      quorumCheck { n1 with
        mapHeard := sset 0 n1.mapHeard h.src.toNat (n1.tick + 1), mapTimeouts := sset 0 n1.mapTimeouts h.src.toNat 0 }
    else n1
  { n2 with suspicions := n2.suspicions.filter (fun s => s.node ≠ h.src) }

end Sys2Proof.Machine
end

