-- ==== Sys2Proof/Certificates/Slice0/Obligations.lean ====
section
/-!
DEFINITION. Sys2Proof/Certificates/Slice0/Obligations.lean: the statements for the provers. Each says what commands do, or what every
command keeps, in the terms of Sys2Proof/Safety.lean and of the named operations.
-/
open Sys2Proof Sys2Proof.Machine

/-- A step runs the command at the front of the queue. For every command c, every state s and every rest of the queue, the step of
s with c at the front is exec of c on s with the queue's rest. (00_scope.md.) -/
def Obligations.FrontCommandRuns : Prop :=
  ∀ (c : Instr) (s : State) (rest : List Instr), step { s with pending := c :: rest } = exec c { s with pending := rest }

/-- A step on an empty queue advances the interval timer. With no command waiting, a step answers a next state in which the local
interval timer has counted one tick, modulo 2^64, and nothing else has changed. That the tick stands in the empty queue's step is
the model's choice (log 2). (13_power_and_heat.md.) -/
def Obligations.IdleStepTicks : Prop :=
  ∀ s : State, s.pending = [] →
    step s = .next { s with node := { s.node with tick := (s.node.tick + 1) % 2 ^ 64 } }

/-- Every command completes and leaves the queue alone. Every command of the table, in every state, answers a next state (no
fault, no refusal), and the waiting commands are the same afterwards. That exec leaves the queue alone is the model's form (log
2). (00_scope.md.) -/
def Obligations.EveryCommandCompletes : Prop :=
  ∀ (c : Instr) (s : State), ∃ t, exec c s = .next t ∧ t.pending = s.pending

/-- A stopped node answers nothing but resets, its board interfaces and its MRAM. On a node that a fatal event or a power-fail
warning has stopped, or that is held in reset, every command other than RESET_N, PWRFAIL_N, the MRAM staging, the I3C target's and
the test port's leaves the whole state as it is. (14_faults_and_recorder.md, 17_package_and_power_up.md, 15_boot_and_identity.md,
16_register_pages.md.) -/
def Obligations.StoppedNodeUnchanged : Prop :=
  ∀ (c : Instr) (s : State), nodeStopped s.node = true → actsStopped c = false → exec c s = .next s

/-- A stopped node stays stopped through every step until a reset is waiting. If a node is stopped and no waiting command is one
that a stopped node answers, then after every step the same holds, and the step has changed nothing of the node but its interval
timer, and that only with nothing waiting. (14_faults_and_recorder.md, 17_package_and_power_up.md.) -/
def Obligations.StoppedNodeStaysInert : Prop :=
  ∀ s t : State, Inert s → step s = .next t →
    Inert t ∧ t.node = { s.node with tick := t.node.tick } ∧ (s.pending ≠ [] → t.node.tick = s.node.tick)

/-- Every step keeps the stores in canonical form and within their capacities. If the register space, the counters, the latches,
the page headers with their rings, the delta rows, the walk contexts, the engines, the Clove units and the stacks are in canonical
form, the node journal holds at most 1,048,576 copies that bear consecutive numbers of 32 bits (R353, R395), the duplicate table
at most 16,777,216 entries (R162), and every request in progress carries a number below the next one, then the same holds after
every step of every command. The canonical form is the model's own. (14_faults_and_recorder.md, 16_register_pages.md,
04_clove_units.md, 06_mutations_and_visibility.md.) -/
def Obligations.StoresOkKept : Prop :=
  ∀ s t : State, StoresOk s.node → step s = .next t → StoresOk t.node

/-- The stores are in canonical form at reset. The state after reset has every store empty or in canonical form, so that the
invariant StoresOkKept starts there. (16_register_pages.md.) -/
def Obligations.StoresOkAtReset : Prop :=
  StoresOk State.reset.node

/-- No step lowers FUSE_COUNT or changes the serial number. Whatever command a step runs, the rollback count in the fuses is
afterwards at least what it was, no revocation bit has gone, and the serial number, the root digest and the device seed are the
same. (15_boot_and_identity.md.) -/
def Obligations.FuseCountNeverFalls : Prop :=
  ∀ s t : State, step s = .next t →
    s.node.fuses.rollback ≤ t.node.fuses.rollback ∧ s.node.fuses.revoke ||| t.node.fuses.revoke = t.node.fuses.revoke ∧
    t.node.fuses.serial = s.node.fuses.serial ∧ t.node.fuses.rootDigest = s.node.fuses.rootDigest ∧
    t.node.fuses.seed = s.node.fuses.seed

/-- What reset leaves. After reset the interval timer reads 0, TOP_STATE and BOOT_STATE read ROM, every stored register reads its
reset value, every counter 0, no queue pair is there but tenant 0 is, with its reset record, no request is in progress, no map is
held, and no command waits. That every Clove unit, engine, link and delta row stands as unlisted is how the model holds it.
(16_register_pages.md, 15_boot_and_identity.md, 13_power_and_heat.md, 12_ethernet_and_admission.md,
11_fabric_and_compositions.md.) -/
def Obligations.ResetState : Prop :=
  State.reset.pending = [] ∧
  (∀ a, regStored State.reset.node a = w32 (regReset a)) ∧ (∀ a, sget 0 State.reset.node.cnts a = 0) ∧
  State.reset.node.tick = 0 ∧ State.reset.node.topState = 0 ∧ State.reset.node.bootState = 0 ∧
  State.reset.node.qps = [] ∧ State.reset.node.reqs = [] ∧ State.reset.node.map.epoch = 0 ∧
  (∃ t ∈ State.reset.node.tenants, t.tid = 0 ∧ t.cfg.rate = 1000 ∧ t.cfg.burst = 16) ∧ Live State.reset

/-- RESET_N and TOP_RESET. RESET_N asserted for at least 10 us holds the node in reset with its links and Ethernet ports down;
shorter than 1 us it does nothing. Its release restarts the timer, samples the straps, leaves ROM, no queue pair and no request,
and keeps fuses, identity and the MRAM rings, the cause being free where a power-fail warning came before (log 32). A keyed write
of TOP_RESET does the same without sampling the straps; a write without its key does nothing. (17_package_and_power_up.md,
16_register_pages.md, 15_boot_and_identity.md.) -/
def Obligations.ResetPinAndTopReset : Prop :=
  (∀ (s : State) (ns : Nat), s.node.boot.inReset = false → 10000 ≤ ns →
    ∃ t, exec (.resetNAssert ns) s = .next t ∧ t.node.boot.inReset = true ∧ t.node.ethPorts = [] ∧
      (∀ l ∈ t.node.links, ∀ x, l.2 = some x → x.state = 0) ∧ t.node.mram = s.node.mram ∧ t.node.tick = s.node.tick) ∧
  (∀ (s : State) (ns : Nat), ns < 1000 → exec (.resetNAssert ns) s = .next s) ∧
  (∀ (s : State) (straps : BitVec 4), s.node.boot.inReset = true →
    ∃ t, exec (.resetNRelease straps) s = .next t ∧ t.node.boot.inReset = false ∧ t.node.boot.straps = straps.toNat ∧ t.node.tick = 0 ∧
      t.node.topState = 0 ∧ t.node.bootState = 0 ∧ t.node.qps = [] ∧ t.node.reqs = [] ∧ t.node.regs = [] ∧ t.node.pwrfail = false ∧
      t.node.fuses = s.node.fuses ∧ t.node.identity = s.node.identity ∧ t.node.mram.power = s.node.mram.power ∧
      t.node.mram.security = s.node.mram.security ∧ t.node.mram.fatal = s.node.mram.fatal ∧
      (s.node.pwrfail = false → t.node.boot.cause = 1)) ∧
  (∀ (s : State) (v : Word), Live s → wbits v 31 16 = 0x5A17 → wbits v 0 0 = 1 →
    ∃ t, exec (.topReset v) s = .next t ∧ t.node.boot.cause = 2 ∧ t.node.boot.straps = s.node.boot.straps ∧ t.node.tick = 0 ∧
      t.node.topState = 0 ∧ t.node.qps = [] ∧ t.node.reqs = [] ∧ t.node.regs = [] ∧ t.node.fuses = s.node.fuses) ∧
  (∀ (s : State) (v : Word), wbits v 31 16 ≠ 0x5A17 ∨ wbits v 0 0 ≠ 1 → exec (.topReset v) s = .next s)

/-- The test access port. IDCODE shifts out 0x1960054B in 32 bits; BYPASS shifts out one bit; SAMPLE/PRELOAD loads the boundary
scan register; EXTEST, CLAMP and HIGHZ take hold only while RESET_N is asserted and act as BYPASS at any other time; a reset of
the port leaves the node outside the port as it is. That the port's reset selects IDCODE is the model's choice.
(17_package_and_power_up.md.) -/
def Obligations.TestPort : Prop :=
  (∀ s : State, exec .idcode s = .next { s with node := { s.node with
    tap := { ir := 2, bsr := s.node.tap.bsr, drive := 0 }, out := s.node.out ++ [.tdo 32 0x1960054B] } }) ∧
  (∀ s : State, exec .bypass s = .next { s with node := { s.node with
    tap := { ir := 1, bsr := s.node.tap.bsr, drive := 0 }, out := s.node.out ++ [.tdo 1 0] } }) ∧
  (∀ s : State, exec .tapReset s = .next { s with node := { s.node with tap := { ir := 2, bsr := s.node.tap.bsr, drive := 0 } } }) ∧
  (∀ (s : State) (pins : Nat), exec (.samplePreload pins) s =
    .next { s with node := { s.node with tap := { ir := 3, bsr := pins, drive := 0 } } }) ∧
  (∀ (s : State) (pins : Nat), s.node.boot.inReset = true → exec (.extest pins) s =
    .next { s with node := { s.node with tap := { ir := 4, bsr := pins, drive := 1 } } }) ∧
  (∀ s : State, s.node.boot.inReset = true → exec .clamp s =
    .next { s with node := { s.node with tap := { ir := 5, bsr := s.node.tap.bsr, drive := 1 } } }) ∧
  (∀ s : State, s.node.boot.inReset = true → exec .highz s =
    .next { s with node := { s.node with tap := { ir := 6, bsr := s.node.tap.bsr, drive := 2 } } }) ∧
  (∀ (s : State) (pins : Nat), s.node.boot.inReset = false →
    exec (.extest pins) s = exec .bypass s ∧ exec .clamp s = exec .bypass s ∧ exec .highz s = exec .bypass s)

/-- What the ROM does, RECOVER, and ROLLBACK_COMMIT. Once the conditions of the ROM are met it stops with IDENTITY_FAILED where
the device key does not match; it enters recovery where the strap, an earlier RECOVER or a check of the image says so; otherwise
the image runs and the firmware starts with the device seed locked. ROLLBACK_COMMIT raises FUSE_COUNT to the running image's
SEC_VERSION, never lowering it, and adds its REVOKE bits. RECOVER sets its state bit and changes nothing else.
(15_boot_and_identity.md, 16_register_pages.md.) -/
def Obligations.RomAndFuses : Prop :=
  (∀ (s : State) (p : Population), Live s → s.node.topState = 0 → s.node.bootState = 0 →
    ∃ t, exec (.romConditionsMet p) s = .next t ∧
      (deviceOk s.node = false → t.node.bootState = 3 ∧ t.node.topState = 0) ∧
      (deviceOk s.node = true → s.node.boot.toRecovery = true ∨ s.node.boot.straps % 2 = 1 → t.node.topState = 1 ∧ t.node.bootState = 1) ∧
      (deviceOk s.node = true → s.node.boot.toRecovery = false → s.node.boot.straps % 2 = 0 → imageCheck s.node.fuses s.node.image ≠ 0 →
        t.node.topState = 1 ∧ t.node.bootState = 1) ∧
      (deviceOk s.node = true → s.node.boot.toRecovery = false → s.node.boot.straps % 2 = 0 → imageCheck s.node.fuses s.node.image = 0 →
        ∃ m, m.running = s.node.image ∧ m.boot.seedLocked = true ∧ m.recovered = decide (s.node.boot.cause = 3) ∧ t.node = firmware p m)) ∧
  (∀ s : State, Live s → s.node.bootState = 2 →
    ∃ t, exec .rollbackCommit s = .next t ∧
      t.node.fuses = { s.node.fuses with
        rollback := Nat.max s.node.fuses.rollback (Nat.min 64 (imgVersion s.node.running)), revoke := s.node.fuses.revoke ||| imgRevoke s.node.running } ∧
      t.node.image = s.node.image ∧ t.node.running = s.node.running ∧ t.node.regs = s.node.regs) ∧
  (∀ s : State, Live s → exec .recover s = .next { s with node := { s.node with recoverNext := true } })

/-- Recovery over TFTP and the I3C mailbox, and config flash. In recovery a TFTP write request for lk3-image opens a transfer with
blocks of up to 8,192 bytes; the next DATA block is kept, and a shorter one ends the transfer and closes the other source; a
mailbox chunk whose CRC holds and which is the one expected is kept, and the one that makes the image whole closes the other
source. An image received whole that R362 accepts is written to config flash and the node resets itself with the fuses as they
are; one that is refused leaves the image region as it is and recovery goes on. A write to config flash that succeeds leaves the
new contents in its region. (15_boot_and_identity.md, 16_register_pages.md.) -/
def Obligations.RecoverySources : Prop :=
  (∀ (s : State) (blk : Option Nat) (client : Blob), Live s → s.node.topState = 1 → s.node.recSource = 0 →
      s.node.rcv.tftp.any (fun t => t.client ≠ client) = false → blk ≠ some 0 →
    ∃ t, exec (.tftpWriteRequest "lk3-image" blk client) s = .next t ∧
      t.node.rcv.tftp = some { blk := Nat.min 8192 (blk.getD 512), next_ := 1, data := { len := 0, bits := 0 }, client := client } ∧
      t.node.image = s.node.image ∧ t.node.recSource = 0) ∧
  (∀ (s : State) (block : Nat) (data : Blob) (w : Tftp), Live s → s.node.topState = 1 → s.node.rcv.tftp = some w →
      block = w.next_ % 65536 → data.len ≤ w.blk →
    ∃ t, exec (.tftpData block data) s = .next t ∧
      (data.len < w.blk → t.node.recSource = 1 ∧ t.node.rcv.whole = bappend w.data data ∧ t.node.rcv.tftp = none) ∧
      (data.len = w.blk → t.node.rcv.tftp = some { w with next_ := w.next_ + 1, data := bappend w.data data } ∧
        t.node.recSource = s.node.recSource) ∧
      Out.frame 0 7 (bofNat 2 block) ∈ t.node.out) ∧
  (∀ (s : State) (crc : Word), Live s → s.node.topState = 1 → s.node.recSource = 0 → crc32c s.node.rcv.page = crc.toNat →
      s.node.rcv.chunk = 0 ∨ s.node.rcv.chunk = s.node.rcv.next_ →
    ∃ t, exec (.mboxCrc crc) s = .next t ∧ t.node.rcv.next_ = s.node.rcv.chunk + 1 ∧
      t.node.rcv.image = (if s.node.rcv.chunk = 0 then s.node.rcv.page else bappend s.node.rcv.image s.node.rcv.page) ∧
      (imageWhole t.node.rcv.image = true → t.node.recSource = 2 ∧ t.node.rcv.whole = t.node.rcv.image) ∧
      (imageWhole t.node.rcv.image = false → t.node.recSource = 0 ∧ t.node.rcv.stat = 1)) ∧
  (∀ (s : State) (source : Nat), Live s → s.node.topState = 1 → source ≠ 0 → s.node.recSource = source →
      s.node.flashJob = none →
    ∃ t, exec (.recoveryImageReceived source) s = .next t ∧ t.node.fuses = s.node.fuses ∧
      (imageCheck s.node.fuses s.node.rcv.whole = 0 → t.node.image = s.node.rcv.whole ∧ t.node.boot.cause = 3 ∧ t.node.topState = 0) ∧
      (imageCheck s.node.fuses s.node.rcv.whole ≠ 0 → t.node.image = s.node.image ∧ t.node.recSource = 0 ∧ t.node.topState = 1)) ∧
  (∀ (s : State) (j : FlashJob), Live s → s.node.flashJob = some j →
    ∃ t, exec (.configFlashWriteComplete true) s = .next t ∧ t.node.flashJob = none ∧
      (j.cal = true → t.node.calFlash = j.data ∧ t.node.image = s.node.image ∧ t.node.calPending = true) ∧
      (j.cal = false → t.node.image = j.data ∧ t.node.calFlash = s.node.calFlash))

/-- Reads of read-clear counters, of the low half of a 64-bit counter and of its latch. A read of an RC register answers the count
and leaves the counter at 0 and every other one as it was. A read of a _LO register answers bits 31:0 of its counter and latches
bits 63:32 for the path that read it; the counter goes on. A read of the _HI register on that path answers the latch and changes
nothing. The clauses speak of registers of which nothing is left free (log 33). (16_register_pages.md, 00_scope.md.) -/
def Obligations.RegisterReads : Prop :=
  (∀ (s : State) (addr : BitVec 24) (b : Blk) (i : Nat), Live s → addr.toNat % 4 = 0 → addr.toNat < 0x800000 →
      regKind addr.toNat = some .rc → blkOfPage (addr.toNat / 0x1000) = some (b, i) → isLo b (addr.toNat % 0x1000) = false →
      isLo b (addr.toNat % 0x1000 - 4) = false → freeBits b (addr.toNat % 0x1000) = 0 → b ≠ .rdma →
      pageOf b i * 0x1000 + addr.toNat % 0x1000 = addr.toNat →
    ∃ t, exec (.rcRegisterRead .firmware addr) s = .next t ∧
      t.node = { s.node with
        cnts := t.node.cnts, out := s.node.out ++ [.regValue .firmware addr.toNat (w32 (sget 0 s.node.cnts addr.toNat))] } ∧
      sget 0 t.node.cnts addr.toNat = 0 ∧ (∀ a, a ≠ addr.toNat → sget 0 t.node.cnts a = sget 0 s.node.cnts a)) ∧
  (∀ (s : State) (q : Nat) (addr : BitVec 24) (b : Blk) (i : Nat), Live s → addr.toNat % 4 = 0 → addr.toNat < 0x800000 →
      regKind addr.toNat = some .lo64 → blkOfPage (addr.toNat / 0x1000) = some (b, i) → isLo b (addr.toNat % 0x1000) = true →
      isLo b (addr.toNat % 0x1000 - 4) = false → freeBits b (addr.toNat % 0x1000) = 0 →
      pageOf b i * 0x1000 + addr.toNat % 0x1000 = addr.toNat →
    ∃ t, exec (.loRegisterRead (.qp q) addr) s = .next t ∧
      t.node = { s.node with
        latches := t.node.latches, out := s.node.out ++ [.regValue (.qp q) addr.toNat (w32 (sget 0 s.node.cnts addr.toNat))] } ∧
      sget 0 t.node.latches (latchKey (.qp q) (addr.toNat + 4)) = w32 (sget 0 s.node.cnts addr.toNat / 2 ^ 32) ∧
      (∀ a, a ≠ latchKey (.qp q) (addr.toNat + 4) → sget 0 t.node.latches a = sget 0 s.node.latches a)) ∧
  (∀ (s : State) (q : Nat) (addr : BitVec 24) (k : RegKind) (b : Blk) (i : Nat), Live s → addr.toNat % 4 = 0 → addr.toNat < 0x800000 →
      regKind addr.toNat = some k → blkOfPage (addr.toNat / 0x1000) = some (b, i) → 4 ≤ addr.toNat % 0x1000 →
      isLo b (addr.toNat % 0x1000 - 4) = true →
    exec (.loRegisterRead (.qp q) addr) s = .next { s with node := { s.node with
      out := s.node.out ++ [.regValue (.qp q) addr.toNat (sget 0 s.node.latches (latchKey (.qp q) addr.toNat))] } })

/-- Writes of registers. A write of an RW register that no rule of its own acts on stores the bits that the register has and
nothing else of the node; a write of a read-only, read-clear, counter or unlisted register is ignored. (16_register_pages.md,
00_scope.md.) -/
def Obligations.RegisterWrites : Prop :=
  (∀ (s : State) (p : Path) (addr : BitVec 24) (v : Word) (r m : Nat) (b : Blk) (i : Nat), Live s → p ≠ .i3c → addr.toNat % 4 = 0 →
      addr.toNat < 0x800000 → regKind addr.toNat = some (.rw r m) → blkOfPage (addr.toNat / 0x1000) = some (b, i) →
      0x100 ≤ addr.toNat % 0x1000 →
      [Blk.top, .pwr, .thm, .recb, .boot, .mmu, .ftl, .svc, .gwe, .mce, .tns, .msc, .eth, .pl].contains b = false →
    ∃ t, exec (.registerWrite p addr v) s = .next t ∧ t.node = { s.node with regs := t.node.regs } ∧
      regStored t.node addr.toNat = v &&& w32 m ∧ (∀ a, a ≠ addr.toNat → regStored t.node a = regStored s.node a)) ∧
  (∀ (s : State) (p : Path) (addr : BitVec 24) (v : Word), Live s → p ≠ .i3c → addr.toNat < 0x800000 →
      regKind addr.toNat = none ∨ regKind addr.toNat = some .ro ∨ regKind addr.toNat = some .rc ∨ regKind addr.toNat = some .lo64 ∨
        regKind addr.toNat = some .hi64 →
    exec (.registerWrite p addr v) s = .next s)

/-- BLK_CTRL.SNAP, BLK_ERR_CLR and the interrupt causes of a page. BLK_ERR_CLR clears the captured cause and its information; a
write of 1s to BLK_INT_STAT clears those causes; BLK_INT_SET raises the causes written, of the three there are; SNAP of a page
other than TOP stores the timer and the counts of the page in ten words. Every other page, and everything of the node but the
interrupt that may be raised, is as before. (16_register_pages.md, 14_faults_and_recorder.md.) -/
def Obligations.HeaderCommands : Prop :=
  (∀ (s : State) (page : BitVec 12), Live s → (blkOfPage page.toNat).isSome →
    ∃ t, exec (.blkErrClr page) s = .next t ∧ t.node = { s.node with pages := t.node.pages } ∧
      pageGet t.node page.toNat = { pageGet s.node page.toNat with cause := 0, lo := 0, hi := 0 } ∧
      (∀ p, p ≠ page.toNat → pageGet t.node p = pageGet s.node p)) ∧
  (∀ (s : State) (page : BitVec 12) (v : Word), Live s → (blkOfPage page.toNat).isSome →
    ∃ t, exec (.blkIntStatClear page v) s = .next t ∧ t.node = { s.node with pages := t.node.pages } ∧
      pageGet t.node page.toNat = { pageGet s.node page.toNat with intStat := (pageGet s.node page.toNat).intStat &&& ~~~ v } ∧
      (∀ p, p ≠ page.toNat → pageGet t.node p = pageGet s.node p)) ∧
  (∀ (s : State) (page : BitVec 12) (v : Word), Live s → (blkOfPage page.toNat).isSome →
    ∃ t, exec (.blkIntSet page v) s = .next t ∧
      t.node = { s.node with pages := t.node.pages, out := t.node.out, i3c := t.node.i3c } ∧
      pageGet t.node page.toNat = { pageGet s.node page.toNat with intStat := (pageGet s.node page.toNat).intStat ||| (v &&& 7) } ∧
      (∀ p, p ≠ page.toNat → pageGet t.node p = pageGet s.node p)) ∧
  (∀ (s : State) (page : BitVec 12), Live s → (blkOfPage page.toNat).isSome → page ≠ 0 →
    ∃ t, exec (.blkSnap page) s = .next t ∧ t.node = { s.node with pages := t.node.pages, free := t.node.free } ∧
      (pageGet t.node page.toNat).snap.take 2 = [w32 s.node.tick, w32 (s.node.tick / 2 ^ 32)] ∧
      (pageGet t.node page.toNat).snap.length = 10 ∧ (∀ p, p ≠ page.toNat → pageGet t.node p = pageGet s.node p))

/-- Freezing, unfreezing and clearing a recorder ring. FREEZE marks the ring frozen from this tick and changes no record; its end,
by the write or 10 ms after FROZEN rose, makes the ring the held records behind those kept (the newest 128), adds the lost reports
to DROPPED up to 255 and empties the holding buffer; CLEAR empties a ring that is not frozen, and is noted on one that is. Other
pages are as before. (14_faults_and_recorder.md.) -/
def Obligations.RecorderFreeze : Prop :=
  (∀ (s : State) (page : BitVec 12), Live s → (blkOfPage page.toNat).isSome → (pageGet s.node page.toNat).frozen = false →
    ∃ t, exec (.recorderFreeze page) s = .next t ∧ t.node = { s.node with pages := t.node.pages } ∧
      pageGet t.node page.toNat = { pageGet s.node page.toNat with frozen := true, frozeAt := s.node.tick } ∧
      (∀ p, p ≠ page.toNat → pageGet t.node p = pageGet s.node p)) ∧
  (∀ (s : State) (page : BitVec 12) (c : Instr), Live s → (blkOfPage page.toNat).isSome → (pageGet s.node page.toNat).frozen = true →
      c = .recorderUnfreeze page ∨ c = .freezeTimeout page →
    ∃ t, exec c s = .next t ∧ (pageGet t.node page.toNat).frozen = false ∧ (pageGet t.node page.toNat).held = [] ∧
      (pageGet t.node page.toNat).ring = (pageGet s.node page.toNat).held.foldl (fun r e => lpushMax 128 r e)
        (if (pageGet s.node page.toNat).clearReq then [] else (pageGet s.node page.toNat).ring) ∧
      (pageGet t.node page.toNat).dropped = Nat.min 255
        ((if (pageGet s.node page.toNat).clearReq then 0 else (pageGet s.node page.toNat).dropped) + (pageGet s.node page.toNat).lost) ∧
      (∀ p, p ≠ page.toNat → pageGet t.node p = pageGet s.node p) ∧ t.node.jnl = s.node.jnl ∧ t.node.mram = s.node.mram) ∧
  (∀ (s : State) (page : BitVec 12), Live s → (blkOfPage page.toNat).isSome → (pageGet s.node page.toNat).frozen = false →
    ∃ t, exec (.recorderClear page) s = .next t ∧ t.node = { s.node with pages := t.node.pages } ∧
      pageGet t.node page.toNat = { pageGet s.node page.toNat with ring := [], dropped := 0 }) ∧
  (∀ (s : State) (page : BitVec 12), Live s → (blkOfPage page.toNat).isSome → (pageGet s.node page.toNat).frozen = true →
    ∃ t, exec (.recorderClear page) s = .next t ∧ t.node = { s.node with pages := t.node.pages } ∧
      pageGet t.node page.toNat = { pageGet s.node page.toNat with clearReq := true })

/-- The DRAIN bit of a compute unit. A write to the control register of a graph walk engine, Mace unit, tensor array or service
core, in any state, stores the bits that the register has (a RERANK_GUARD_US above 100 as 100); with DRAIN 1 an ACTIVE unit reads
DRAINING afterwards, with DRAIN 0 a DRAINING unit that no fault takes away reads ACTIVE again, and otherwise the unit's state
stays; every other unit's state stays. A draining engine's 20 us run from the write. A draining Mace unit's unfinished request
goes to another active unit with room, which restarts its rerank. (03_graph_walk.md, 05_selection_and_filtering.md,
07_tensor_arrays.md, 16_register_pages.md.) -/
def Obligations.DrainBits : Prop :=
  (∀ (s : State) (e : Fin 72) (v : Word), Live s →
    ∃ t, exec (.gweDrain e v) s = .next t ∧
      unitGet t.node (pageOf .gwe e.val) = drainedUnit v (unitGet s.node (pageOf .gwe e.val)) ∧
      (∀ p, p ≠ pageOf .gwe e.val → unitGet t.node p = unitGet s.node p) ∧
      regStored t.node (regAddr .gwe e.val 0x104) = v &&& 0x80FFFF00#32 ∧
      (∀ a, a ≠ regAddr .gwe e.val 0x104 → regStored t.node a = regStored s.node a) ∧
      (v.toNat.testBit 31 = true → (engGet t.node e.val).drainAt = some ((engGet s.node e.val).drainAt.getD s.node.tick)) ∧
      (v.toNat.testBit 31 = false → (unitGet s.node (pageOf .gwe e.val)).leaving = none → (engGet t.node e.val).drainAt = none) ∧
      (engGet t.node e.val).ready = (engGet s.node e.val).ready ∧ (∀ k, k ≠ e.val → engGet t.node k = engGet s.node k) ∧
      t.node = { s.node with regs := t.node.regs, units := t.node.units, engs := t.node.engs }) ∧
  (∀ (s : State) (m : Fin 18) (v : Word), Live s →
    ∃ t, exec (.mceDrain m v) s = .next t ∧
      unitGet t.node (pageOf .mce m.val) = drainedUnit v (unitGet s.node (pageOf .mce m.val)) ∧
      (∀ p, p ≠ pageOf .mce m.val → unitGet t.node p = unitGet s.node p) ∧
      regStored t.node (regAddr .mce m.val 0x104) = wput (v &&& 0x8000007F#32) 6 0 (Nat.min 100 (wbits v 6 0)) ∧
      (v.toNat.testBit 31 = false → t.node = { s.node with regs := t.node.regs, units := t.node.units }) ∧
      (∀ q j, v.toNat.testBit 31 = true → s.node.subReqs = [q] → s.node.reqs = [] → q.mce = some m.val → s.node.tick < q.budgetEnd →
          j ∈ activeUnits s.node .mce → j ≠ m.val →
        ∃ k, k ≠ m.val ∧ unitActive s.node (pageOf .mce k) = true ∧
          t.node.subReqs = [{ q with mce := some k, reranking := false, rerank := [] }])) ∧
  (∀ (s : State) (i : Fin 104) (v : Word), Live s →
    ∃ t, exec (.tnsDrain i v) s = .next t ∧
      unitGet t.node (pageOf .tns i.val) = drainedUnit v (unitGet s.node (pageOf .tns i.val)) ∧
      (∀ p, p ≠ pageOf .tns i.val → unitGet t.node p = unitGet s.node p) ∧
      regStored t.node (regAddr .tns i.val 0x104) = v &&& 0x80000003#32 ∧
      (∀ a, a ≠ regAddr .tns i.val 0x104 → regStored t.node a = regStored s.node a) ∧
      t.node = { s.node with regs := t.node.regs, units := t.node.units }) ∧
  (∀ (s : State) (i : Fin 72) (v : Word), Live s →
    ∃ t, exec (.svcDrain i v) s = .next t ∧
      unitGet t.node (pageOf .svc i.val) = drainedUnit v (unitGet s.node (pageOf .svc i.val)) ∧
      (∀ p, p ≠ pageOf .svc i.val → unitGet t.node p = unitGet s.node p) ∧
      regStored t.node (regAddr .svc i.val 0x104) = v &&& 0x80000000#32 ∧
      (∀ a, a ≠ regAddr .svc i.val 0x104 → regStored t.node a = regStored s.node a) ∧
      t.node = { s.node with regs := t.node.regs, units := t.node.units })

/-- A QUERY is admitted with its binding, its deadline and its vector, or answered at once. A QUERY that passes its checks, with K
1 or more, payload kind 0 and a codebook, becomes one request of the next number: bound to the current generation and the applied
epoch, due DEADLINE_US (or the index's default) after its arrival, its vector taken from the payload. K = 0 is answered OK at
once. A header that breaks a limit is answered BAD_PARAM with the offset of the word. An OPCODE without a request class is
answered BAD_PARAM at the header's first word; an MGMT from a tenant other than 0 is answered BAD_PARAM at the first header word
that fails, and otherwise DENIED. Besides the requests only the tenant's bucket and queue and, with an answer, what has been sent
change. (01_query_path.md, 05_selection_and_filtering.md.) -/
def Obligations.QueryAdmission : Prop :=
  (∀ (s : State) (q : Nat) (d : Blob) (x : Qp) (g : IdxGen), QueryReady s q d x g → qKind d = 0 → echoK d ≠ 0 →
      g.codebook.isSome = true →
    ∃ t r, exec (.query q d) s = .next t ∧
      t.node = { s.node with
        tenants := t.node.tenants, calEntry := t.node.calEntry, nextReq := s.node.nextReq + 1, reqs := s.node.reqs ++ [r] } ∧
      r.id = s.node.nextReq ∧ r.qp = q ∧ r.handle = g.handle ∧ r.gen = g.gen ∧ r.epoch = s.node.map.epoch ∧ r.subs = [] ∧
      r.fanned = false ∧
      r.deadline = s.node.tick + ticksUs (if nbits (bword d 0xC) 14 0 = 0 then gDefDeadline g else nbits (bword d 0xC) 14 0) ∧
      r.vec = some ((elemsGet d (qPayOff d) (qFmt d) (qScale d) (qCount d)).map posZero)) ∧
  (∀ (s : State) (q : Nat) (d : Blob) (x : Qp) (g : IdxGen), QueryReady s q d x g → echoK d = 0 →
    ∃ t, exec (.query q d) s = .next t ∧ Answered t.node q d 0 ∧
      t.node = { s.node with
        tenants := t.node.tenants, calEntry := t.node.calEntry, nextReq := s.node.nextReq + 1, qps := t.node.qps, out := t.node.out,
        pwr := t.node.pwr }) ∧
  (∀ (s : State) (q : Nat) (d : Blob) (x : Qp) (o : Nat), Received s q d x → queryHeaderBad x d (policed s x) = some o →
      64 ≤ bword d 0x24 →
    ∃ t r, exec (.query q d) s = .next t ∧ r.status = 1 ∧ r.err = o ∧
      Out.rdmaWriteImm q (bnum d 0x18 8) (bword d 0x20) (respHeader r) (bnum d 0x10 8 % 2 ^ 32) ∈ t.node.out ∧
      t.node = { s.node with
        tenants := t.node.tenants, calEntry := t.node.calEntry, qps := t.node.qps, out := t.node.out }) ∧
  (∀ (s : State) (q : Nat) (d : Blob) (x : Qp), Received s q d x → 64 ≤ bword d 0x24 →
    ∃ t r, exec (.invalidRequestOpcode q d) s = .next t ∧
      Out.rdmaWriteImm q (bnum d 0x18 8) (bword d 0x20) (respHeader r) (bnum d 0x10 8 % 2 ^ 32) ∈ t.node.out ∧
      (bnum d 3 1 ≠ 4 → r.status = 1 ∧ r.err = 0) ∧
      (∀ o w, bnum d 3 1 = 4 → x.cfg.tid ≠ 0 → mgmtOpOf x.num d (policed s x) = some o → mgmtBad x o d (policed s x) = some w →
        r.status = 1 ∧ r.err = w) ∧
      (∀ o, bnum d 3 1 = 4 → x.cfg.tid ≠ 0 → mgmtOpOf x.num d (policed s x) = some o → mgmtBad x o d (policed s x) = none →
        r.status = 2 ∧ r.err = 0) ∧
      t.node = { s.node with
        tenants := t.node.tenants, calEntry := t.node.calEntry, qps := t.node.qps, out := t.node.out })

/-- A MUTATE sends each shard's records to its primary, and ends with their answers or after 100 ms. A MUTATE without records is
answered OK at once; one with one record sends it, as a sub-batch with the request's REQ_ID, tenant and ACK_DURABLE, to the
primary of the shard that holds its key, and waits. The answer of its only sub-batch ends the request: the result word leaves for
RESP_ADDR + 64 and the header takes the word's status. 100 ms after its arrival a MUTATE whose waiting operations are sub-batches
is over. (06_mutations_and_visibility.md, 01_query_path.md.) -/
def Obligations.MutateAdmission : Prop :=
  (∀ (s : State) (q : Nat) (d : Blob) (x : Qp) (g : IdxGen), MutateReady s q d x g [] →
    ∃ t, exec (.mutate q d) s = .next t ∧ Answered t.node q d 0 ∧
      t.node = { s.node with
        tenants := t.node.tenants, calEntry := t.node.calEntry, nextReq := s.node.nextReq + 1, qps := t.node.qps, out := t.node.out,
        pwr := t.node.pwr }) ∧
  (∀ (s : State) (q : Nat) (d : Blob) (x : Qp) (g : IdxGen) (m : MutRec) (p : BitVec 12), MutateReady s q d x g [m] →
      primaryOf s.node { handle := g.handle, gen := g.gen, shard := shardOf (bnum m.body 0 8) (gShards g) } = some p →
      hasRoute s.node p.toNat = true → (∀ r ∈ s.node.reqs, r.op ≠ 2) →
    ∃ t r, exec (.mutate q d) s = .next t ∧ r.id = s.node.nextReq ∧ r.subs.map (·.tag) = [s.node.nextTag] ∧
      Sent t.node p.toNat s.node.nextTag (.subBatch {
        epoch := s.node.map.epoch, key := { handle := g.handle, gen := g.gen, shard := shardOf (bnum m.body 0 8) (gShards g) },
        tid := x.cfg.tid, reqId := bnum d 0x28 8, ackDurable := muDurable d, records := [m], forwarded := false }) ∧
      t.node = { s.node with
        tenants := t.node.tenants, calEntry := t.node.calEntry, nextReq := s.node.nextReq + 1, reqs := s.node.reqs ++ [r],
        nextTag := (s.node.nextTag + 1) % 2 ^ 32, out := t.node.out, free := t.node.free }) ∧
  (∀ (s : State) (h : MsgHdr) (m : SubBatchAnswerMsg) (r : Req) (sb : Sub) (b : SubBatchMsg) (w : BitVec 128) (m0 : MutRec) (x : Qp),
      Live s → Taken s.node h (.subBatchAnswer m) → tagOwner s.node h.tag.toNat = some (r, sb) → reqFind s.node r.id = some r →
      sb.msg = .subBatch b → r.subs = [sb] → r.op = 2 → r.words = [] → b.records = [m0] → m.draining = false → m.words = [w] →
      qpFind s.node r.qp = some x → x.state = 1 → 64 ≤ bword r.d 0x24 →
    ∃ t, exec (.subBatchAnswer h m) s = .next t ∧ Over t.node r.id ∧ Answered t.node r.qp r.d (wordStatus w) ∧
      Out.rdmaWrite r.qp (bnum r.d 0x18 8 + 64) (bword r.d 0x20) (recsBlob [w]) ∈ t.node.out ∧
      t.node.shards = s.node.shards) ∧
  (∀ (s : State) (req : Nat) (r : Req), Live s → reqFind s.node req = some r → r.op = 2 → r.subs.any (fun sb => sb.state = 0) = true →
      (∀ sb ∈ r.subs, sb.state = 0 → ∃ m, sb.msg = .subBatch m) →
    ∃ t, exec (.mutateResponseTimeout req) s = .next t ∧ Over t.node req ∧ r.arrive + ticksMs 100 ≤ t.node.tick ∧
      t.node.shards = s.node.shards)

/-- A LOOKUP sends its rows to their homes, or is answered at once. A LOOKUP POOL without rows is answered OK at once. A POOL of
one row sends it as a sub-bag, and a WRITE or ADD of one record sends it as a row operation, to the default home of the row where
no route hint and no outstanding operation says otherwise, and waits. (08_embedding_pool.md, 01_query_path.md.) -/
def Obligations.LookupAdmission : Prop :=
  (∀ (s : State) (q : Nat) (d : Blob) (x : Qp) (tb : TabSt), LookupReady s q 0 d x tb → bnum d 6 2 = 0 →
    ∃ t, exec (.lookupPool q d) s = .next t ∧ Answered t.node q d 0 ∧
      t.node = { s.node with
        tenants := t.node.tenants, calEntry := t.node.calEntry, nextReq := s.node.nextReq + 1, qps := t.node.qps, out := t.node.out,
        pwr := t.node.pwr }) ∧
  (∀ (s : State) (q : Nat) (d : Blob) (x : Qp) (tb : TabSt) (p : BitVec 12) (row : Nat), LookupReady s q 0 d x tb → bnum d 6 2 = 1 →
      bnum d 5 1 = 1 → bnum d (bnum d 0x2A 2) 8 = row → rowOuts s.node q tb.handle row = [] → routeOf s.node tb.handle row = none →
      defaultHome s.node tb row = some p → hasRoute s.node p.toNat = true →
    ∃ t r, exec (.lookupPool q d) s = .next t ∧ r.id = s.node.nextReq ∧ r.tabHandle = tb.handle ∧ r.tabGen = tb.gen ∧
      Sent t.node p.toNat s.node.nextTag (.subBag {
        handle := tb.handle, gen := tb.gen, mean := decide (bnum d 4 1 = 1), width := tWidth tb,
        items := [{ row := row, bag := 0, pos := 0, fseq := 0 }], forwarded := false }) ∧
      t.node = { s.node with
        tenants := t.node.tenants, calEntry := t.node.calEntry, nextReq := s.node.nextReq + 1, reqs := s.node.reqs ++ [r],
        nextTag := (s.node.nextTag + 1) % 2 ^ 32, out := t.node.out, free := t.node.free }) ∧
  (∀ (s : State) (q : Nat) (d : Blob) (x : Qp) (tb : TabSt) (p : BitVec 12) (row op : Nat) (c : Instr), LookupReady s q op d x tb →
      (c = .lookupWrite q d ∧ op = 1) ∨ (c = .lookupAdd q d ∧ op = 2) → bnum d 6 2 = 1 → bnum d (bnum d 0x2A 2) 8 = row →
      rowOuts s.node q tb.handle row = [] → routeOf s.node tb.handle row = none → defaultHome s.node tb row = some p →
      hasRoute s.node p.toNat = true →
    ∃ t r, exec c s = .next t ∧ r.id = s.node.nextReq ∧
      Sent t.node p.toNat s.node.nextTag (.rowOp {
        handle := tb.handle, gen := tb.gen, row := row, fseq := 0, op := op,
        elems := (List.range (tWidth tb)).map (fun j => posZero (w32 (bword d (bnum d 0x2A 2 + 8 + 4 * j)))), forwarded := false }) ∧
      t.node = { s.node with
        tenants := t.node.tenants, calEntry := t.node.calEntry, nextReq := s.node.nextReq + 1, reqs := s.node.reqs ++ [r],
        nextTag := (s.node.nextTag + 1) % 2 ^ 32, out := t.node.out, free := t.node.free })

/-- Fan-out, partials, re-routing and the deadline of a query. FAN_OUT of a query over one shard builds the LUT and sends the
shard's holder one sub-request with the query's parameters and what is left of its deadline; a vector that cannot be used is
answered BAD_PARAM. The partial of its only shard ends the query with the partial's record, also where the unit that merges met an
uncorrectable error, which it reports. A MISROUTE sends the sub-request once more, to another holder of the applied map. At the
deadline a query without any partial answers TIMEOUT. (01_query_path.md.) -/
def Obligations.QueryProgress : Prop :=
  (∀ (s : State) (req : Nat) (r : Req) (v : List F32) (g : IdxGen) (b : Blob) (lut : Lut) (p : BitVec 12), Live s →
      reqFind s.node req = some r → r.op = 1 → r.fanned = false → r.vec = some v → genFind s.node r.handle r.gen = some g →
      vecBad g r v = false → g.codebook = some b → buildLut g b (storedVec g v) = some lut →
      epochsSince r.epoch s.node.map.epoch ≤ 1 → budgetUs r s.node ≠ 0 → gShards g = 1 →
      queryHolders s.node { handle := g.handle, gen := g.gen, shard := 0 } (tokenOf r 0).isSome = [p] → hasRoute s.node p.toNat = true →
    ∃ t, exec (.fanOut req) s = .next t ∧ (∃ r', reqFind t.node req = some r' ∧ r'.fanned = true) ∧
      Sent t.node p.toNat s.node.nextTag (.subRequest {
        epoch := r.epoch, key := { handle := g.handle, gen := g.gen, shard := 0 }, k := echoK r.d, ef := qEf r.d,
        rerankDepth := qRerank r.d, widen := qWiden r.d, requireFull := nbit (bword r.d 0x30) 0, budgetUs := budgetUs r s.node,
        token := tokenOf r 0, tid := r.tid, lut := lut, filter := qFilter r.d,
        qvec := if qRerank r.d = 0 then [] else storedVec g v, forwarded := false }) ∧
      t.node = { s.node with
        reqs := t.node.reqs, free := t.node.free, nextTag := (s.node.nextTag + 1) % 2 ^ 32, out := t.node.out }) ∧
  (∀ (s : State) (req : Nat) (r : Req) (v : List F32) (g : IdxGen) (x : Qp), Live s →
      reqFind s.node req = some r → r.op = 1 → r.fanned = false → r.vec = some v → genFind s.node r.handle r.gen = some g →
      vecBad g r v = true → qpFind s.node r.qp = some x → x.state = 1 → 64 ≤ bword r.d 0x24 →
    ∃ t, exec (.fanOut req) s = .next t ∧ Over t.node req ∧ Answered t.node r.qp r.d 1) ∧
  (∀ (s : State) (h : MsgHdr) (m : PartialMsg) (ecc : Bool) (r : Req) (sb : Sub) (b : SubRequestMsg) (w : BitVec 128) (x : Qp), Live s →
      Taken s.node h (.partialMsg m) → partialOwner s.node h.tag.toNat = some (r, sb) → reqFind s.node r.id = some r →
      sb.msg = .subRequest b → r.subs = [sb] → r.op = 1 → r.fanned = true → r.records = [] → echoK r.d ≠ 0 → m.failed = false →
      m.records = [w] → qpFind s.node r.qp = some x → x.state = 1 → 64 ≤ bword r.d 0x24 →
    ∃ t, exec (.partialMsg h m ecc) s = .next t ∧ Over t.node r.id ∧ Answered t.node r.qp r.d 0 ∧
      Out.rdmaWrite r.qp (bnum r.d 0x18 8 + 64) (bword r.d 0x20) (recsBlob [w]) ∈ t.node.out ∧
      (∀ i, ecc = true → r.mce = some i → i < 18 → (pageGet t.node (pageOf .mce i)).cause ≠ 0)) ∧
  (∀ (s : State) (h : MsgHdr) (m : MisrouteMsg) (r : Req) (sb : Sub) (b : SubRequestMsg) (p : BitVec 12), Live s →
      Taken s.node h (.misroute m) → tagOwner s.node h.tag.toNat = some (r, sb) → sb.msg = .subRequest b →
      m.epoch ≤ s.node.map.epoch → sb.rerouted = false → budgetUs r s.node ≠ 0 →
      (queryHolders s.node b.key b.token.isSome).filter (fun a => a ≠ h.src) = [p] → hasRoute s.node p.toNat = true →
    ∃ t, exec (.misroute h m) s = .next t ∧
      Sent t.node p.toNat s.node.nextTag (.subRequest { b with budgetUs := budgetUs r s.node }) ∧
      t.node = { heard s.node h (.misroute m) with
        reqs := t.node.reqs, cnts := t.node.cnts, nextTag := (s.node.nextTag + 1) % 2 ^ 32, out := t.node.out, free := t.node.free }) ∧
  (∀ (s : State) (req : Nat) (r : Req) (x : Qp), Live s → reqFind s.node req = some r →
      (r.op = 1 ∧ r.subs.any (fun sb => sb.state = 1) = false) ∨ r.op = 3 → qpFind s.node r.qp = some x → x.state = 1 →
      64 ≤ bword r.d 0x24 →
    ∃ t, exec (.requestDeadline req) s = .next t ∧ Over t.node req ∧ Answered t.node r.qp r.d 8 ∧ r.deadline ≤ t.node.tick)

/-- A shard holder binds, selects, widens, reranks and answers a sub-request. A SUB_REQUEST for a shard that this node serves is
taken up, its snapshot bound to COMMITTED_MSN once that has reached its token; one for a shard it does not hold is answered
MISROUTE with a holder of its map. A waiting token binds when the commit reaches it. A selection that ends with no entry sends a
partial without records; one that is short and may widen doubles its width; one whose unit meets an error in its buffers restarts
on another unit, reported. The last rerank read completes the partial, with the exact distance where the read gave data. The
rerank cutoff ends every read and the sub-request. (01_query_path.md, 05_selection_and_filtering.md,
06_mutations_and_visibility.md.) -/
def Obligations.HolderServesQuery : Prop :=
  (∀ (s : State) (h : MsgHdr) (m : SubRequestMsg) (sh : Shard) (g : IdxGen) (r : ShardRole), Live s → Taken s.node h (.subRequest m) →
      shardFind s.node m.key = some sh → genFind s.node m.key.handle m.key.gen = some g → shardRole s.node.map m.key = some r →
      (servingPlaces s.node r).any (fun p => p.node = s.node.nodeId) = true → 2 ≤ h.compat.toNat →
      (∀ q ∈ s.node.subReqs, q.id < s.node.nextSub) →
    ∃ t q, exec (.subRequest h m) s = .next t ∧ t.node.subReqs = s.node.subReqs ++ [q] ∧ q.id = s.node.nextSub ∧ q.msg = m ∧
      q.src = h.src.toNat ∧ q.tag = h.tag.toNat ∧ q.budgetEnd = s.node.tick + ticksUs m.budgetUs ∧
      q.snap = (if m.token.getD 0 ≤ sh.committed then some sh.committed else none) ∧
      ((∃ q0 ∈ s.node.subReqs, q0.msg.lut = m.lut) →
        t.node = { heard s.node h (.subRequest m) with
          subReqs := t.node.subReqs, nextSub := s.node.nextSub + 1, free := t.node.free, batches := t.node.batches,
          passes := t.node.passes, nextPass := t.node.nextPass, sched := t.node.sched }) ∧
      t.node.shards = s.node.shards ∧ t.node.reqs = s.node.reqs ∧ t.node.ctxs = s.node.ctxs ∧ t.node.dups = s.node.dups ∧
      t.node.regs = s.node.regs ∧ t.node.openRows = s.node.openRows ∧ t.node.clvs = s.node.clvs) ∧
  (∀ (s : State) (h : MsgHdr) (m : SubRequestMsg), Live s → Taken s.node h (.subRequest m) → shardFind s.node m.key = none →
      fwdFind s.node m.key false = none → hasRoute s.node h.src.toNat = true →
    ∃ t, exec (.subRequest h m) s = .next t ∧
      Sent t.node h.src.toNat h.tag.toNat (.misroute { epoch := s.node.map.epoch, newHolder := (queryHolders s.node m.key false).head? }) ∧
      t.node = { heard s.node h (.subRequest m) with cnts := t.node.cnts, out := t.node.out, free := t.node.free }) ∧
  (∀ (s : State) (sub : Nat) (q : SubReq) (sh : Shard), Live s → subFind s.node sub = some q → q.snap = none →
      s.node.tick < q.budgetEnd → shardFind s.node q.msg.key = some sh → q.msg.token.getD 0 ≤ sh.committed →
    ∃ t, exec (.tokenSnapshotBind sub) s = .next t ∧ subFind t.node sub = some { q with snap := some sh.committed } ∧
      t.node = { s.node with
        subReqs := t.node.subReqs, batches := t.node.batches, passes := t.node.passes, nextPass := t.node.nextPass,
        sched := t.node.sched }) ∧
  (∀ (s : State) (sub u : Nat) (q : SubReq) (sh : Shard) (g : IdxGen) (w : WalkEnd), Live s → subFind s.node sub = some q →
      shardFind s.node q.msg.key = some sh → genFind s.node q.msg.key.handle q.msg.key.gen = some g → q.reranking = false →
      q.mce = some u → (q.steps = 0 ∨ s.node.tick < q.budgetEnd) →
      q.walk = some w → w.list = [] → q.delta = some [] → q.width ≠ 0 → q.msg.rerankDepth = 0 → hasRoute s.node q.src = true →
    ∃ t e, exec (.maceSelect sub false) s = .next t ∧ subFind t.node sub = none ∧
      Sent t.node q.src q.tag (.partialMsg {
        shard := q.msg.key.shard, status := 0, failed := false, shortfall := decide (0 < shardTarget q.msg.k), widenUsed := q.steps,
        energy := e, forwarded := q.msg.forwarded, records := [] })) ∧
  (∀ (s : State) (sub u : Nat) (q : SubReq) (sh : Shard) (g : IdxGen) (w : WalkEnd) (d : List (Nat × Nat)), Live s →
      subFind s.node sub = some q →
      shardFind s.node q.msg.key = some sh → genFind s.node q.msg.key.handle q.msg.key.gen = some g → q.reranking = false →
      q.mce = some u → (q.steps = 0 ∨ s.node.tick < q.budgetEnd) → q.walk = some w → q.delta = some d →
      widenDue q w.status w.list.length (survivors u g sh q w.list d s.node).1.length s.node.tick = true →
    ∃ t q', exec (.maceSelect sub false) s = .next t ∧ subFind t.node sub = some q' ∧ q'.width = Nat.min 1024 (2 * q.width) ∧
      q'.steps = q.steps + 1 ∧ q'.walk = none ∧ q'.delta = none ∧ q'.prev = (survivors u g sh q w.list d s.node).1) ∧
  (∀ (s : State) (sub u : Nat) (q : SubReq), Live s → subFind s.node sub = some q → q.mce = some u → s.node.tick < q.budgetEnd →
      ((activeUnits s.node .mce).any (fun i => decide (i ≠ u) && decide (mceLoad s.node i < 32))) = true →
    ∃ t j, exec (.maceSelect sub true) s = .next t ∧ j ≠ u ∧ unitActive s.node (pageOf .mce j) = true ∧
      subFind t.node sub = some { q with mce := some j, reranking := false, rerank := [] } ∧
      (pageGet t.node (pageOf .mce u)).cause ≠ 0) ∧
  (∀ (s : State) (sub lid u : Nat) (ok : Bool) (q : SubReq) (sh : Shard) (g : IdxGen) (c : Cand), Live s →
      subFind s.node sub = some q → q.mce = some u →
      shardFind s.node q.msg.key = some sh → genFind s.node q.msg.key.handle q.msg.key.gen = some g → q.reranking = true →
      q.rerank = [c] → c.lid = lid → c.read = 1 → q.msg.k ≠ 0 → hasRoute s.node q.src = true →
      (memReadFor (some q.msg.tid) (fullAddr g sh lid) (fullSize (gFullFmt g) (gDim g)) s.node).1 = true →
    ∃ t e, exec (.rerankReadComplete sub lid ok) s = .next t ∧ subFind t.node sub = none ∧
      Sent t.node q.src q.tag (.partialMsg {
        shard := q.msg.key.shard, status := 0, failed := false, shortfall := decide (q.prev.length < shardTarget q.msg.k),
        widenUsed := q.steps, energy := e, forwarded := q.msg.forwarded,
        records := [candRec q.msg.key.shard (if ok then
          let r := exactDist (gMetric g) (q.msg.qvec.map (fun x => (x, false)))
            (fullElems (gFullFmt g) (gDim g)
              (flashBytes (fullAddr g sh lid) (bofNat (fullSize (gFullFmt g) (gDim g)) (sget 0 sh.full lid))
                (memReadFor (some q.msg.tid) (fullAddr g sh lid) (fullSize (gFullFmt g) (gDim g)) s.node).2).1.bits)
          { c with exact := true, sat := r.2, dist := r.1 } else c)] })) ∧
  (∀ (s : State) (sub u : Nat) (q : SubReq), Live s → subFind s.node sub = some q → q.reranking = true → q.mce = some u →
    ∃ t, exec (.rerankCutoff sub) s = .next t ∧ subFind t.node sub = none ∧
      q.budgetEnd - rerankGuard s.node u ≤ t.node.tick ∧ t.node.shards = s.node.shards)

/-- A mutation is placed in a step, mirrored, written and committed. A SUB_BATCH at a node that is not the primary is answered
MISROUTE. At the primary of a shard with no step in progress a DELETE of a live key takes the next MSN in a step of its own, which
closes at once, enters the journal and goes to the partner; a DELETE of a key that is not live is answered at once as such. 500 µs
after its first record an open step is closed. The partner journals a step that follows the last one and accepts it to the
primary; a step from a node that is not the primary changes nothing of the shard. An acceptance commits a written step, and the
completed writes commit an accepted one: COMMITTED_MSN rises to its last MSN and the deleted item carries its DELETE_MSN. A
partner that does not accept within 50 µs is reported to the council. (06_mutations_and_visibility.md.) -/
def Obligations.CommitSteps : Prop :=
  (∀ (s : State) (h : MsgHdr) (m : SubBatchMsg) (sh : Shard) (g : IdxGen), Live s → Taken s.node h (.subBatch m) →
      shardFind s.node m.key = some sh → genFind s.node m.key.handle m.key.gen = some g → sh.role ≠ 0 →
      fwdFind s.node m.key false = none → hasRoute s.node h.src.toNat = true →
    ∃ t, exec (.subBatch h m) s = .next t ∧
      Sent t.node h.src.toNat h.tag.toNat (.misroute { epoch := s.node.map.epoch, newHolder := primaryOf s.node m.key }) ∧
      t.node = { heard s.node h (.subBatch m) with cnts := t.node.cnts, out := t.node.out, free := t.node.free }) ∧
  (∀ (s : State) (h : MsgHdr) (m : SubBatchMsg) (sh : Shard) (g : IdxGen) (r : ShardRole) (p : Place) (m0 : MutRec), Live s →
      Taken s.node h (.subBatch m) → shardFind s.node m.key = some sh → genFind s.node m.key.handle m.key.gen = some g → sh.role = 0 →
      sh.state = 1 → s.node.quorum = true → shardRole s.node.map m.key = some r → r.partner = some p → sh.sealed = none → m.reqId = 0 →
      m.records = [m0] → nbits (bword m0.body 8) 31 28 = 2 → deleteCheck m0.body = none → sh.steps = [] → rebuildOut s.node m.key = false →
      liveOf sh (bnum m0.body 0 8) = none → hasRoute s.node h.src.toNat = true →
    ∃ t e, exec (.subBatch h m) s = .next t ∧ t.node.shards = s.node.shards ∧
      Sent t.node h.src.toNat h.tag.toNat (.subBatchAnswer {
        words := [mutWord 0 0 1 m.key.shard m.key.gen], duplicate := false, draining := false, energy := e, forwarded := m.forwarded })) ∧
  (∀ (s : State) (h : MsgHdr) (m : SubBatchMsg) (sh : Shard) (g : IdxGen) (r : ShardRole) (p : Place) (m0 : MutRec) (lid : Nat), Live s →
      Taken s.node h (.subBatch m) → shardFind s.node m.key = some sh → genFind s.node m.key.handle m.key.gen = some g → sh.role = 0 →
      sh.state = 1 → s.node.quorum = true → shardRole s.node.map m.key = some r → r.partner = some p → sh.sealed = none → m.reqId = 0 →
      m.records = [m0] → nbits (bword m0.body 8) 31 28 = 2 → deleteCheck m0.body = none → sh.steps = [] → s.node.ftl.pool ≠ 4 →
      rebuildOut s.node m.key = false →
      liveOf sh (bnum m0.body 0 8) = some lid → hasRoute s.node p.node.toNat = true →
    ∃ t sh', exec (.subBatch h m) s = .next t ∧ shardFind t.node m.key = some sh' ∧ sh'.lastMsn = sh.lastMsn + 1 ∧
      sh'.committed = sh.committed ∧
      (let st : StepRec := { key := m.key, firstMsn := sh.lastMsn + 1, lastMsn := sh.lastMsn + 1, reqs := [],
                             recs := [{ msn := sh.lastMsn + 1, ckey := bnum m0.body 0 8, kind := 2, lid := lid, oldId := lidNone,
                                        attr := 0, full := bempty }] }
      sh'.journal = sh.journal ++ [st] ∧ sh'.steps.map (·.step) = [st] ∧ Sent t.node p.node.toNat s.node.nextTag (.step st))) ∧
  (∀ (s : State) (key : ShardKey) (sh : Shard) (p : PStep), Live s → shardFind s.node key = some sh →
      sh.steps.find? (fun p => !p.closed) = some p →
    ∃ t sh', exec (.commitStepTimer key) s = .next t ∧ shardFind t.node key = some sh' ∧ sh'.steps.all (fun p => p.closed) = true ∧
      sh'.committed = sh.committed ∧ p.opened + ticksUs 500 ≤ t.node.tick) ∧
  (∀ (s : State) (h : MsgHdr) (m : StepRec) (sh : Shard) (r : ShardRole) (p q : Place), Live s → Taken s.node h (.step m) →
      shardFind s.node m.key = some sh → shardRole s.node.map m.key = some r → sh.role = 1 → r.primary = some p → p.node = h.src →
      r.partner = some q → q.node = s.node.nodeId → m.firstMsn = sh.lastMsn + 1 → sh.lastMsn < m.lastMsn →
      (∀ x ∈ m.recs, sh.lastMsn < x.msn) →
      hasRoute s.node h.src.toNat = true →
    ∃ t sh', exec (.step h m) s = .next t ∧ shardFind t.node m.key = some sh' ∧ sh'.journal = sh.journal ++ [m] ∧
      sh'.lastMsn = m.lastMsn ∧ Sent t.node h.src.toNat h.tag.toNat (.stepAccept m.key m.lastMsn)) ∧
  (∀ (s : State) (h : MsgHdr) (m : StepRec) (r : ShardRole), Live s → Taken s.node h (.step m) →
      shardRole s.node.map m.key = some r → r.primary.any (fun p => p.node = h.src) = false →
    ∃ t, exec (.step h m) s = .next t ∧ t.node.shards = s.node.shards ∧ t.node.dups = s.node.dups ∧ t.node.ftl = s.node.ftl) ∧
  (∀ (s : State) (h : MsgHdr) (key : ShardKey) (last : Nat) (sh : Shard) (p : PStep), Live s → Taken s.node h (.stepAccept key last) →
      shardFind s.node key = some sh → sh.role = 0 → sh.steps = [p] → p.closed = true → p.sent = true → p.accepted = false →
      p.step.lastMsn = last → sh.fwdQ = [] →
    ∃ t sh', exec (.stepAccept h key last) s = .next t ∧ shardFind t.node key = some sh' ∧
      sh'.steps = (if p.written then [] else [{ p with accepted := true }]) ∧
      sh'.committed = (if p.written then Nat.max sh.committed last else sh.committed)) ∧
  (∀ (s : State) (key : ShardKey) (sh : Shard) (g : IdxGen) (p : PStep) (x : JRec), Live s → shardFind s.node key = some sh →
      genFind s.node key.handle key.gen = some g → sh.steps = [p] → p.sent = true → p.written = false → p.accepted = true →
      p.step.recs = [x] → x.kind = 2 → x.msn < 2 ^ 64 → encoding s.node key = false → sh.fwdQ = [] →
    ∃ t sh', exec (.primaryWritesComplete key) s = .next t ∧ shardFind t.node key = some sh' ∧ sh'.steps = [] ∧
      sh'.committed = Nat.max sh.committed p.step.lastMsn ∧ idmapDel (sget 0 sh'.idmap x.lid) = x.msn) ∧
  (∀ (s : State) (key : ShardKey) (sh : Shard) (r : ShardRole) (p : PStep) (d c : BitVec 12), Live s → shardFind s.node key = some sh →
      shardRole s.node.map key = some r → sh.steps.find? (fun p => p.sent && !p.accepted) = some p → mirrorOf r = [d] →
      s.node.map.council = [c] → hasRoute s.node c.toNat = true →
    ∃ t, exec (.partnerAcceptTimeout key) s = .next t ∧ Sent t.node c.toNat s.node.nextTag (.suspect d .stepTimeout) ∧
      p.sentAt + ticksUs 50 ≤ t.node.tick ∧
      t.node = { s.node with tick := t.node.tick, nextTag := (s.node.nextTag + 1) % 2 ^ 32, out := t.node.out, free := t.node.free })

/-- Duplicate expiry, folding, repair, a new generation's records, rebuild and release of delta rows. A duplicate entry goes
IDX_DEDUP_S after its commit, and nothing else that is younger. Folding an entry of a deleted item counts it and leaves the graph
as it was; folding one of a live item whose folding walk has ended, with no block of it in flash, links the item at level 0.
EDGE_REPAIR takes a deleted item out of a level-0 block that names it and counts the repair. The sweep moves on, wraps at the end,
and changes no neighbour. A STEP_FORWARD of request entries alone makes duplicate entries that count from now. A FILL record of a
live key places nothing; of another key, it is placed under the next MSN and goes to the partner in a step. A rebuilt row holds
its entries encoded again from the stored vectors; a COMPACTED row without an older pass returns to EMPTY.
(06_mutations_and_visibility.md, 04_clove_units.md, 02_index_objects.md.) -/
def Obligations.ShardUpkeep : Prop :=
  (∀ (s : State) (key : ShardKey) (tid reqId tick : Nat) (d : DupEnt), Live s →
      s.node.dups.find? (fun d => d.key = key && d.tid = tid && d.reqId = reqId && d.at_.isSome) = some d → d.at_ = some tick →
    ∃ t, exec (.dedupEntryExpiry key tid reqId) s = .next t ∧ tick + dedupTicks s.node key.handle ≤ t.node.tick ∧ d ∉ t.node.dups ∧
      t.node = { s.node with
        tick := t.node.tick,
        dups := s.node.dups.filter (fun d => !(d.key = key && d.tid = tid && d.reqId = reqId && dupOver t.node d)) }) ∧
  (∀ (s : State) (key : ShardKey) (top : Nat) (nbrs : List (List Nat)) (sh : Shard) (g : IdxGen) (i : Nat) (e : DEnt), Live s →
      shardFind (ctlReads key (fun _ => true) s.node) key = some sh → genFind s.node key.handle key.gen = some g →
      oldestUnfolded (ctlReads key (fun _ => true) s.node) sh = some (i, e) →
      e.msn ≤ sh.committed → idmapDel (sget 0 sh.idmap e.lid) ≠ 0 →
    ∃ t sh', exec (.foldEntry key top nbrs) s = .next t ∧ shardFind t.node key = some sh' ∧ sh'.folded = sh.folded + 1 ∧
      sh'.adj = sh.adj ∧ sh'.upper = sh.upper ∧ sh'.code = sh.code) ∧
  (∀ (s : State) (key : ShardKey) (top : Nat) (nbrs : List (List Nat)) (sh : Shard) (g : IdxGen) (i : Nat) (e : DEnt), Live s →
      shardFind (ctlReads key (fun _ => true) s.node) key = some sh → genFind s.node key.handle key.gen = some g →
      oldestUnfolded (ctlReads key (fun _ => true) s.node) sh = some (i, e) →
      e.msn ≤ sh.committed → idmapDel (sget 0 sh.idmap e.lid) = 0 → gDegree g ≤ 48 →
      (∃ w ∈ sh.foldWalks, w.1 = e.msn) → (∀ a, inFlash (ctlReads key (fun _ => true) s.node) a = false) →
    ∃ t sh', exec (.foldEntry key top nbrs) s = .next t ∧ shardFind t.node key = some sh' ∧ sh'.folded = sh.folded + 1 ∧
      sget 0 sh'.code e.lid = e.code ∧ blkLinked (adjGet sh' e.lid) = true) ∧
  (∀ (s : State) (key : ShardKey) (block deleted : Nat) (sh : Shard), Live s → shardFind s.node key = some sh →
      idmapDel (sget 0 sh.idmap deleted) ≠ 0 → idmapDel (sget 0 sh.idmap deleted) ≤ sh.committed → block < 2 ^ 34 →
      (blkNbrs (adjGet sh block)).contains deleted = true → (blkNbrs (adjGet sh block)).Nodup →
    ∃ t sh', exec (.edgeRepair key block deleted) s = .next t ∧ shardFind t.node key = some sh' ∧ sh'.repaired = sh.repaired + 1 ∧
      (blkNbrs (adjGet sh' block)).contains deleted = false ∧ (∀ b, b ≠ block → adjGet sh' b = adjGet sh b) ∧ sh'.upper = sh.upper) ∧
  (∀ (s : State) (key : ShardKey) (count : Nat) (sh : Shard), Live s → shardFind s.node key = some sh →
    ∃ t sh', exec (.repairSweep key count) s = .next t ∧ shardFind t.node key = some sh' ∧
      sh'.sweepAt = (if sh.idHigh ≤ sh.sweepAt + count then 0 else sh.sweepAt + count) ∧
      (∀ b, blkNbrs (adjGet sh' b) = blkNbrs (adjGet sh b)) ∧ t.node = { s.node with shards := t.node.shards }) ∧
  (∀ (s : State) (h : MsgHdr) (m : StepRec) (sh : Shard) (q : ReqEntry), Live s → Taken s.node h (.stepForward m) →
      shardFind s.node m.key = some sh → sh.role = 0 → m.recs = [] → m.reqs = [q] → s.node.dups.length < 16777216 →
    ∃ t, exec (.stepForward h m) s = .next t ∧
      t.node = { heard s.node h (.stepForward m) with
        dups := s.node.dups.filter (fun x => !(x.key = m.key && x.tid = q.tid && x.reqId = q.reqId && x.crc = q.crc)) ++
          [{ key := m.key, tid := q.tid, reqId := q.reqId, crc := q.crc, words := q.words, at_ := some s.node.tick }] }) ∧
  (∀ (s : State) (h : MsgHdr) (m : FillMsg) (sh : Shard) (x : JRec), Live s → Taken s.node h (.fill m) →
      shardFind s.node m.key = some sh → sh.steps = [] → m.recs = [x] → (liveOf sh x.ckey).isSome = true →
    ∃ t, exec (.fill h m) s = .next t ∧ shardFind t.node m.key = some sh ∧
      t.node = { heard s.node h (.fill m) with shards := t.node.shards }) ∧
  (∀ (s : State) (h : MsgHdr) (m : FillMsg) (sh : Shard) (g : IdxGen) (r : ShardRole) (p : Place) (x : JRec), Live s →
      Taken s.node h (.fill m) → shardFind s.node m.key = some sh → genFind s.node m.key.handle m.key.gen = some g → sh.role = 0 →
      sh.steps = [] → sh.fwdQ = [] → sh.fwdKeys.contains x.ckey = false → m.recs = [x] → x.kind ≠ 2 → liveOf sh x.ckey = none →
      freeLids s.node g sh ≠ [] →
      shardRole s.node.map m.key = some r → r.partner = some p → hasRoute s.node p.node.toNat = true →
    ∃ t sh' st y, exec (.fill h m) s = .next t ∧ shardFind t.node m.key = some sh' ∧ sh'.lastMsn = sh.lastMsn + 1 ∧
      sh'.journal = sh.journal ++ [st] ∧ st.recs = [y] ∧ y.ckey = x.ckey ∧ y.msn = sh.lastMsn + 1 ∧ y.full = x.full ∧
      y.lid ∈ freeLids s.node g sh ∧ Sent t.node p.node.toNat s.node.nextTag (.step st)) ∧
  (∀ (s : State) (key : ShardKey) (row : Nat) (sh : Shard) (g : IdxGen) (d : DRow) (book : Blob) (es : List DEnt), Live s →
      shardFind s.node key = some sh → genFind s.node key.handle key.gen = some g → sh.drows[row]? = some d → g.codebook = some book →
      d.bad = true → sh.waiting = [] →
      d.ents.map (fun e => (itemVec g sh e.1 e.2).map (fun v =>
        ({ code := encodePQVec book (gM g) (gWidth g) v, folded := blkLinked (adjGet sh e.2), lid := e.2, msn := e.1 } : DEnt))) =
        es.map some →
    ∃ t sh', exec (.rowRebuild key row) s = .next t ∧
      openRow t.node (physRow sh row) = (if d.kind = 0 then emptyRow else rowMk key.shard (gM g) d.base d.kind es) ∧
      (∀ p, p ≠ physRow sh row → openRow t.node p = openRow s.node p) ∧
      shardFind t.node key = some sh' ∧ sh'.drows[row]? = some { d with bad := false, asked := false } ∧
      t.node = { s.node with shards := t.node.shards, openRows := t.node.openRows, cnts := t.node.cnts }) ∧
  (∀ (s : State) (key : ShardKey) (row : Nat) (sh : Shard) (d : DRow), Live s → shardFind s.node key = some sh → sh.waiting = [] →
      sh.drows[row]? = some d → d.kind = 3 → s.node.passes.any (fun p => p.num < d.release) = false →
    ∃ t sh', exec (.compactedRowRelease key) s = .next t ∧ openRow t.node (physRow sh row) = emptyRow ∧
      shardFind t.node key = some sh' ∧ sh'.drows[row]? = some drowEmpty ∧
      t.node = { s.node with shards := t.node.shards, openRows := t.node.openRows })

/-- A walk is placed, expanded, ended, pre-empted and restored. WALK_START places a query's walk on the chosen engine at the
shard's entry item, READY to read that item's code; on a shard without an entry it ends EMPTY at once; with no free context and no
folding walk it waits; past its budget it never starts. A folding walk starts for the oldest unfolded entry of a live item, with a
width from 16 to 1024. A run of an engine ends a walk past DEADLINE_TICK with its list; loads a LUT that is not in the buffer;
evaluates an entry code that has arrived and reads the block; takes the nearest candidate, or waits on a flash-homed block, or
ends the walk COMPLETE with its results and counts. Arrived data fill the context's buffer and put it at the tail of the READY
queue. 20 µs after an engine left service no walk's leader is on it. The patrol notes an error in a context's image, and the walk
that the engine then copies ends ABORTED, reported. A restored walk continues on an engine with room. (03_graph_walk.md.) -/
def Obligations.WalkLife : Prop :=
  (∀ (s : State) (sub e c snap : Nat) (q : SubReq) (sh : Shard) (g : IdxGen), Live s → subFind s.node sub = some q → q.snap = some snap →
      q.walk = none → shardFind s.node q.msg.key = some sh → genFind s.node q.msg.key.handle q.msg.key.gen = some g →
      walkHeld s.node sub = false → s.node.tick < q.budgetEnd →
      (placeEngine q.lutAddr (decide (256 < q.width)) (fun _ => true) s.node).1 = some (e, c) → sh.state ≠ 0 → sh.entryId ≠ lidNone →
    ∃ t x, exec (.walkStart (.query sub)) s = .next t ∧ ctxGet t.node e c = some x ∧ x.sub = sub ∧ x.fold = false ∧ x.state = 1 ∧
      x.stage = .entryCode ∧ x.curId = sh.entryId ∧ x.snap = snap ∧ x.width = q.width ∧ x.lutAddr = q.lutAddr ∧
      x.deadline = q.walkEnd.getD (Nat.min q.budgetEnd (s.node.tick + ticksMs 10)) ∧
      (engGet t.node e).ready = (engGet s.node e).ready ++ [c] ∧
      subFind t.node sub = some { q with walkEnd := some x.deadline } ∧
      t.node = { s.node with
        ctxs := t.node.ctxs, engs := t.node.engs, subReqs := t.node.subReqs, free := t.node.free, nextWalk := s.node.nextWalk + 1,
        walkQ := s.node.walkQ.filter (fun j => j ≠ sub) }) ∧
  (∀ (s : State) (sub e c snap : Nat) (q : SubReq) (sh : Shard) (g : IdxGen), Live s → subFind s.node sub = some q → q.snap = some snap →
      q.walk = none → shardFind s.node q.msg.key = some sh → genFind s.node q.msg.key.handle q.msg.key.gen = some g →
      walkHeld s.node sub = false → s.node.tick < q.budgetEnd →
      (placeEngine q.lutAddr (decide (256 < q.width)) (fun _ => true) s.node).1 = some (e, c) → sh.state = 0 ∨ sh.entryId = lidNone →
    ∃ t q', exec (.walkStart (.query sub)) s = .next t ∧ subFind t.node sub = some q' ∧
      q'.walk = some { status := 3, list := [], expansions := 0, evals := 0 }) ∧
  (∀ (s : State) (sub snap : Nat) (q : SubReq) (sh : Shard) (g : IdxGen), Live s → subFind s.node sub = some q → q.snap = some snap →
      q.walk = none → shardFind s.node q.msg.key = some sh → genFind s.node q.msg.key.handle q.msg.key.gen = some g →
      walkHeld s.node sub = false →
      (s.node.tick < q.budgetEnd → (placeEngine q.lutAddr (decide (256 < q.width)) (fun _ => true) s.node).1 = none →
          newestFold s.node = none →
        exec (.walkStart (.query sub)) s = .next { s with node := { s.node with
          walkQ := s.node.walkQ.filter (fun j => j ≠ sub) ++ [sub] } }) ∧
      (q.budgetEnd ≤ s.node.tick → q.steps = 0 →
        exec (.walkStart (.query sub)) s = .next { s with node := { s.node with
          subReqs := s.node.subReqs.filter (fun x => x.id ≠ sub), walkQ := s.node.walkQ.filter (fun j => j ≠ sub) } })) ∧
  (∀ (s : State) (key : ShardKey) (sh : Shard) (g : IdxGen) (book : Blob) (d : DEnt) (rest : List DEnt), Live s →
      shardFind (ctlReads key (fun _ => true) s.node) key = some sh → genFind s.node key.handle key.gen = some g →
      g.codebook = some book → unfoldedLive (ctlReads key (fun _ => true) s.node) sh = d :: rest → sh.foldWalks = [] →
      s.node.ctxs = [] → s.node.saved = [] → sh.state ≠ 0 → sh.entryId ≠ lidNone →
      (∀ gang, (activeUnits s.node .gwe).any (fun e => foldRoom s.node gang e && (freeSlot s.node e gang).isSome) = true) →
    ∃ t e c x, exec (.walkStart (.fold key)) s = .next t ∧ ctxGet t.node e c = some x ∧ x.fold = true ∧ x.key = key ∧ x.sub = d.msn ∧
      x.state = 1 ∧ x.stage = .entryCode ∧ x.curId = sh.entryId ∧ x.snap = sh.committed ∧ 16 ≤ x.width ∧ x.width ≤ 1024) ∧
  (∀ (s : State) (e : Fin 72) (c : Nat) (rest : List Nat) (x : Ctx) (q : SubReq) (sh : Shard) (g : IdxGen), Live s →
      (engGet s.node e.val).ready = c :: rest → ctxGet s.node e.val c = some x → x.role = 0 → x.fold = false → x.bad = false →
      subFind s.node x.sub = some q → shardFind s.node x.key = some sh → genFind s.node x.key.handle x.key.gen = some g →
      (x.deadline ≤ s.node.tick →
        ∃ t, exec (.walkExpansion e) s = .next t ∧ ctxGet t.node e.val c = none ∧
          subFind t.node x.sub = some { q with
            walk := some { status := 1, list := deadlineList x, expansions := x.expansions, evals := x.evals } }) ∧
      (s.node.tick < x.deadline → (engGet s.node e.val).luts.contains x.lutAddr = false →
          poisoned s.node x.lutAddr (lutBytes x.lut) = false →
        ∃ t, exec (.walkExpansion e) s = .next t ∧ (engGet t.node e.val).luts.contains x.lutAddr = true ∧
          (engGet t.node e.val).ready = rest ∧ ctxGet t.node e.val c = some { x with state := 3, lutWait := true } ∧
          t.node = { s.node with engs := t.node.engs, ctxs := t.node.ctxs }) ∧
      (∀ code, s.node.tick < x.deadline → (engGet s.node e.val).luts.contains x.lutAddr = true → x.stage = .entryCode →
          x.arrived = true → x.codes = [some code] →
        ∃ t x', exec (.walkExpansion e) s = .next t ∧ ctxGet t.node e.val c = some x' ∧ x'.curSum = laneSum x.lut code ∧
          x'.curId = x.curId ∧ x'.evals = (x.evals + 1) % 2 ^ 32 ∧ x'.stage = .entryBlock ∧
          x'.state = (if inFlash s.node (adjAddr sh x.curId) then 4 else 3)) ∧
      (s.node.tick < x.deadline → (engGet s.node e.val).luts.contains x.lutAddr = true → x.stage = .pop → x.cand = [] →
        ∃ t, exec (.walkExpansion e) s = .next t ∧ ctxGet t.node e.val c = none ∧
          subFind t.node x.sub = some { q with
            walk := some { status := 0, list := x.res, expansions := x.expansions, evals := x.evals } }) ∧
      (∀ d lid, s.node.tick < x.deadline → (engGet s.node e.val).luts.contains x.lutAddr = true → x.stage = .pop →
          x.cand = [(d, lid)] → x.res.length < x.width → x.expandCap = 0 →
        ∃ t x', exec (.walkExpansion e) s = .next t ∧ ctxGet t.node e.val c = some x' ∧ x'.curId = lid ∧ x'.stage = .block ∧
          x'.cand = [] ∧ x'.expansions = (x.expansions + 1) % 2 ^ 32 ∧ x'.snap = x.snap ∧ x'.deadline = x.deadline ∧ x'.res = x.res ∧
          (inFlash s.node (adjAddr sh lid) = true → x'.state = 4 ∧ x'.page = some (tpage (adjAddr sh lid))) ∧
          (inFlash s.node (adjAddr sh lid) = false → x'.state = 3))) ∧
  (∀ (s : State) (e : Fin 72) (c : Fin 512) (x : Ctx), Live s → ctxGet s.node e.val c.val = some x → x.state = 3 →
      (x.lutWait = true →
        ∃ t, exec (.memDataArrival e c) s = .next t ∧ ctxGet t.node e.val c.val = some { x with state := 1, lutWait := false } ∧
          (engGet t.node e.val).ready = (engGet s.node e.val).ready ++ [c.val] ∧
          t.node = { s.node with engs := t.node.engs, ctxs := t.node.ctxs }) ∧
      (∀ sh g, x.lutWait = false → x.stage = .block → shardFind s.node x.key = some sh →
          genFind s.node x.key.handle x.key.gen = some g →
          (memReadFor (walkTid s.node x) (adjAddr sh x.curId) 256 s.node).1 = true →
        ∃ t, exec (.memDataArrival e c) s = .next t ∧
          ctxGet t.node e.val c.val = some { x with state := 1, arrived := true, buf := adjGet sh x.curId, bufBad := false } ∧
          (engGet t.node e.val).ready = (engGet s.node e.val).ready ++ [c.val])) ∧
  (∀ (s : State) (e : Fin 72) (c : Fin 512) (x : Ctx) (q : SubReq), Live s → ctxGet s.node e.val c.val = some x → x.role = 0 →
      x.fold = false → subFind s.node x.sub = some q →
    ∃ t, exec (.walkDeadline e c) s = .next t ∧ ctxGet t.node e.val c.val = none ∧ x.deadline ≤ t.node.tick ∧
      subFind t.node x.sub = some { q with
        walk := some { status := 1, list := deadlineList x, expansions := x.expansions, evals := x.evals } }) ∧
  (∀ (s : State) (e : Fin 72) (tick : Nat), Live s → (engGet s.node e.val).drainAt = some tick →
    ∃ t, exec (.drainPreemptTimeout e) s = .next t ∧ tick + ticksUs 20 ≤ t.node.tick ∧
      (∀ c x, c < 512 → ctxGet t.node e.val c = some x → x.role = 2) ∧
      (s.node.ctxs.all (fun k => match k.2 with | some y => !y.bad | none => true) = true → t.node.subReqs = s.node.subReqs)) ∧
  (∀ (s : State) (addr : Nat) (e : Fin 72) (c : Fin 512) (x : Ctx), Live s → ctxGet s.node e.val c.val = some x →
    ∃ t, exec (.patrolRead addr (.contextUncorrectable e c)) s = .next t ∧ ctxGet t.node e.val c.val = some { x with bad := true } ∧
      t.node.subReqs = s.node.subReqs ∧ t.node.poison = s.node.poison) ∧
  (∀ (s : State) (e : Fin 72) (c : Fin 512) (tick : Nat) (x : Ctx), Live s → (engGet s.node e.val).drainAt = some tick →
      s.node.ctxs = [(e.val * 512 + c.val, some x)] → x.role = 0 → x.fold = false → x.bad = true →
    ∃ t, exec (.drainPreemptTimeout e) s = .next t ∧ ctxGet t.node e.val c.val = none ∧ subFind t.node x.sub = none ∧
      t.node.saved = s.node.saved ∧ (pageGet t.node (engPage e.val)).cause ≠ 0) ∧
  (∀ (s : State) (id e c : Nat) (w : SavedWalk) (x : Ctx), Live s → s.node.saved.find? (fun w => w.id = id) = some w → w.ctxs = [x] →
      x.stage ≠ .idle → (placeEngine x.lutAddr false (fun e => !x.fold || foldRoom s.node false e) s.node).1 = some (e, c) →
      s.node.tick < x.deadline →
    ∃ t, exec (.walkRestore id) s = .next t ∧ ctxGet t.node e c = some { x with state := 1 } ∧
      (engGet t.node e).ready = (engGet s.node e).ready ++ [c] ∧ t.node.saved = s.node.saved.filter (fun v => v.id ≠ id))

/-- Commands and windows of a Clove unit. A write of a LUT slot or a slot parameter block, to one unit or by broadcast to the 24
of a pseudo-channel, stores the data in that slot of every unit it reaches and changes nothing else of them; a unit of a pseudo-
channel outside Clove mode is not reached. For a unit in Clove mode: NOP of a unit that runs nothing echoes its tag and leaves
STATE; a SCAN, CHECK or COMPACT of rows inside the open region and the unit's bounds starts an IDLE or DONE unit on those rows
with its counts at 0, queues behind a running one, and sets CMD_ERR on one whose queue is full or that awaits CLEAR; one that
names a row outside the open region is not issued and is reported. ABORT empties the queue and ends a RUNNING unit at its next row
boundary, and any other at once with STATE ABORTED; CLEAR brings a DONE, ABORTED or FAULT unit to IDLE with its buffer empty, and
sets CMD_ERR otherwise; an invalid command sets CMD_ERR. No other unit changes. (04_clove_units.md.) -/
def Obligations.CloveCommandWrites : Prop :=
  (∀ (s : State) (st : Fin 8) (target : Option (Fin 768)) (pc : Fin 32) (slot : Fin 16) (data : BitVec 8192), Live s →
    ∃ t, exec (.lutSlotWrite st target pc slot data) s = .next t ∧ t.node = { s.node with clvs := t.node.clvs } ∧
      (∀ k, reaches s.node st.val (target.map Fin.val) pc.val k = false → clvGet t.node k = clvGet s.node k) ∧
      (∀ k, reaches s.node st.val (target.map Fin.val) pc.val k = true →
        clvGet t.node k = { clvGet s.node k with luts := (clvGet t.node k).luts } ∧ sget 0 (clvGet t.node k).luts slot.val = data ∧
        (∀ j, j ≠ slot.val → sget 0 (clvGet t.node k).luts j = sget 0 (clvGet s.node k).luts j))) ∧
  (∀ (s : State) (st : Fin 8) (target : Option (Fin 768)) (pc : Fin 32) (slot : Fin 16) (data : BitVec 512), Live s →
    ∃ t, exec (.slotParamWrite st target pc slot data) s = .next t ∧ t.node = { s.node with clvs := t.node.clvs } ∧
      (∀ k, reaches s.node st.val (target.map Fin.val) pc.val k = false → clvGet t.node k = clvGet s.node k) ∧
      (∀ k, reaches s.node st.val (target.map Fin.val) pc.val k = true →
        clvGet t.node k = { clvGet s.node k with params := (clvGet t.node k).params } ∧
        sget 0 (clvGet t.node k).params slot.val = data ∧
        (∀ j : Fin 16, j ≠ slot → sget 0 (clvGet t.node k).params j.val = sget 0 (clvGet s.node k).params j.val))) ∧
  (∀ (s : State) (u : UnitId) (cmd : BitVec 512), Live s → inMode s.node (unitNo u) = true →
      clvBusy (clvGet s.node (unitNo u)) = false → (∀ r ∈ cmdRows cmd.toNat, rowAllowed s.node u r = true) →
    ∃ t, exec (.cloveNop u cmd) s = .next t ∧ t.node = { s.node with clvs := t.node.clvs } ∧
      clvGet t.node (unitNo u) = { clvGet s.node (unitNo u) with seqTag := cmdTag cmd.toNat } ∧
      (∀ k, k ≠ unitNo u → clvGet t.node k = clvGet s.node k)) ∧
  (∀ (s : State) (u : UnitId) (cmd : BitVec 512) (c : Instr) (op : Nat) (dst : List (Bool × Nat)), Live s →
      inMode s.node (unitNo u) = true →
      (c = .scan u cmd ∧ op = 1 ∧ dst = [] ∧ (cmdCB cmd.toNat < 48 ∨ cmdMask cmd.toNat &&& 0xAAAA = 0)) ∨
        (c = .check u cmd ∧ op = 2 ∧ dst = []) ∨ (c = .compact u cmd ∧ op = 3 ∧ dst = runRows (cmdDest cmd.toNat)) →
      ((∀ r ∈ cmdRows cmd.toNat ++ dst, rowAllowed s.node u r = true) →
        ((clvGet s.node (unitNo u)).state = 0 ∨ (clvGet s.node (unitNo u)).state = 4 → cmdRows cmd.toNat ≠ [] →
          ∃ t, exec c s = .next t ∧ t.node = { s.node with clvs := t.node.clvs } ∧
            clvGet t.node (unitNo u) = { clvGet s.node (unitNo u) with
              state := 1, cmd := some (cmdWith op cmd), rows := cmdRows cmd.toNat, seqTag := cmdTag cmd.toNat, rowsDone := 0, seen := 0,
              postEven := 0, postOdd := 0 } ∧
            (∀ k, k ≠ unitNo u → clvGet t.node k = clvGet s.node k)) ∧
        (clvBusy (clvGet s.node (unitNo u)) = true → (clvGet s.node (unitNo u)).queued = [] →
          ∃ t, exec c s = .next t ∧ t.node = { s.node with clvs := t.node.clvs } ∧
            clvGet t.node (unitNo u) = { clvGet s.node (unitNo u) with queued := [cmdWith op cmd] } ∧
            (∀ k, k ≠ unitNo u → clvGet t.node k = clvGet s.node k)) ∧
        ((clvBusy (clvGet s.node (unitNo u)) = true ∧ (clvGet s.node (unitNo u)).queued ≠ []) ∨
            (clvGet s.node (unitNo u)).state = 5 ∨ (clvGet s.node (unitNo u)).state = 6 →
          ∃ t, exec c s = .next t ∧ t.node = { s.node with clvs := t.node.clvs } ∧
            clvGet t.node (unitNo u) = { clvGet s.node (unitNo u) with cmdErr := true } ∧
            (∀ k, k ≠ unitNo u → clvGet t.node k = clvGet s.node k))) ∧
      ((∃ r ∈ cmdRows cmd.toNat ++ dst, r.2 < (openBounds s.node u.stack.val).1 ∨ (openBounds s.node u.stack.val).2 < r.2) →
        ∃ t, exec c s = .next t ∧ t.node.clvs = s.node.clvs ∧ (pageGet t.node (pageOf .msc u.stack.val)).cause ≠ 0)) ∧
  (∀ (s : State) (us : WindowUnits) (cmd : BitVec 512), Live s →
    ∃ t, exec (.abort us cmd) s = .next t ∧ t.node = { s.node with clvs := t.node.clvs } ∧
      (∀ k, clvGet t.node k = (let v := clvGet s.node k
        if reaches s.node us.stack.val (us.target.map Fin.val) us.pc.val k = false then v
        else if v.state = 1 then { v with ending := true, queued := [], seqTag := cmdTag cmd.toNat }
        else { v with
          state := 5, rows := [], backlog := [], queued := [], suspend := false, ending := false, seqTag := cmdTag cmd.toNat }))) ∧
  (∀ (s : State) (us : WindowUnits) (cmd : BitVec 512), Live s →
    ∃ t, exec (.cloveClear us cmd) s = .next t ∧ t.node = { s.node with clvs := t.node.clvs } ∧
      (∀ k, clvGet t.node k = (let v := clvGet s.node k
        if reaches s.node us.stack.val (us.target.map Fin.val) us.pc.val k = false then v
        else if v.state = 4 ∨ v.state = 5 ∨ v.state = 6 then
          { v with state := 0, results := [], badRows := 0, firstBad := none, cmdErr := false, seqTag := cmdTag cmd.toNat }
        else { v with cmdErr := true }))) ∧
  (∀ (s : State) (u : UnitId) (cmd : BitVec 512), Live s → inMode s.node (unitNo u) = true →
    ∃ t, exec (.cloveInvalidOpcode u cmd) s = .next t ∧ t.node = { s.node with clvs := t.node.clvs } ∧
      clvGet t.node (unitNo u) = { clvGet s.node (unitNo u) with cmdErr := true } ∧
      (∀ k, k ≠ unitNo u → clvGet t.node k = clvGet s.node k))

/-- Row passes, result buffers, passes, refresh and the open region. A good row of a SCAN adds its entries under the slot
parameters to the result buffer of 32, what does not fit waiting behind it; a row of a CHECK that is bad is counted. A read
empties the buffer and refills a stalled one. Once every unit of a pass is DONE and empty its lists go to its sub-requests. A
batch closes when its first sub-request has waited BATCH_HOLD_US; a pass of a shard without delta rows ends as it starts. A unit
without progress is out of service, ABORTED. A refresh that falls due on a running unit is postponed, up to the limit, and
otherwise asks it to suspend at its next row boundary until it completes. A scrub is dated, and gives CHECKs to units that are
free only. A batch behind other passes may close earlier than BATCH_HOLD_US (R419). A pseudo-channel leaves Clove mode unless it
holds an open page. MSC_OPEN moves the open region unless a tier page lies in a row that would change kind. (04_clove_units.md.)
-/
def Obligations.CloveScan : Prop :=
  (∀ (s : State) (u : UnitId) (c : BitVec 512) (r : Bool × Nat) (rest : List (Bool × Nat)), Live s →
      (clvGet s.node (unitNo u)).state = 1 → (clvGet s.node (unitNo u)).cmd = some c → (clvGet s.node (unitNo u)).rows = r :: rest →
      (let v := clvGet s.node (unitNo u)
       let row := openRow s.node (unitRow (unitNo u) r)
      (cmdOp c.toNat = 1 → rowBad row (cmdShard c.toNat) (cmdCB c.toNat) (cmdEB c.toNat) = false →
        ∃ t, exec (.cloveRowDone u) s = .next t ∧
          t.node = { s.node with clvs := t.node.clvs, cnts := t.node.cnts, passes := t.node.passes } ∧
          (clvGet t.node (unitNo u)).results ++ (clvGet t.node (unitNo u)).backlog =
            v.results ++ (if rowKind row = 0 then [] else rowEmits v (cmdMask c.toNat) r row) ∧
          (v.results.length ≤ 32 → (clvGet t.node (unitNo u)).results.length ≤ 32) ∧
          (∀ k, k ≠ unitNo u → clvGet t.node k = clvGet s.node k)) ∧
      (cmdOp c.toNat = 2 → rowBad row (cmdShard c.toNat) (cmdCB c.toNat) (cmdEB c.toNat) = true → rest = [] → v.queued = [] →
          v.ending = false →
        ∃ t, exec (.cloveRowDone u) s = .next t ∧ (clvGet t.node (unitNo u)).state = 4 ∧
          (clvGet t.node (unitNo u)).badRows = Nat.min 255 (v.badRows + 1) ∧
          (clvGet t.node (unitNo u)).rowsDone = Nat.min 0xFFFF (v.rowsDone + 1) ∧ t.node.openRows = s.node.openRows))) ∧
  (∀ (s : State) (u : UnitId), Live s → inMode s.node (unitNo u) = true → (clvGet s.node (unitNo u)).results ≠ [] →
    ∃ t, exec (.resultRead u) s = .next t ∧
      (clvGet t.node (unitNo u)).results = (if (clvGet s.node (unitNo u)).state = 3 then (clvGet s.node (unitNo u)).backlog.take 32 else [])) ∧
  (∀ (s : State) (st : Fin 8) (pc : Fin 32) (k id : Nat) (p : Pass) (q : SubReq), Live s → s.node.passes = [p] → p.started = true →
      p.units = [k] → k ∈ pcUnits st.val pc.val → p.more = [] → p.ended = [] → p.bad = false → p.failed = false → p.subs = [id] →
      (clvGet s.node k).state = 4 → subFind s.node id = some q → s.node.tick < q.budgetEnd →
      (∀ v ∈ pcUnits st.val pc.val, (clvGet s.node v).results = [] ∧ (clvGet s.node v).cmdErr = false ∧ (clvGet s.node v).state < 6) →
    ∃ t, exec (.summaryPoll st pc) s = .next t ∧ t.node.passes = [] ∧
      subFind t.node id = some { q with delta := some ((List.range 8).flatMap (fun i => sget [] p.lists (i * 16))) } ∧
      (s.node.shards = [] → (stkGet s.node st.val).scrubs = [] →
          (∀ v ∈ pcUnits st.val pc.val, (clvGet s.node v).badRows = 0 ∧ (clvGet s.node v).state ≠ 5) →
        t.node = { s.node with passes := [], subReqs := t.node.subReqs, cnts := t.node.cnts })) ∧
  (∀ (s : State) (key : ShardKey) (b : Batch) (sh : Shard), Live s → s.node.batches.find? (fun b => b.key = key) = some b →
      shardFind s.node key = some sh →
    ∃ t p, exec (.batchHoldExpiry key) s = .next t ∧
      (s.node.passes = [] → b.opened + ticksUs (rfield s.node .msc 0 0x114 5 0) ≤ t.node.tick) ∧
      t.node.tick ≤ Nat.max s.node.tick (b.opened + ticksUs (rfield s.node .msc 0 0x114 5 0)) ∧
      p.num = s.node.nextPass ∧ p.key = key ∧ p.subs = b.subs ∧ p.started = false ∧ p.units = shardUnits sh ∧
      t.node = { s.node with
        tick := t.node.tick, free := t.node.free, batches := s.node.batches.filter (fun x => x.key ≠ key), passes := s.node.passes ++ [p],
        nextPass := s.node.nextPass + 1, sched := t.node.sched }) ∧
  (∀ (s : State) (p : Pass) (id : Nat) (q : SubReq), Live s → s.node.passes = [p] → p.started = false → p.units = [] → p.more = [] →
      p.bad = false → p.failed = false → p.lists = [] → p.subs = [id] → subFind s.node id = some q → s.node.tick < q.budgetEnd →
    ∃ t, exec .passStart s = .next t ∧ t.node = { s.node with passes := [], subReqs := t.node.subReqs } ∧
      subFind t.node id = some { q with delta := some [] }) ∧
  (∀ (s : State) (u : UnitId), Live s → (clvGet s.node (unitNo u)).state = 1 →
    ∃ t, exec (.unitNoProgress u) s = .next t ∧ (clvGet t.node (unitNo u)).state = 5 ∧ (clvGet t.node (unitNo u)).off = true ∧
      (∀ k, k ≠ unitNo u → clvGet t.node k = clvGet s.node k)) ∧
  (∀ (s : State) (u : UnitId), Live s → (clvGet s.node (unitNo u)).state = 1 →
      (let v := clvGet s.node (unitNo u)
       let limit := rfield s.node .msc u.stack.val 0x110 2 0
      ∃ t, exec (.refreshDue u .even) s = .next t ∧ t.node = { s.node with clvs := t.node.clvs, cnts := t.node.cnts } ∧
        clvGet t.node (unitNo u) = (if v.postEven < limit then { v with postEven := v.postEven + 1 } else { v with suspend := true })) ∧
      (let v := clvGet s.node (unitNo u)
       let limit := rfield s.node .msc u.stack.val 0x110 2 0
      ∃ t, exec (.refreshDue u .odd) s = .next t ∧ t.node = { s.node with clvs := t.node.clvs, cnts := t.node.cnts } ∧
        clvGet t.node (unitNo u) = (if v.postOdd < limit then { v with postOdd := v.postOdd + 1 } else { v with suspend := true }))) ∧
  (∀ (s : State) (u : UnitId) (bank : Bank), Live s → (clvGet s.node (unitNo u)).state = 0 ∨ (clvGet s.node (unitNo u)).state = 4 →
    ∃ t, exec (.refreshDue u bank) s = .next t ∧ t.node = { s.node with clvs := t.node.clvs } ∧
      clvGet t.node (unitNo u) = (match bank with
        | .even => { clvGet s.node (unitNo u) with actEven := 0 }
        | .odd => { clvGet s.node (unitNo u) with actOdd := 0 }) ∧
      (∀ k, k ≠ unitNo u → clvGet t.node k = clvGet s.node k)) ∧
  (∀ (s : State) (u : UnitId), Live s → (clvGet s.node (unitNo u)).state = 2 →
    ∃ t, exec (.refreshComplete u) s = .next t ∧ t.node = { s.node with clvs := t.node.clvs } ∧
      clvGet t.node (unitNo u) = { clvGet s.node (unitNo u) with state := 1, postEven := 0, postOdd := 0, actEven := 0, actOdd := 0 }) ∧
  (∀ (s : State) (st : Fin 8), Live s →
    ∃ t, exec (.scrubPeriod st) s = .next t ∧ (stkGet t.node st.val).scrubAt = t.node.tick ∧
      (stkGet s.node st.val).scrubAt + ticksMs (rfield s.node .msc st.val 0x118 15 0) ≤ t.node.tick ∧
      t.node.openRows = s.node.openRows ∧ (∀ k, unitFree s.node k = false → clvGet t.node k = clvGet s.node k)) ∧
  (∀ (s : State) (st : Fin 8) (pc : Fin 32) (v : Word), Live s → v.toNat = 2 ^ pc.val → (stkGet s.node st.val).pcOff.contains pc.val = false →
    ∃ t, exec (.mscCloveOff st v) s = .next t ∧
      (s.node.openPages.any (fun p => p.1 / 2048 / 768 = st.val && unitPc (p.1 / 2048) = pc.val) = false →
        (stkGet t.node st.val).pcOff = (stkGet s.node st.val).pcOff ++ [pc.val] ∧
        (∀ k ∈ pcUnits st.val pc.val, (clvGet t.node k).state = 5)) ∧
      (s.node.openPages.any (fun p => p.1 / 2048 / 768 = st.val && unitPc (p.1 / 2048) = pc.val) = true →
        t.node.stks = s.node.stks ∧ t.node.clvs = s.node.clvs ∧ (pageGet t.node (pageOf .msc st.val)).cause ≠ 0)) ∧
  (∀ (s : State) (st : Fin 8) (v : Word), Live s → wbits v 15 8 ≤ wbits v 7 0 → wbits v 7 0 ≤ 0xFE →
      (∀ g, groupUsed s.node st.val g = false) →
    ∃ t, exec (.mscOpenWrite st v) s = .next t ∧ regStored t.node (regAddr .msc st.val 0x10C) = v &&& 0xFFFF#32 ∧
      t.node = { s.node with regs := t.node.regs })

/-- Operators of a running program, their end, and a restart. Each operator command computes its outputs for a RUNNING program
whose current operator has its code, and leaves a program at another operator as it is. The end of an operator moves the program
to the next one; the last one hands the output tensor to the query as its vector and the program is over. A program that has lost
an array of its group starts again from its first operator, on a group without that array, once; a second loss fails its query;
one whose array lost its tile buffer reports that. (07_tensor_arrays.md.) -/
def Obligations.TensorOperators : Prop :=
  (∀ (s : State) (prog code : Nat) (f : Prog → TOp → OpOut) (c : Instr) (p : Prog) (o : TOp), Live s →
      (c, code) ∈ [(Instr.tnsNop prog, 0x00), (.matmul prog, 0x01), (.add prog, 0x02), (.mul prog, 0x03), (.act prog, 0x04), (.norm prog, 0x05),
        (.softmax prog, 0x06), (.permute prog, 0x07), (.gather prog, 0x08), (.tnsPool prog, 0x09), (.quant prog, 0x0A),
        (.dequant prog, 0x0B), (.convert prog, 0x0C), (.l2normalize prog, 0x0D), (.encodePq prog, 0x0E), (.kmeans prog, 0x0F)] →
      f = [fun _ _ => outNone, runMatmul, runBin addC, runBin mulC, runAct, fun p o => rowsOp (normRow p o) p o,
        fun p o => rowsOp (softmaxRow (pTen p o.in0) o) p o, runPermute, runGather, runPool, runQuant, runDequant, runConvert, runL2,
        runEncodePQ, runKmeans].getD code (fun _ _ => outNone) →
      progFind s.node prog = some p → p.state = 1 → p.ran = false → p.ops[p.op]? = some o →
      (o.code = code → weightBad s.node p o = none →
        ∃ t p', exec c s = .next t ∧ progFind t.node prog = some p' ∧ p'.ran = true ∧ p'.op = p.op ∧ p'.state = 1 ∧
          p'.tens = (f p o).tens.foldl (fun m x => sins m x.1 x.2) p.tens ∧
          p'.zeroNorm = (p.zeroNorm || (f p o).zeroNorm) ∧
          t.node = { s.node with
            progs := t.node.progs, cnts := t.node.cnts, free := t.node.free, pages := t.node.pages, jnl := t.node.jnl,
            jnext := t.node.jnext, mram := t.node.mram, out := t.node.out, i3c := t.node.i3c }) ∧
      (o.code ≠ code → exec c s = .next s)) ∧
  (∀ (s : State) (prog : Nat) (p : Prog), Live s → progFind s.node prog = some p → p.state = 1 → p.ran = true → p.op + 1 < p.ops.length →
      progLate p s.node = false →
    ∃ t p', exec (.operatorComplete prog) s = .next t ∧ progFind t.node prog = some p' ∧ p'.op = p.op + 1 ∧ p'.ran = false ∧
      p'.tens = p.tens) ∧
  (∀ (s : State) (prog req i : Nat) (p : Prog) (r : Req), Live s → progFind s.node prog = some p → p.state = 1 → p.ran = true →
      p.ops.length ≤ p.op + 1 → p.cls = 0 → p.req = some req → p.descs.findIdx? (fun d => d.role = 3) = some i →
      reqFind s.node req = some r →
    ∃ t r', exec (.operatorComplete prog) s = .next t ∧ progFind t.node prog = none ∧ reqFind t.node req = some r' ∧
      r'.vec = some ((pTen p i).vals.map (fun v => posZero (w32 v)))) ∧
  (∀ (s : State) (prog : Nat) (lost : Fin 104) (tile : Bool) (p : Prog), Live s → progFind s.node prog = some p → p.state = 1 →
      p.arrays.contains lost.val = true → p.restarted = false → progLate p s.node = false →
    ∃ t p', exec (.programRestart prog lost tile) s = .next t ∧ progFind t.node prog = some p' ∧ p'.op = 0 ∧ p'.ran = false ∧
      p'.restarted = true ∧ p'.avoid.contains lost.val = true ∧ (tile = true → (pageGet t.node (pageOf .tns lost.val)).cause ≠ 0) ∧
      sget 0 t.node.cnts (regAddr .tns lost.val 0x134) = sget 0 s.node.cnts (regAddr .tns lost.val 0x134) + 1) ∧
  (∀ (s : State) (prog : Nat) (lost : Fin 104) (tile : Bool) (p : Prog) (r : Req) (x : Qp), Live s → progFind s.node prog = some p → p.state = 1 →
      p.arrays.contains lost.val = true → p.restarted = true → p.cls = 0 → p.req = some r.id → reqFind s.node r.id = some r → qpFind s.node r.qp = some x → x.state = 1 →
      64 ≤ bword r.d 0x24 →
    ∃ t, exec (.programRestart prog lost tile) s = .next t ∧ progFind t.node prog = none ∧ Over t.node r.id ∧ Answered t.node r.qp r.d 6)

/-- Conversions, gathers, activations and codes of the tensor arrays. A conversion to INT8 or INT4 yields at most 127 or 7 in
magnitude and its flag says whether a greater one was held. GATHER copies row IN0[i] of its table; RELU keeps a positive element's
code in FP32 and makes a negative one 0; L2NORMALIZE leaves a row of norm 0 all zeros; ENCODE_PQ gives, in each subspace, a
centroid whose distance no other undercuts. A code packed from 4-bit codes gives each of them back. (07_tensor_arrays.md,
02_index_objects.md, 03_graph_walk.md.) -/
def Obligations.TensorArithmetic : Prop :=
  (∀ (f : Nat) (x : Dy), f = 3 ∨ f = 4 →
      dyRoundInt (tdecode f (tencode f x).1) ≤ intMax f ∧ -(intMax f : Int) ≤ dyRoundInt (tdecode f (tencode f x).1) ∧
      (tencode f x).2 = decide (intMax f < (dyRoundInt x).natAbs) ∧
      ((tencode f x).2 = false → dyRoundInt (tdecode f (tencode f x).1) = dyRoundInt x)) ∧
  (∀ (p : Prog) (o : TOp) (i j : Nat), i < (pTen p o.in0).vals.length → j < tsize ((pTen p o.in1).dims.drop 1) →
      tget (pTen p o.in0) i * tsize ((pTen p o.in1).dims.drop 1) + j < (pTen p o.in1).vals.length →
    ∃ t, (runGather p o).tens = [(o.out, t)] ∧ t.fmt = (pTen p o.in1).fmt ∧
      tget t (i * tsize ((pTen p o.in1).dims.drop 1) + j) =
        tget (pTen p o.in1) (tget (pTen p o.in0) i * tsize ((pTen p o.in1).dims.drop 1) + j)) ∧
  (∀ x : F32, (f32Neg x = true → actFn 0 x = 0) ∧ (f32Neg x = false → actFn 0 x = x)) ∧
  (∀ (i k : Nat) (x : List F32), normZero x = true → l2Row i x k = (x.map (fun _ => 0), k)) ∧
  (∀ (book : Blob) (m w sub c : Nat) (v : List F32), sub < m → c < 16 →
    let code := codeAt (encodePQVec book m w v) sub
    let dist := fun c => sqDist (subPart v w sub) (centroid book w sub c) 0
    code < 16 ∧ f32Lt (dist c) (dist code) = false) ∧
  (∀ (l : List Nat) (s c : Nat), l[s]? = some c → codeAt (packCode l) s = c % 16)

/-- Rows at their home, at the partner, on the move, and answers at the admitting node. A sub-bag of one row that is at home here
is pooled at once; for a table unknown here it is answered MISROUTE. An update at the home stores the record under the next RSEQ
and goes to the partner, and its answer leaves when the partner confirms it; without a partner or a quorum it is answered
RETRY_LATER. A record being restored is not written. A mirrored record enters the partner's image; a moved row is installed; both
are confirmed. The only partial of a one-bag POOL ends it with the vector, and the only answer of a one-record update ends it with
the word. At the end of a load window the counts start anew, and in the third window over the threshold the hottest row goes to
the member with room. A forwarding window ends 1 ms after the confirmation, and the row's old place is empty. REDIRECT_SET sets
the default home's entry. (08_embedding_pool.md.) -/
def Obligations.EmbeddingRows : Prop :=
  (∀ (s : State) (h : MsgHdr) (m : SubBagMsg) (tb : TabSt) (it : BagItem), Live s → Taken s.node h (.subBag m) →
      tabFind s.node m.handle m.gen = some tb → m.items = [it] → it.fseq = 0 → isHome s.node tb it.row = true →
      rowLost s.node tb it.row = false → hasRoute s.node h.src.toNat = true →
    ∃ t e tb', exec (.subBag h m) s = .next t ∧ tabFind t.node m.handle m.gen = some tb' ∧ tb'.rows = tb.rows ∧
      Sent t.node h.src.toNat h.tag.toNat (.pooled {
        bag := it.bag, firstPos := it.pos, energy := e, status := 0, detail := 0, saturated := rowSat tb it.row, rows := 1,
        hints := if m.forwarded then [(it.row, s.node.nodeId)] else [], forwarded := m.forwarded,
        elems := (rowVals tb it.row).map posZero })) ∧
  (∀ (s : State) (h : MsgHdr) (m : SubBagMsg), Live s → Taken s.node h (.subBag m) → tabFind s.node m.handle m.gen = none →
      hasRoute s.node h.src.toNat = true →
    ∃ t, exec (.subBag h m) s = .next t ∧
      Sent t.node h.src.toNat h.tag.toNat (.misroute { epoch := s.node.map.epoch, newHolder := none }) ∧
      t.node = { heard s.node h (.subBag m) with cnts := t.node.cnts, out := t.node.out, free := t.node.free }) ∧
  (∀ (s : State) (h : MsgHdr) (m : RowOpMsg) (tb : TabSt), Live s → Taken s.node h (.rowOp m) →
      currentGen s.node.map m.handle ≠ some (nextGen m.gen) → tabFind s.node m.handle m.gen = some tb → m.fseq = 0 →
      isHome s.node tb m.row = true → m.op = 1 → tb.restoring.contains (tShardOf tb m.row) = false → tb.bad.contains m.row = false →
      (∀ p, s.node.quorum = true → rowPartner s.node tb m.row = some p → p ≠ s.node.nodeId → hasRoute s.node p.toNat = true →
        ∃ t tb', exec (.rowOp h m) s = .next t ∧ tabFind t.node m.handle m.gen = some tb' ∧
          (let row : TRow := { record := (encodeRow (tFmt tb) m.elems).1, rseq := ((rowGet tb m.row).rseq + 1) % 2 ^ 64 }
          rowGet tb' m.row = row ∧ (∀ r, r ≠ m.row → rowGet tb' r = rowGet tb r) ∧
          Sent t.node p.toNat s.node.nextTag (.rowMove {
            handle := m.handle, gen := m.gen, row := m.row, rseq := row.rseq, record := row.record, mirror := true }) ∧
          tb'.acks.map (·.tag) = tb.acks.map (·.tag) ++ [s.node.nextTag])) ∧
      (s.node.quorum = false ∨ rowPartner s.node tb m.row = none → hasRoute s.node h.src.toNat = true →
        ∃ t, exec (.rowOp h m) s = .next t ∧
          Sent t.node h.src.toNat h.tag.toNat (.rowAnswer {
            row := m.row, rseq := (rowGet tb m.row).rseq, status := 5, detail := 10000, saturated := false, home := s.node.nodeId,
            energy := 0, forwarded := m.forwarded }) ∧
          t.node = { heard s.node h (.rowOp m) with out := t.node.out, free := t.node.free })) ∧
  (∀ (s : State) (h : MsgHdr) (m : RowRefMsg) (tb : TabSt) (a : RowAck), Live s → Taken s.node h (.rowInstalled m) →
      tabFind s.node m.handle m.gen = some tb → tb.acks.find? (fun a => a.tag = h.tag.toNat) = some a → hasRoute s.node a.dst = true →
    ∃ t tb', exec (.rowInstalled h m) s = .next t ∧ Sent t.node a.dst a.rtag (.rowAnswer a.ans) ∧
      tabFind t.node m.handle m.gen = some tb' ∧ tb' = { tb with acks := tb.acks.filter (fun x => x.tag ≠ a.tag) } ∧
      t.node = { heard s.node h (.rowInstalled m) with tabs := t.node.tabs, out := t.node.out, free := t.node.free }) ∧
  (∀ (s : State) (h : MsgHdr) (m : RowMoveMsg) (tb : TabSt), Live s → Taken s.node h (.rowMove m) →
      tabFind s.node m.handle m.gen = some tb → tb.waits = [] → hasRoute s.node h.src.toNat = true →
    ∃ t tb', exec (.rowMove h m) s = .next t ∧ tabFind t.node m.handle m.gen = some tb' ∧
      Sent t.node h.src.toNat h.tag.toNat (.rowInstalled { handle := m.handle, gen := m.gen, row := m.row }) ∧
      (m.mirror = true → tb' = { tb with image := tb'.image, imgUas := tb'.imgUas, redirect := tb'.redirect } ∧
        (∀ r, r ≠ m.row → sget trowZero tb'.image r = sget trowZero tb.image r ∧ sget 0 tb'.redirect r = sget 0 tb.redirect r) ∧
        sget trowZero tb'.image m.row = { record := m.record, rseq := m.rseq }) ∧
      (m.mirror = false → rowGet tb' m.row = { record := m.record, rseq := m.rseq } ∧ isHome t.node tb' m.row = true ∧
        tb'.image = tb.image ∧ (∀ r, r ≠ m.row → rowGet tb' r = rowGet tb r))) ∧
  (∀ (s : State) (h : MsgHdr) (m : PooledMsg) (r : Req) (sb : Sub) (b : SubBagMsg) (tb : TabSt) (row : Nat) (x : Qp), Live s →
      Taken s.node h (.pooled m) → tagOwner s.node h.tag.toNat = some (r, sb) → reqFind s.node r.id = some r → sb.msg = .subBag b →
      b.items.length = 1 → r.subs = [sb] → r.op = 3 → r.pooled = [] → reqBags r = [[row]] → reqMean r = false → m.bag = 0 → m.rows = 1 →
      m.hints = [] → m.elems ≠ [] → tabFind s.node r.tabHandle r.tabGen = some tb → qpFind s.node r.qp = some x → x.state = 1 →
      64 ≤ bword r.d 0x24 →
    ∃ t, exec (.pooled h m) s = .next t ∧ Over t.node r.id ∧ (m.status = 0 → Answered t.node r.qp r.d 0 ∧
        Out.rdmaWrite r.qp (bnum r.d 0x18 8 + 64) (bword r.d 0x20) (bconcat [f32Blob (m.elems.map posZero)]) ∈ t.node.out) ∧
      (m.status ≠ 0 → Answered t.node r.qp r.d m.status)) ∧
  (∀ (s : State) (h : MsgHdr) (m : RowAnswerMsg) (r : Req) (sb : Sub) (b : RowOpMsg) (tb : TabSt) (x : Qp), Live s →
      Taken s.node h (.rowAnswer m) → tagOwner s.node h.tag.toNat = some (r, sb) → reqFind s.node r.id = some r → sb.msg = .rowOp b →
      r.subs = [sb] → r.op = 3 → bnum r.d 6 2 = 1 → sb.shard = 0 → r.words = [] → m.status < 256 →
      tabFind s.node b.handle b.gen = some tb → qpFind s.node r.qp = some x → x.state = 1 → 64 ≤ bword r.d 0x24 →
    ∃ t, exec (.rowAnswer h m) s = .next t ∧ Over t.node r.id ∧ Answered t.node r.qp r.d m.status ∧
      Out.rdmaWrite r.qp (bnum r.d 0x18 8 + 64) (bword r.d 0x20)
        (recsBlob [rowWord m.rseq m.status m.saturated (tShardOf tb b.row)]) ∈ t.node.out) ∧
  (∀ (s : State) (h g : Nat) (loads : List MemberLoad) (tb : TabSt), Live s → tabFind s.node h g = some tb → tMigrate tb = 0 →
    ∃ t tb', exec (.loadWindowExpiry h g loads) s = .next t ∧ tabFind t.node h g = some tb' ∧
      tb' = { tb with lastReads := tb.reads, lastUpd := tb.updates, reads := [], updates := [], hot := [], overLim := 0,
                      windowAt := t.node.tick } ∧
      tb.windowAt + ticksMs (tWindow tb) ≤ t.node.tick ∧ t.node = { s.node with tick := t.node.tick, tabs := t.node.tabs }) ∧
  (∀ (s : State) (h g row k : Nat) (l : MemberLoad) (tb : TabSt), Live s → tabFind s.node h g = some tb → tMigrate tb ≠ 0 → tb.overLim = 2 →
      tb.hot = [(row, k)] → isHome s.node tb row = true → rowLost s.node tb row = false → l.node ≠ s.node.nodeId →
      isMember s.node l.node.toNat = true → isFenced s.node l.node.toNat = false → 0 < l.free → 2 ≤ levelWith s.node l.node.toNat →
      (nsum (tb.reads.map (·.2)) + l.reads) * (100 + tMigrate tb) < nsum (tb.reads.map (·.2)) * 200 →
      hasRoute s.node l.node.toNat = true →
    ∃ t tb', exec (.loadWindowExpiry h g [l]) s = .next t ∧ tabFind t.node h g = some tb' ∧
      tb'.away = tb.away ++ [{ row := row, towards := l.node, fseq := 0, conf := none }] ∧
      Sent t.node l.node.toNat s.node.nextTag (.rowMove {
        handle := h, gen := g, row := row, rseq := (rowGet tb row).rseq, record := (rowGet tb row).record, mirror := false })) ∧
  (∀ (s : State) (h g row c : Nat) (tb : TabSt) (o : RowOut), Live s → tabFind s.node h g = some tb →
      tb.away.find? (fun o => o.row = row) = some o → o.conf = some c →
    ∃ t tb', exec (.rowForwardingExpiry h g row) s = .next t ∧ tabFind t.node h g = some tb' ∧
      tb'.away = tb.away.filter (fun x => x.row ≠ row) ∧ rowGet tb' row = trowZero ∧
      (∀ r, r ≠ row → rowGet tb' r = rowGet tb r) ∧ c + ticksMs 1 ≤ t.node.tick ∧
      t.node = { s.node with tick := t.node.tick, tabs := t.node.tabs }) ∧
  (∀ (s : State) (h : MsgHdr) (m : RedirectMsg) (tb : TabSt), Live s → Taken s.node h (.redirectSet m) →
      tabFind s.node m.handle m.gen = some tb →
    ∃ t tb', exec (.redirectSet h m) s = .next t ∧ tabFind t.node m.handle m.gen = some tb' ∧
      sget 0 tb'.redirect m.row = (if m.home = s.node.nodeId ∨ defaultHome s.node tb m.row = some m.home then 0 else m.home.toNat + 1) ∧
      (∀ r, r ≠ m.row → sget 0 tb'.redirect r = sget 0 tb.redirect r) ∧
      t.node = { heard s.node h (.redirectSet m) with tabs := t.node.tabs })

/-- Promotions, background moves, heat, transfers and the patrol. A promotion that ends well homes the page in its target with its
flash frame as clean copy, and changes nothing besides where no unit of it was DISCARDED; one that fails, or whose frame has a
lost unit, leaves it in flash. No promotion waits for a frame in these clauses. A background move that the policy asks for and a
free frame allows begins with an empty dirty map, at no more than MOVES_PER_MS; otherwise nothing changes. The copy's end begins
the hold; the switch ends it with the page in its target, or where it was, and retires the old frame where the move was made for
that. A decay halves every HEAT. The last chunk of a read completes its transfer with the object's bytes (a DISCARDED unit in
flash gives its last content or zeros); a stopped transfer goes on, and past its deadline fails. A patrol read that is clean
changes nothing; a corrected one is counted; an uncorrectable one poisons its word, and one in a home slice's line is reported by
the slice too. A word lost in one copy of a node-internal structure is written again; lost in both, the node withdraws and stops.
(09_memory_tiers.md, 14_faults_and_recorder.md.) -/
def Obligations.TierMoves : Prop :=
  (∀ (s : State) (page : Nat) (ok : Bool) (e : PgEnt), Live s → ptGet s.node page = some e → e.moving = true → e.home = 3 →
      e.waiters = [] → (∀ p e', p ≠ page → ptGet s.node p = some e' → e'.waiters ≠ [] → e'.home = 3 → e'.moving = true) →
      (ok = true → (∀ i m, fmapGet s.node (e.frame * 16 + i) = some m → m.mstate ≠ 3) →
        ∃ t, exec (.promotionComplete page ok) s = .next t ∧
          ptGet t.node page = some { e with
            home := e.target, frame := e.tframe, moving := false, promoted := true, order := s.node.mmu.promos,
            clean := some e.frame, waiters := [], idleAt := s.node.tick } ∧
          (∀ p, p ≠ page → ptGet t.node p = ptGet s.node p) ∧
          ((∀ i, i < 16 → discardedAt s.node (page * 65536 + 4096 * i) = false) →
            t.node = { s.node with mmu := t.node.mmu, cnts := t.node.cnts })) ∧
      (ok = false →
        ∃ t, exec (.promotionComplete page ok) s = .next t ∧
          ptGet t.node page = some { e with moving := false, waiters := [] } ∧
          (∀ p, p ≠ page → ptGet t.node p = ptGet s.node p) ∧ (pageGet t.node (pageOf .mmu 0)).cause ≠ 0)) ∧
  (∀ (s : State) (page : Nat) (e : PgEnt), Live s → ptGet s.node page = some e →
      (∀ tier f, policyTarget s.node e = some tier → takeFrame tier s.node = some f → tier ≠ 3 → s.node.mmu.moveWin ≠ s.node.tick / ticksMs 1 →
          0 < rfield s.node .mmu 0 0x108 31 16 →
          takenIn s.node e.tid tier < (if tier = 1 then (quotaGet s.node e.tid).usedStack else (quotaGet s.node e.tid).usedDimm) →
          tier = 1 ∨ tier = 2 →
        ∃ t e', exec (.backgroundMove page) s = .next t ∧ ptGet t.node page = some e' ∧
          e' = { e with moving := true, target := tier, tframe := f, dirty := 0, hold := false, heldN := 0 } ∧
          t.node.mmu.moveN = 1 ∧ (∀ p, p ≠ page → ptGet t.node p = ptGet s.node p) ∧ t.node = { s.node with mmu := t.node.mmu }) ∧
      (policyTarget s.node e = none → exec (.backgroundMove page) s = .next s)) ∧
  (∀ (s : State), Live s →
    ∃ t, exec .heatDecay s = .next t ∧ (∀ p, (ptGet t.node p).map (·.heat) = (ptGet s.node p).map (fun e => e.heat / 2)) ∧
      s.node.mmu.decayAt + ticksMs (rfield s.node .mmu 0 0x104 15 0) ≤ t.node.tick ∧
      t.node = { s.node with tick := t.node.tick, mmu := t.node.mmu }) ∧
  (∀ (s : State) (page : Nat) (e : PgEnt), Live s → ptGet s.node page = some e → e.moving = true → e.home ≠ 3 → e.hold = false →
    ∃ t, exec (.moveCopyComplete page) s = .next t ∧ ptGet t.node page = some { e with hold := true, heldN := s.node.tick } ∧
      (∀ p, p ≠ page → ptGet t.node p = ptGet s.node p) ∧ t.node = { s.node with mmu := t.node.mmu }) ∧
  (∀ (s : State) (page : Nat) (ok : Bool) (e : PgEnt), Live s → ptGet s.node page = some e → e.moving = true → e.hold = true →
      e.target ≠ 3 → (∀ p e', p ≠ page → ptGet s.node p = some e' → e'.waiters ≠ [] → e'.home = 3 → e'.moving = true) →
    ∃ t e', exec (.moveSwitch page ok) s = .next t ∧ ptGet t.node page = some e' ∧ e'.moving = false ∧ e'.hold = false ∧ e'.dirty = 0 ∧
      e'.home = (if ok then e.target else e.home) ∧ e'.frame = (if ok then e.tframe else e.frame) ∧ e'.heat = e.heat ∧ e'.retire = false ∧
      t.node.mmu.retired = (if ok ∧ e.retire = true then s.node.mmu.retired ++ [e.home * 2 ^ 32 + e.frame] else s.node.mmu.retired) ∧
      (∀ p, p ≠ page → ptGet t.node p = ptGet s.node p) ∧ t.node.ftl = s.node.ftl) ∧
  (∀ (s : State) (c : Fin 64) (o : ObjRange) (e : PgEnt), Live s → (dmaGet s.node c.val).state = 1 →
      (dmaGet s.node c.val).write = false → (dmaGet s.node c.val).job = none →
      (dmaGet s.node c.val).total = (dmaGet s.node c.val).progress + 1 →
      (let a := (dmaGet s.node c.val).addr + 4096 * (dmaGet s.node c.val).progress
      objOf s.node (tpage a) = some o → ptGet s.node (tpage a) = some e → e.home ≠ 3 → e.hold = false →
      poisoned s.node a 4096 = false →
    ∃ t, exec (.dmaChunkComplete c) s = .next t ∧ (dmaGet t.node c.val).state = 4 ∧
      (dmaGet t.node c.val).progress = (dmaGet s.node c.val).total ∧
      (dmaGet t.node c.val).data = bappend (dmaGet s.node c.val).data (flashBytes a (objRead s.node o a 4096) s.node).1 ∧
      (∀ k, k ≠ c.val → dmaGet t.node k = dmaGet s.node k) ∧ t.node = { s.node with mmu := t.node.mmu, free := t.node.free })) ∧
  (∀ (s : State) (c : Fin 64), Live s → (dmaGet s.node c.val).state = 2 → (dmaGet s.node c.val).page = none →
      (dmaGet s.node c.val).job = none →
      ((dmaGet s.node c.val).deadline = 0 →
        ∃ t, exec (.dmaRestart c c) s = .next t ∧ dmaGet t.node c.val = { dmaGet s.node c.val with state := 1, page := none } ∧
          t.node = { s.node with mmu := t.node.mmu }) ∧
      ((dmaGet s.node c.val).deadline ≠ 0 → (dmaGet s.node c.val).deadline ≤ s.node.tick →
        ∃ t, exec (.dmaRestart c c) s = .next t ∧ dmaGet t.node c.val = { dmaGet s.node c.val with state := 5 } ∧
          (pageGet t.node (pageOf .mmu 0)).cause ≠ 0)) ∧
  (∀ (s : State) (addr : Nat), Live s → exec (.patrolRead addr .clean) s = .next s) ∧
  (∀ (s : State) (addr : Nat) (e : PgEnt), Live s → ptGet s.node (tpage addr) = some e → e.home = 1 ∨ e.home = 2 → e.open_ = false →
    (∃ t, exec (.patrolRead addr .corrected) s = .next t ∧ t.node.poison = s.node.poison ∧
      sget 0 t.node.cnts (regAddr .mmu 0 0x158) = sget 0 s.node.cnts (regAddr .mmu 0 0x158) + 1) ∧
    (∃ t, exec (.patrolRead addr .uncorrectable) s = .next t ∧ poisoned t.node (addr / 4 * 4) 4 = true ∧ t.node.mmu = s.node.mmu ∧
      sget 0 t.node.cnts (regAddr .mmu 0 0x15C) = sget 0 s.node.cnts (regAddr .mmu 0 0x15C) + 1) ∧
    (∃ t, exec (.patrolRead addr .lineCorrected) s = .next t ∧ t.node = { s.node with cnts := t.node.cnts } ∧
      sget 0 t.node.cnts (regAddr .mmu 0 0x158) = sget 0 s.node.cnts (regAddr .mmu 0 0x158) + 1) ∧
    (∃ t, exec (.patrolRead addr .lineUncorrectable) s = .next t ∧ poisoned t.node (addr / 4 * 4) 4 = true ∧
      t.node.mmu = s.node.mmu ∧ (pageGet t.node (pageOf .hs (sliceOf addr s.node))).cause ≠ 0 ∧
      sget 0 t.node.cnts (regAddr .mmu 0 0x15C) = sget 0 s.node.cnts (regAddr .mmu 0 0x15C) + 1)) ∧
  (∀ (s : State) (addr : Nat) (directory : Bool), Live s →
    (∃ t, exec (.patrolRead addr .copyUncorrectable) s = .next t ∧ t.node.poison = s.node.poison ∧ t.node.topState = s.node.topState ∧
      (pageGet t.node (pageOf .mmu 0)).cause ≠ 0 ∧
      sget 0 t.node.cnts (regAddr .mmu 0 0x15C) = sget 0 s.node.cnts (regAddr .mmu 0 0x15C) + 1) ∧
    (∃ t, exec (.patrolRead addr (.copiesLost directory)) s = .next t ∧ t.node.topState = 4 ∧ t.node.stopCause = 4 ∧
      t.node.poison = s.node.poison))

/-- Units enter the write buffer, are programmed, and the map follows. A unit write takes the next WRITE_SEQ and a slot of its
stream's open block; a READ_ONLY pool takes none and counts the refusal. FLUSH_US after its first unit a page set is padded and
programmed; 1 ms after its last unit an open word line is complete. The program's completion switches the map to the unit's new
place. A failed program retires its block. A shard checkpoint marks COMMITTED_MSN, a postponed one is counted; the map checkpoint
writes a root that holds the map; FTL_FORMAT empties the pool, or is refused without effect. (10_flash_media.md.) -/
def Obligations.FlashWrites : Prop :=
  (∀ (s : State) (ua tid b : Nat) (stream : Stream) (data : Blob), Live s → poolFormatted s.node = true →
      sget 0 s.node.ftl.opens (streamNo stream) = b + 1 →
    ∃ t u, exec (.unitWrite ua stream tid data) s = .next t ∧ u ∈ t.node.ftl.buf ∧ u.ua = ua ∧ u.tid = tid ∧ u.data = data ∧ u.blk = b ∧
      u.seq = s.node.ftl.seq + 1 ∧ t.node.ftl.seq = s.node.ftl.seq + 1 ∧ (fblkGet t.node b).next = (fblkGet s.node b).next + 1 ∧
      t.node.ftl.map = s.node.ftl.map ∧ t.node = { s.node with ftl := t.node.ftl, cnts := t.node.cnts }) ∧
  (∀ (s : State) (ua tid : Nat) (stream : Stream) (data : Blob), Live s → s.node.ftl.pool = 4 →
    ∃ t, exec (.unitWrite ua stream tid data) s = .next t ∧ t.node = { s.node with cnts := t.node.cnts } ∧
      sget 0 t.node.cnts (regAddr .ftl 0 0x144) = sget 0 s.node.cnts (regAddr .ftl 0 0x144) + 1) ∧
  (∀ (s : State) (stream : Stream) (b : Nat) (u : WUnit), Live s → sget 0 s.node.ftl.opens (streamNo stream) = b + 1 →
      s.node.ftl.buf.find? (fun u => u.blk = b && u.stage = 0) = some u →
      (fblkGet s.node b).next % setSlots (pkgOf s.node b) ≠ 0 →
    ∃ t, exec (.pageSetFlush stream) s = .next t ∧ (∀ u ∈ t.node.ftl.buf, u.blk = b → u.stage ≠ 0) ∧
      u.at_ + ticksUs (rfield s.node .ftl 0 0x104 15 8) ≤ t.node.tick ∧ t.node.ftl.map = s.node.ftl.map) ∧
  (∀ (s : State) (stream : Stream) (b : Nat) (u : WUnit), Live s → sget 0 s.node.ftl.opens (streamNo stream) = b + 1 →
      singleBit (pkgOf s.node b) (streamNo stream) = false → (s.node.ftl.buf.filter (fun u => u.blk = b)).getLast? = some u →
    ∃ t, exec (.fillerTimeout stream) s = .next t ∧ u.at_ + ticksMs 1 ≤ t.node.tick ∧
      (fblkGet t.node b).next % (setSlots (pkgOf s.node b) * Nat.max 1 (pkgOf s.node b).wl) = 0 ∧ t.node.ftl.map = s.node.ftl.map) ∧
  (∀ (s : State) (block : BlockId) (u : WUnit), Live s → s.node.ftl.buf = [u] → u.blk = codeOf block → u.stage = 1 → u.stream ≠ 5 →
      u.jour = none → u.ckpt = none → lineOf (pkgOf s.node (codeOf block)) (fblkGet s.node (codeOf block)).stream = 1 →
      (u.page + 1) * setSlots (pkgOf s.node (codeOf block)) ≤ (fblkGet s.node (codeOf block)).next →
      (∀ m, fmapGet s.node u.ua = some m → m.seq ≤ u.seq) →
    ∃ t, exec (.programComplete block) s = .next t ∧ t.node.ftl.buf = [] ∧
      fmapGet t.node u.ua = some { mstate := 1, blk := u.blk, page := u.page, slot := u.slot, seq := u.seq, tid := u.tid, data := u.data } ∧
      (∀ a, a ≠ u.ua → fmapGet t.node a = fmapGet s.node a) ∧ t.node = { s.node with ftl := t.node.ftl, cnts := t.node.cnts }) ∧
  (∀ (s : State) (block : BlockId), Live s →
      s.node.ftl.buf.any (fun u => u.blk = codeOf block && u.stage = 1) = true →
    ∃ t, exec (.programFail block) s = .next t ∧ (fblkGet t.node (codeOf block)).state = 3 ∧
      (pageGet t.node (pageOf .fch block.ch.val)).cause ≠ 0) ∧
  (∀ (s : State) (key : ShardKey) (sh : Shard) (room : Bool) (c : Instr), Live s → shardFind s.node key = some sh →
      poolFormatted s.node = true → c = .shardCheckpoint key room ∨ c = .postponedMark key room →
    ∃ t, exec c s = .next t ∧ t.node.shards = s.node.shards ∧
      (room = true → ∃ k ∈ t.node.ftl.ckpts, k.key = key ∧ k.c = sh.committed ∧ k.image = sh ∧ k.done = false) ∧
      (room = false → t.node.ftl.ckpts = s.node.ftl.ckpts ∧ t.node.ftl.postponed = s.node.ftl.postponed + 1) ∧
      markOf t.node key = t.node.tick) ∧
  (∀ (s : State), Live s → poolFormatted s.node = true →
    ∃ t r, exec .mapCheckpoint s = .next t ∧ t.node.ftl.roots.getLast? = some r ∧ r.ckptSeq = s.node.ftl.ckptSeq + 1 ∧
      r.map = s.node.ftl.map ∧ r.reserve = s.node.ftl.reserve ∧ t.node.ftl.map = s.node.ftl.map ∧ t.node.ftl.dirty = []) ∧
  (∀ (s : State) (v : Word), Live s →
      (wbits v 31 16 = 0xF1A5 → 7 ≤ wbits v 7 0 → wbits v 7 0 ≤ 28 → holdsAnyRole s.node = false →
        ∃ t, exec (.ftlFormat v) s = .next t ∧ t.node.ftl.pool = 2 ∧ t.node.ftl.reserve = wbits v 7 0 ∧ t.node.ftl.map = [] ∧
          t.node.ftl.buf = [] ∧ t.node.ftl.formats = s.node.ftl.formats + 1 ∧
          t.node = { s.node with ftl := t.node.ftl, mmu := { s.node.mmu with capFlash := t.node.mmu.capFlash } }) ∧
      (wbits v 31 16 ≠ 0xF1A5 ∨ wbits v 7 0 < 7 ∨ 28 < wbits v 7 0 →
        ∃ t, exec (.ftlFormat v) s = .next t ∧ t.node.ftl = s.node.ftl ∧ t.node.mmu = s.node.mmu ∧
          (pageGet t.node (pageOf .ftl 0)).cause ≠ 0))

/-- Flash reads, suspensions, reclaim, erases, refresh and losses. A unit read waits on its LUN where its map page is cached,
otherwise on the map page, which lets it go on when it arrives. A read without correctable data, or whose slot is of another unit
or fails DATA_CRC, makes the unit LOST and leaves every other; one with data leaves the map. A waiting read suspends the operation
on its LUN at most four times. RECLAIM empties the closed block; a good erase, once no read issued against the block is left,
leaves it erased with one more erase, a failed one retired. A block at a refresh trigger is emptied; a scanned block has been read
once. A LUN that times out is out of the pool, its listed blocks retired. ZQ calibration changes nothing. The temperatures of a
second are kept with their maxima. (10_flash_media.md.) -/
def Obligations.FlashUpkeep : Prop :=
  (∀ (s : State) (ua cls : Nat), Live s →
    ∃ t, exec (.unitRead ua cls) s = .next t ∧ t.node = { s.node with ftl := t.node.ftl, cnts := t.node.cnts } ∧
      t.node.ftl.reads = s.node.ftl.reads ++
        [{ ua := ua, cls := cls, at_ := s.node.tick, onMap := !s.node.ftl.cached.contains (ua / 512),
           blk := (match fmapGet s.node ua with | some m => m.blk + 1 | none => 0) }] ∧
      t.node.ftl.map = s.node.ftl.map) ∧
  (∀ (s : State) (page : Nat), Live s → s.node.ftl.reads.any (fun r => r.onMap && r.ua / 512 = page) = true →
      s.node.ftl.cached.length + 1 ≤ mapCachePages s.node →
    ∃ t, exec (.mapPageReadComplete page) s = .next t ∧ t.node = { s.node with ftl := t.node.ftl } ∧
      t.node.ftl.cached.getLast? = some page ∧ (∀ r ∈ t.node.ftl.reads, r.ua / 512 = page → r.onMap = false) ∧
      t.node.ftl.reads.map (·.ua) = s.node.ftl.reads.map (·.ua)) ∧
  (∀ (s : State) (ua : Nat) (r : ReadEnd) (q : FRead) (m : FMap), Live s → s.node.ftl.reads = [q] → q.ua = ua → q.onMap = false →
      fmapGet s.node ua = some m → m.mstate = 1 →
    ∃ t, exec (.flashReadComplete ua r) s = .next t ∧ t.node.ftl.reads = [] ∧
      (fblkGet t.node m.blk).reads = (fblkGet s.node m.blk).reads + 1 ∧
      (readJudged ua r = .uncorrectable → fmapGet t.node ua = some { m with mstate := 3 } ∧ (fblkGet t.node m.blk).due = true ∧
        (pageGet t.node (pageOf .ftl 0)).cause ≠ 0) ∧
      (readJudged ua r ≠ .uncorrectable → t.node.ftl.map = s.node.ftl.map) ∧ (∀ a, a ≠ ua → fmapGet t.node a = fmapGet s.node a)) ∧
  (∀ (s : State) (ch : Fin 32) (ce : Fin 8) (lun : Fin 4) (q : FRead) (m : FMap) (u : WUnit), Live s → s.node.ftl.reads = [q] →
      q.onMap = false → fmapGet s.node q.ua = some m → m.mstate = 1 → lunOf m.blk = (ch.val * 8 + ce.val) * 4 + lun.val →
      u ∈ s.node.ftl.buf → lunOf u.blk = lunOf m.blk → u.stage = 1 →
      (sget 0 s.node.ftl.susp (lunOf m.blk) < 4 →
        ∃ t, exec (.suspendTimeout ch ce lun) s = .next t ∧
          sget 0 t.node.ftl.susp (lunOf m.blk) = sget 0 s.node.ftl.susp (lunOf m.blk) + 1 ∧
          q.at_ + ticksUs (rfield s.node .ftl 0 0x104 7 0) ≤ t.node.tick ∧
          t.node = { s.node with tick := t.node.tick, cnts := t.node.cnts, ftl := { s.node.ftl with susp := t.node.ftl.susp } }) ∧
      (4 ≤ sget 0 s.node.ftl.susp (lunOf m.blk) → exec (.suspendTimeout ch ce lun) s = .next s)) ∧
  (∀ (s : State) (b : Nat) (k : FBlk), Live s → poolFormatted s.node = true → closedBlocks s.node = [(b, k)] →
      fblkGet s.node b = k → validIn s.node b = [] →
    ∃ t, exec .reclaim s = .next t ∧ fblkGet t.node b = { k with state := 4, due := false } ∧
      (∀ c, c ≠ b → fblkGet t.node c = fblkGet s.node c) ∧ t.node = { s.node with ftl := t.node.ftl }) ∧
  (∀ (s : State) (block : BlockId), Live s → (fblkGet s.node (codeOf block)).state = 4 → validIn s.node (codeOf block) = [] →
      (∀ r ∈ s.node.ftl.reads, r.blk ≠ codeOf block + 1) →
    (∃ t, exec (.eraseComplete block true) s = .next t ∧
      fblkGet t.node (codeOf block) = { fblkNew with erases := (fblkGet s.node (codeOf block)).erases + 1 } ∧
      (∀ c, c ≠ codeOf block → fblkGet t.node c = fblkGet s.node c) ∧
      t.node = { s.node with ftl := t.node.ftl, cnts := t.node.cnts }) ∧
    (∃ t, exec (.eraseComplete block false) s = .next t ∧ (fblkGet t.node (codeOf block)).state = 3 ∧
      (∀ c, c ≠ codeOf block → fblkGet t.node c = fblkGet s.node c) ∧ t.node.ftl.map = s.node.ftl.map)) ∧
  (∀ (s : State) (block : BlockId), Live s → poolFormatted s.node = true → (fblkGet s.node (codeOf block)).state = 2 →
      (fblkGet s.node (codeOf block)).due = true → (fblkGet s.node (codeOf block)).uncorr < 2 →
    ∃ t, exec (.blockRefresh block) s = .next t ∧ (fblkGet t.node (codeOf block)).state = 4 ∧
      (fblkGet t.node (codeOf block)).due = false ∧ t.node.ftl.map = s.node.ftl.map) ∧
  (∀ (s : State) (block : BlockId) (r : ReadEnd), Live s → (fblkGet s.node (codeOf block)).state = 2 →
      (fblkGet s.node (codeOf block)).scanned = false →
    ∃ t, exec (.powerUpReadScan block r) s = .next t ∧ (fblkGet t.node (codeOf block)).scanned = true ∧
      (fblkGet t.node (codeOf block)).reads = (fblkGet s.node (codeOf block)).reads + 1 ∧ t.node.ftl.map = s.node.ftl.map) ∧
  (∀ (s : State) (ch : Fin 32) (ce : Fin 8) (lun : Fin 4), Live s →
      s.node.ftl.lunOut.contains ((ch.val * 8 + ce.val) * 4 + lun.val) = false →
    ∃ t, exec (.lunTimeout ch ce lun) s = .next t ∧ t.node.ftl.lunOut = s.node.ftl.lunOut ++ [(ch.val * 8 + ce.val) * 4 + lun.val] ∧
      (∀ x ∈ s.node.ftl.blocks, lunOf x.1 = (ch.val * 8 + ce.val) * 4 + lun.val → (fblkGet t.node x.1).state = 3) ∧
      (pageGet t.node (pageOf .ftl 0)).cause ≠ 0) ∧
  (∀ (s : State) (ch : Fin 32), Live s → exec (.zqCalibration ch) s = .next s) ∧
  (∀ (s : State) (temps : List Nat), Live s →
    ∃ t, exec (.packageTemperatureRead temps) s = .next t ∧ t.node.ftl.temps = temps.take 32 ∧
      (∀ i, i < 32 → t.node.ftl.tempTop.getD i 0 = Nat.max (s.node.ftl.tempTop.getD i 0) ((temps.take 32).getD i 0)) ∧
      t.node = { s.node with ftl := t.node.ftl })

/-- Training, failure and repair of lanes, and what becomes of their links. A cabled lane that trains to the peer and lane of its
cabling entry is ACTIVE and runs in its link; to any other it is UNCABLED, to none it is down, both reported and without effect on
links. The retry of a lane that did not train is its training again. A lane that fails leaves its link, which narrows by a control
flit, and the link's idle spare trains; without another lane the link is DOWN. The spare that trains takes the failed lane's
place. A link whose flit was replayed 8 times trains again; a link silent for LINK_DOWN_US is DOWN, and where it was the last to
its peer the peer is suspected. PL_CTRL.DISABLE takes a lane out of its link; without DISABLE a failed or disabled lane stands by
or trains again. (11_fabric_and_compositions.md.) -/
def Obligations.LanesAndLinks : Prop :=
  (∀ (s : State) (lane : Fin 136) (info : LaneInfo) (c : Cable) (pos : Nat), Live s → cableOf s.node lane.val = some (c, pos) →
      (laneGet s.node lane.val).state ≠ 2 → (laneGet s.node lane.val).state ≠ 4 → (laneGet s.node lane.val).state ≠ 5 →
    ∃ t, exec (.laneTrained lane info) s = .next t ∧
      (∀ i, i ≠ lane.val → laneGet t.node i = laneGet s.node i) ∧ (∀ k, k ≠ c.link → linkGet t.node k = linkGet s.node k) ∧
      (info.ok = true → info.peerSerial = c.serial → info.peerLane = c.peers.getD pos 0xFF →
        (laneGet t.node lane.val).state = 2 ∧ (laneGet t.node lane.val).link = some c.link ∧
        (laneGet t.node lane.val).rate = (if Nat.min 3 info.peerCompat = 1 then 1 else 2) ∧
        ∃ l, linkGet t.node c.link = some l ∧ l.cabled = c.lanes ∧ lane.val ∈ l.active ∧ l.peer = info.peerNode.toNat ∧
          l.compat = Nat.min 3 info.peerCompat ∧ l.state = if l.active.length < c.lanes.length then 3 else 2) ∧
      (info.ok = true → info.peerSerial ≠ c.serial ∨ info.peerLane ≠ c.peers.getD pos 0xFF →
        (laneGet t.node lane.val).state = 6 ∧ t.node.links = s.node.links ∧ (pageGet t.node (pageOf .pl lane.val)).cause ≠ 0) ∧
      (info.ok = false →
        (laneGet t.node lane.val).state = 0 ∧ t.node.links = s.node.links ∧ (pageGet t.node (pageOf .pl lane.val)).cause ≠ 0)) ∧
  (∀ (s : State) (lane : Fin 136) (info : LaneInfo), Live s → (laneGet s.node lane.val).state = 0 →
    ∃ t, exec (.trainFailRetry lane info) s = .next t ∧ exec (.laneTrained lane info) s = .next t) ∧
  (∀ (s : State) (lane : Fin 136) (k : Nat) (l : Link), Live s → (laneGet s.node lane.val).state = 2 →
      (laneGet s.node lane.val).link = some k → linkGet s.node k = some l →
    ∃ t, exec (.laneFail lane) s = .next t ∧ (laneGet t.node lane.val).state = 4 ∧ (laneGet t.node lane.val).rate = 0 ∧
      (pageGet t.node (pageOf .pl lane.val)).cause ≠ 0 ∧
      (∀ sp, l.spare = some sp → (laneGet s.node sp).state = 3 → (laneGet t.node sp).state = 1) ∧
      (l.active.filter (fun x => x ≠ lane.val) ≠ [] →
        linkGet t.node k = some { l with
          active := l.active.filter (fun x => x ≠ lane.val),
          state := if (l.active.filter (fun x => x ≠ lane.val)).length < l.cabled.length then 3 else 2 } ∧
        ∃ q, Out.linkCtl k 3 q ∈ t.node.out) ∧
      (l.active.filter (fun x => x ≠ lane.val) = [] → ∃ m, linkGet t.node k = some m ∧ m.state = 0 ∧ m.active = [])) ∧
  (∀ (s : State) (lane : Fin 136) (info : LaneInfo) (c : Cable), Live s → spareOf s.node lane.val = some c →
      (laneGet s.node lane.val).state = 1 →
    ∃ t, exec (.spareLaneTrained lane info) s = .next t ∧ (pageGet t.node (pageOf .pl lane.val)).cause ≠ 0 ∧
      (info.ok = true → info.peerSerial = c.serial → info.peerLane = c.peerSpare →
        (laneGet t.node lane.val).state = 2 ∧ (laneGet t.node lane.val).link = some c.link ∧
        ∃ l, linkGet t.node c.link = some l ∧
          l.active = ((linkGet s.node c.link).map (·.active)).getD [] ++ [lane.val] ∧ (l.state = 2 ∨ l.state = 3) ∧
          ∃ q, Out.linkCtl c.link 3 q ∈ t.node.out) ∧
      (info.ok = false → (laneGet t.node lane.val).state = 0 ∧ t.node.links = s.node.links) ∧
      (info.ok = true → info.peerSerial ≠ c.serial ∨ info.peerLane ≠ c.peerSpare →
        (laneGet t.node lane.val).state = 6 ∧ t.node.links = s.node.links)) ∧
  (∀ (s : State) (link : Fin 128) (l : Link), Live s → linkGet s.node link.val = some l → l.state = 2 ∨ l.state = 3 →
    (∃ t m, exec (.retryLimit link) s = .next t ∧ linkGet t.node link.val = some m ∧ m.state = 1 ∧ m.active = [] ∧
      m.cabled = l.cabled ∧ (∀ i ∈ l.active, (laneGet t.node i).state = 1) ∧ (pageGet t.node (pageOf .pl (headLane l))).cause ≠ 0) ∧
    (∃ t m, exec (.linkDown link) s = .next t ∧ linkGet t.node link.val = some m ∧ m.state = 0 ∧ m.active = [] ∧
      m.cabled = l.cabled ∧ (∀ i ∈ l.active, (laneGet t.node i).state = 1) ∧
      l.heard + ticksUs (rfield s.node .frt 0 0x10C 15 0) ≤ t.node.tick ∧
      (isMember s.node l.peer = true → isFenced s.node l.peer = false → l.peer ≠ s.node.nodeId.toNat →
        (∀ x ∈ s.node.links, x.1 = link.val ∨ ∀ y, x.2 = some y → y.peer = l.peer → y.state ≠ 2 ∧ y.state ≠ 3) →
        ∀ c ∈ s.node.map.council, hasRoute t.node c.toNat = true →
          ∃ tag, Sent t.node c.toNat tag (.suspect (BitVec.ofNat 12 l.peer) .linkDown)))) ∧
  (∀ (s : State) (lane : Fin 136) (v : Word), Live s →
    ∃ t, exec (.plDisable lane v) s = .next t ∧ regStored t.node (regAddr .pl lane.val 0x104) = v &&& w32 0x8000FFFF ∧
      (v.toNat.testBit 31 = true → (laneGet t.node lane.val).state = 5 ∧
        (∀ k l, (laneGet s.node lane.val).link = some k → linkGet s.node k = some l →
          ∃ m, linkGet t.node k = some m ∧ lane.val ∉ m.active)) ∧
      (v.toNat.testBit 31 = false → t.node.links = s.node.links ∧
        ((laneGet s.node lane.val).state = 4 ∨ (laneGet s.node lane.val).state = 5 →
          (laneGet t.node lane.val).state = if (spareOf s.node lane.val).isSome then 3 else 1) ∧
        ((laneGet s.node lane.val).state ≠ 4 → (laneGet s.node lane.val).state ≠ 5 → t.node.lanes = s.node.lanes)))

/-- Flits of a link and messages whose reply does not come. A flit whose last 4 bytes hold the CRC-32C of the others, in order, is
taken: its SEQ is the one expected next, its ACK_SEQ and credits are noted, a NAK has the flits after ACK_SEQ sent again. A flit
with a bad CRC or out of order is answered with a NAK of the last one taken; it changes nothing else but the counter and the time
at which the link was last heard. An idle link sends a control flit. A message of the MAP class unanswered for 200 µs counts
against its receiver, and the third in a row raises a suspicion at every council member that can be reached; a read for a rebuild
goes to the next holder. (11_fabric_and_compositions.md.) -/
def Obligations.FlitsAndTimeouts : Prop :=
  (∀ (s : State) (link : Fin 128) (d : Blob) (crc : Word) (h : FlitHdr) (l : Link), Live s → linkGet s.node link.val = some l → flitHdr d = h → flitCrcOk l d crc = true → l.state = 2 ∨ l.state = 3 →
      h.seq.toNat = (l.rxSeq + 1) % 4096 → h.nak = false →
    ∃ t, exec (.flit link d crc) s = .next t ∧ t.node = { s.node with links := t.node.links } ∧
      linkGet t.node link.val = some { l with
        rxSeq := h.seq.toNat, acked := h.ackSeq.toNat, heard := s.node.tick,
        replays := if h.ackSeq.toNat ≠ l.acked then 0 else l.replays,
        credits := sset 0 l.credits h.creditClass.toNat (sget 0 l.credits h.creditClass.toNat + h.credits.toNat) } ∧
      (∀ k, k ≠ link.val → linkGet t.node k = linkGet s.node k)) ∧
  (∀ (s : State) (link : Fin 128) (d : Blob) (crc : Word) (h : FlitHdr) (l : Link), Live s → linkGet s.node link.val = some l → flitHdr d = h → flitCrcOk l d crc = true → l.state = 2 ∨ l.state = 3 →
      h.seq.toNat = (l.rxSeq + 1) % 4096 → h.nak = true →
    ∃ t m, exec (.flit link d crc) s = .next t ∧ linkGet t.node link.val = some m ∧ m.rxSeq = h.seq.toNat ∧
      m.acked = h.ackSeq.toNat ∧ m.replays = (if h.ackSeq.toNat ≠ l.acked then 1 else l.replays + 1) ∧
      t.node.out = s.node.out ++ [.linkCtl link.val 2 ((h.ackSeq.toNat + 1) % 4096)]) ∧
  (∀ (s : State) (link : Fin 128) (d : Blob) (crc : Word) (l : Link), Live s → linkGet s.node link.val = some l →
      l.state = 2 ∨ l.state = 3 → flitCrcOk l d crc = false ∨ (flitHdr d).seq.toNat ≠ (l.rxSeq + 1) % 4096 →
    ∃ t, exec (.flit link d crc) s = .next t ∧ linkGet t.node link.val = some { l with heard := s.node.tick } ∧
      t.node = { s.node with links := t.node.links, cnts := t.node.cnts, out := s.node.out ++ [.linkCtl link.val 1 l.rxSeq] } ∧
      (flitCrcOk l d crc = true → t.node.cnts = s.node.cnts)) ∧
  (∀ (s : State) (link : Fin 128) (l : Link), Live s → linkGet s.node link.val = some l → l.state = 2 ∨ l.state = 3 →
    exec (.idleControlFlit link) s = .next { s with node := { s.node with out := s.node.out ++ [.linkCtl link.val 0 l.rxSeq] } }) ∧
  (∀ (s : State) (tag : Nat) (a : Await), Live s → s.node.awaits.find? (fun a => a.tag = tag) = some a → (msgClass a.m).1 = 0 →
    ∃ t, exec (.messageTimeout tag) s = .next t ∧ t.node.awaits = s.node.awaits.filter (fun a => a.tag ≠ tag) ∧
      a.at_ + ticksUs 200 ≤ t.node.tick ∧ t.node.map = s.node.map ∧
      (sget 0 s.node.mapTimeouts a.dst < 2 →
        sget 0 t.node.mapTimeouts a.dst = sget 0 s.node.mapTimeouts a.dst + 1 ∧ t.node.out = s.node.out) ∧
      (2 ≤ sget 0 s.node.mapTimeouts a.dst → sget 0 t.node.mapTimeouts a.dst = 0 ∧
        ∀ c ∈ s.node.map.council, hasRoute s.node c.toNat = true →
          ∃ k, Sent t.node c.toNat k (.suspect (BitVec.ofNat 12 a.dst) .mapTimeouts))) ∧
  (∀ (s : State) (tag d : Nat) (ds : List Nat) (a : Await) (m : RebuildReadMsg), Live s →
      s.node.awaits.find? (fun a => a.tag = tag) = some a → a.m = .rebuildRead m →
      ((otherHolders s.node m.key).dropWhile (fun x => x ≠ a.dst)).drop 1 = d :: ds →
    ∃ t b, exec (.messageTimeout tag) s = .next t ∧ b ∈ t.node.awaits ∧ b.dst = d ∧ b.m = .rebuildRead m ∧
      a.at_ + ticksMs 1 ≤ t.node.tick ∧ (hasRoute s.node d = true → Sent t.node d b.tag (.rebuildRead m)))

/-- The steps by which a council agrees on a map, and how members come by it. A PREPARE of a newer epoch is answered with a
promise of the highest ballot seen and the map accepted so far; no lower ballot is accepted afterwards, and an ACCEPT of one is
answered with the promise. Nothing is promised or accepted for epoch 0xFFFF_FFFF. A promise of a higher ballot makes the proposer
wait 50 to 150 us, after which it starts again under a higher round. With promises of a majority the map returned under a ballot
is proposed, otherwise the proposer's own; with acceptances of a majority it is committed at the proposer. A COMMIT has the
accepted map of that digest taken where it follows the one held, and a missing epoch fetched. EPOCH_DATA is taken only where it
was asked for and follows. EPOCH_FETCH is answered from the maps kept; its time-out drops the messages that waited for it.
(11_fabric_and_compositions.md.) -/
def Obligations.MapAgreement : Prop :=
  (∀ (s : State) (h : MsgHdr) (m : PrepareMsg), Live s → Taken s.node h (.prepare m) → onCouncil s.node = true →
      s.node.map.epoch < m.epoch → m.epoch ≠ 0xFFFFFFFF →
    ∃ t b, exec (.prepare h m) s = .next t ∧ t.node.council.promised.find? (fun p => p.1 = m.epoch) = some (m.epoch, b) ∧
      ballotLt b m.ballot = false ∧ (b = m.ballot ∨ (m.epoch, b) ∈ s.node.council.promised) ∧
      (∀ p, s.node.council.promised.find? (fun p => p.1 = m.epoch) = some p → ballotLt b p.2 = false) ∧
      t.node.map = s.node.map ∧ t.node.council.accepted = s.node.council.accepted ∧
      (hasRoute s.node h.src.toNat = true → Sent t.node h.src.toNat h.tag.toNat (.promise {
        epoch := m.epoch, ballot := b, accepted := (s.node.council.accepted.find? (fun a => a.1 = m.epoch)).map (fun a => a.2) }))) ∧
  (∀ (s : State) (h : MsgHdr) (m : AcceptMsg), Live s → Taken s.node h (.accept m) → onCouncil s.node = true →
      s.node.map.epoch < m.epoch → m.epoch ≠ 0xFFFFFFFF →
      ((∀ p ∈ s.node.council.promised, p.1 = m.epoch → ballotLt m.ballot p.2 = false) →
        ∃ t, exec (.accept h m) s = .next t ∧
          t.node.council.accepted.find? (fun a => a.1 = m.epoch) = some (m.epoch, m.ballot, m.map) ∧
          t.node.council.promised.find? (fun p => p.1 = m.epoch) = some (m.epoch, m.ballot) ∧ t.node.map = s.node.map) ∧
      (∀ p, s.node.council.promised.find? (fun p => p.1 = m.epoch && ballotLt m.ballot p.2) = some p →
        ∃ t, exec (.accept h m) s = .next t ∧ t.node.council.accepted = s.node.council.accepted ∧ t.node.map = s.node.map ∧
          (hasRoute s.node h.src.toNat = true →
            Sent t.node h.src.toNat h.tag.toNat (.promise { epoch := m.epoch, ballot := p.2, accepted := none })))) ∧
  (∀ (s : State) (h : MsgHdr) (p : PrepareMsg), Live s → Taken s.node h (.prepare p) → p.epoch = 0xFFFFFFFF →
    exec (.prepare h p) s = .next { s with node := heard s.node h (.prepare p) }) ∧
  (∀ (s : State) (h : MsgHdr) (a : AcceptMsg), Live s → Taken s.node h (.accept a) → a.epoch = 0xFFFFFFFF →
    exec (.accept h a) s = .next { s with node := heard s.node h (.accept a) }) ∧
  (∀ (s : State) (h : MsgHdr) (m : PromiseMsg) (p : Proposal), Live s → Taken s.node h (.promise m) → s.node.council.prop = some p →
      p.epoch = m.epoch → p.backoff = none →
      (ballotLt p.ballot m.ballot = true →
        ∃ t q w, exec (.promise h m) s = .next t ∧ t.node.council.prop = some q ∧ q.backoff = some w ∧
          s.node.tick + ticksUs 50 ≤ w ∧ w ≤ s.node.tick + ticksUs 150 ∧ q.map = p.map) ∧
      (m.ballot = p.ballot → p.phase = 1 → s.node.map.council.contains h.src = true →
        p.promises.any (fun x => x.1 = h.src.toNat) = false →
        ∃ t q, exec (.promise h m) s = .next t ∧ t.node.council.prop = some q ∧
          q.promises = p.promises ++ [(h.src.toNat, m.accepted)] ∧ t.node.map = s.node.map ∧
          (2 * (p.promises.length + 1) ≤ s.node.map.council.length → q.phase = 1 ∧ q.map = p.map) ∧
          (s.node.map.council.length < 2 * (p.promises.length + 1) → q.phase = 2 ∧
            ((∀ x ∈ q.promises, x.2 = none) → q.map = p.own) ∧
            (∀ x ∈ q.promises, ∀ a, x.2 = some a → ∃ y ∈ q.promises, ∃ b, y.2 = some b ∧ q.map = b.2 ∧ ballotLt b.1 a.1 = false) ∧
            ∀ c ∈ s.node.map.council, hasRoute s.node c.toNat = true →
              ∃ k, Sent t.node c.toNat k (.accept { epoch := p.epoch, ballot := p.ballot, map := q.map })))) ∧
  (∀ (s : State) (p : Proposal) (w : Nat) (c : MapChange) (l : List MapChange), Live s → s.node.council.prop = some p →
      p.backoff = some w → s.node.council.wants = c :: l → changeMoot s.node.map c = false → epochOpen s.node c = true →
      s.node.map.council.isEmpty = false →
    ∃ t q, exec .proposerBackoffExpiry s = .next t ∧ t.node.council.prop = some q ∧ q.phase = 1 ∧ q.backoff = none ∧ q.change = c ∧
      q.ballot = { round := s.node.council.round + 1, node := s.node.nodeId.toNat } ∧ q.own = formMap s.node c ∧ w ≤ t.node.tick ∧
      ∀ d ∈ s.node.map.council, hasRoute s.node d.toNat = true →
        ∃ k, Sent t.node d.toNat k (.prepare { epoch := q.epoch, ballot := q.ballot })) ∧
  (∀ (s : State) (h : MsgHdr) (m : PrepareMsg) (p : Proposal), Live s → Taken s.node h (.accepted m) → s.node.council.prop = some p →
      p.epoch = m.epoch → p.ballot = m.ballot → p.phase = 2 → s.node.map.council.contains h.src = true →
      p.accepts.contains h.src.toNat = false →
      (2 * (p.accepts.length + 1) ≤ s.node.map.council.length →
        ∃ t, exec (.accepted h m) s = .next t ∧ t.node.map = s.node.map ∧
          t.node.council.prop = some { p with accepts := p.accepts ++ [h.src.toNat] }) ∧
      (s.node.map.council.length < 2 * (p.accepts.length + 1) →
        ∃ n, exec (.accepted h m) s = .next { s with node := mapTake p.map n } ∧ n.map = s.node.map ∧
          ∀ x ∈ p.map.members, x.node ≠ s.node.nodeId → hasRoute s.node x.node.toNat = true →
            ∃ k, Sent n x.node.toNat k (.commit { epoch := p.epoch, ballot := p.ballot, digest := mapDigest p.map }))) ∧
  (∀ (s : State) (h : MsgHdr) (m : CommitMsg), Live s → Taken s.node h (.commit m) →
      (∀ x, s.node.council.accepted.find? (fun a => a.1 = m.epoch && mapDigest a.2.2 = m.digest) = some x →
        exec (.commit h m) s = .next { s with
          node := if mapFollows s.node x.2.2 then mapTake x.2.2 (heard s.node h (.commit m)) else heard s.node h (.commit m) }) ∧
      (s.node.council.accepted.find? (fun a => a.1 = m.epoch && mapDigest a.2.2 = m.digest) = none → 0 < s.node.map.epoch →
        s.node.map.epoch < m.epoch → s.node.map.epoch ≠ 0xFFFFFFFE → (∃ c ∈ s.node.map.council, c ≠ s.node.nodeId) →
        ∃ t a, exec (.commit h m) s = .next t ∧ a ∈ t.node.awaits ∧ a.m = .epochFetch (s.node.map.epoch + 1) ∧
          t.node.map = s.node.map)) ∧
  (∀ (s : State) (h : MsgHdr) (m : CMap), Live s → Taken s.node h (.epochData m) →
      ((∃ a ∈ s.node.awaits, a.tag = h.tag.toNat) → mapFollows s.node m = true →
        exec (.epochData h m) s = .next { s with
          node := mapTake m { heard s.node h (.epochData m) with awaits := s.node.awaits.filter (fun a => a.tag ≠ h.tag.toNat) } }) ∧
      ((∀ a ∈ s.node.awaits, a.tag ≠ h.tag.toNat) ∨ mapFollows s.node m = false →
        ∃ t, exec (.epochData h m) s = .next t ∧ t.node.map = s.node.map ∧ t.node.shards = s.node.shards)) ∧
  (∀ (s : State) (h : MsgHdr) (e : Nat), Live s → Taken s.node h (.epochFetch e) →
    ∃ t, exec (.epochFetch h e) s = .next t ∧
      (∀ m, s.node.oldMaps.reverse.find? (fun m => m.epoch = e) = some m → hasRoute s.node h.src.toNat = true →
        Sent t.node h.src.toNat h.tag.toNat (.epochData m)) ∧
      (s.node.oldMaps.reverse.find? (fun m => m.epoch = e) = none → t.node = heard s.node h (.epochFetch e))) ∧
  (∀ (s : State) (e : Nat) (a : Await), Live s → s.node.awaits.find? (fun a => a.m = .epochFetch e) = some a →
    ∃ t, exec (.epochFetchTimeout e) s = .next t ∧ a.at_ + ticksUs 200 ≤ t.node.tick ∧ t.node.map = s.node.map ∧
      (∀ b ∈ t.node.awaits, b.m ≠ .epochFetch e) ∧ t.node.heldMsgs = s.node.heldMsgs.filter (fun x => !decide (e ≤ x.h.epoch.toNat)) ∧
      ((∃ x ∈ s.node.heldMsgs, e ≤ x.h.epoch.toNat) → (pageGet t.node (pageOf .frt 0)).cause ≠ 0))

/-- Suspicions, probes, loss of quorum and load reports. A council member that learns of a suspicion follows it, and probes the
suspect where it is one of those that probe, over a route that avoids the reporter. A probe of this node is answered; a probe
answer ends the suspicion that asked. Where no answer comes within PROBE_MS, or a member withdraws, the council wants it FAILED.
Silence of 3 s raises a suspicion at the council. Without a council majority for 10 ms QUORUM is 0, reported; the map stays. Each
second a member that is not ABSENT reports the median answer time of each holder it used; a holder above the median of all by
SLOW_PCT counts up, and counts from 0 again once it is not. A forwarding entry ends after 2 ms. (11_fabric_and_compositions.md.)
-/
def Obligations.SuspicionAndQuorum : Prop :=
  (∀ (s : State) (h : MsgHdr) (node : BitVec 12) (cause : SuspectCause), Live s → Taken s.node h (.suspect node cause) →
      onCouncil s.node = true → isFenced s.node node.toNat = false → isMember s.node node.toNat = true →
    ∃ t x, exec (.suspect h node cause) s = .next t ∧ x ∈ t.node.suspicions ∧ x.node = node ∧ t.node.map = s.node.map ∧
      ((probers s.node h.src).contains s.node.nodeId = true → node ≠ s.node.nodeId →
          (routeLens s.node node.toNat (some h.src.toNat)).any (fun l => decide (l.2 ≤ 6)) = true →
        ∃ nonce k l y, nonce ∈ x.nonces ∧ sget none s.node.links l = some y ∧ y.peer ≠ h.src.toNat ∧
          Out.msg (some l) s.node.nodeId.toNat node.toNat (msgLevel s.node node.toNat (.probe node nonce)) s.node.map.epoch 0 k
            (.probe node nonce) ∈ t.node.out)) ∧
  (∀ (s : State) (h : MsgHdr) (node : BitVec 12) (nonce : BitVec 256), Live s → Taken s.node h (.probe node nonce) →
    ∃ t, exec (.probe h node nonce) s = .next t ∧
      (node = s.node.nodeId → hasRoute s.node h.src.toNat = true → Sent t.node h.src.toNat h.tag.toNat (.probeAnswer nonce)) ∧
      (node ≠ s.node.nodeId → t.node = heard s.node h (.probe node nonce))) ∧
  (∀ (s : State) (h : MsgHdr) (nonce : BitVec 256), Live s → Taken s.node h (.probeAnswer nonce) →
    exec (.probeAnswer h nonce) s = .next { s with
      node := { heard s.node h (.probeAnswer nonce) with
        suspicions := (heard s.node h (.probeAnswer nonce)).suspicions.filter (fun x => !x.nonces.contains nonce) } }) ∧
  (∀ (s : State) (node : BitVec 12) (x : Suspicion), Live s → s.node.suspicions.find? (fun x => x.node = node) = some x →
      changeMoot s.node.map (.memberState node .failed) = false →
    ∃ t, exec (.probeWindowExpiry node) s = .next t ∧ .memberState node .failed ∈ t.node.council.wants ∧
      t.node.suspicions = s.node.suspicions.filter (fun x => x.node ≠ node) ∧ t.node.map = s.node.map ∧
      x.at_ + ticksMs (rfield s.node .frt 0 0x10C 23 16) ≤ t.node.tick) ∧
  (∀ (s : State) (h : MsgHdr) (cause : Nat), Live s → Taken s.node h (.nodeWithdraw cause) →
    ∃ t, exec (.nodeWithdraw h cause) s = .next t ∧ t.node.map = s.node.map ∧
      (onCouncil s.node = true → changeMoot s.node.map (.memberState h.src .failed) = false →
        .memberState h.src .failed ∈ t.node.council.wants) ∧
      (onCouncil s.node = false → t.node = heard s.node h (.nodeWithdraw cause))) ∧
  (∀ (s : State) (node : BitVec 12), Live s → onCouncil s.node = true → isMember s.node node.toNat = true →
      isFenced s.node node.toNat = false → node ≠ s.node.nodeId →
    ∃ t, exec (.councilSilenceTimeout node) s = .next t ∧ sget 0 s.node.mapHeard node.toNat + ticksS 3 ≤ t.node.tick ∧
      ∀ c ∈ s.node.map.council, hasRoute s.node c.toNat = true → ∃ k, Sent t.node c.toNat k (.suspect node .silence)) ∧
  (∀ (s : State), Live s → s.node.quorum = true → s.node.map.council ≠ [s.node.nodeId] →
    ∃ t, exec .quorumLossTimeout s = .next t ∧ t.node.quorum = false ∧ t.node.quorumLostAt = t.node.tick ∧
      s.node.quorumLostAt + ticksMs 10 ≤ t.node.tick ∧ t.node.map = s.node.map ∧ t.node.shards = s.node.shards ∧
      (pageGet t.node (pageOf .frt 0)).cause ≠ 0) ∧
  (∀ (s : State) (x : Member), Live s → memberFind s.node.map s.node.nodeId.toNat = some x → x.state ≠ .absent →
    ∃ t, exec .loadReportTimer s = .next t ∧ t.node.partialTimes = [] ∧ s.node.loadAt + ticksS 1 ≤ t.node.tick ∧
      ∀ c ∈ s.node.map.council, hasRoute s.node c.toNat = true →
        ∃ k, Sent t.node c.toNat k (.loadReport
          (((s.node.partialTimes.map (·.1)).foldl (fun acc x => ninsert x acc) []).map
            (fun x => (BitVec.ofNat 12 x, median ((s.node.partialTimes.filter (fun p => p.1 = x)).map (·.2))))))) ∧
  (∀ (s : State) (h : MsgHdr) (meds : List (BitVec 12 × Nat)), Live s → Taken s.node h (.loadReport meds) →
      onCouncil s.node = true → (meds.map (·.1)).Nodup →
    ∃ t, exec (.loadReport h meds) s = .next t ∧ t.node.map = s.node.map ∧
      ∀ x ∈ meds, sget 0 t.node.slowRuns (h.src.toNat * 4096 + x.1.toNat) =
        if median (meds.map (·.2)) * (100 + slowPct s.node) < x.2 * 100 then
          (if 9 ≤ sget 0 s.node.slowRuns (h.src.toNat * 4096 + x.1.toNat) then 0
            else sget 0 s.node.slowRuns (h.src.toNat * 4096 + x.1.toNat) + 1)
        else 0) ∧
  (∀ (s : State) (key : ShardKey) (f : Fwd), Live s → s.node.fwds.find? (fun f => f.key = key) = some f →
    ∃ t, exec (.forwardingEntryExpiry key) s = .next t ∧ t.node.fwds = s.node.fwds.filter (fun f => f.key ≠ key) ∧
      f.at_ + ticksMs 2 < t.node.tick ∧ t.node.map = s.node.map)

/-- Joining, moving a role, copying and rebuilding. A JOIN that fails a check is answered with the check and a new nonce; one that
passes is answered as accepted and its node is wanted as TESTING member; a member off the council passes it on. A rejection with a
nonce makes the node join again under a report over it. Passed admission tests make it wanted as SPARE, failed ones are reported.
A SEAL of the primary is noted, and once every shard it moves is sealed the move is wanted. 1 ms after the seal the held sub-
batches answer RETRY_LATER. A COPY enters the object at its offset. A REBUILD_READ is answered with the records and stored vectors
asked for; the answer restores them. A generation whose primaries have forwarded everything is made current.
(11_fabric_and_compositions.md, 14_faults_and_recorder.md, 06_mutations_and_visibility.md.) -/
def Obligations.JoinAndMove : Prop :=
  (∀ (s : State) (h : MsgHdr) (m : JoinMsg), Live s → Taken s.node h (.join m) → onCouncil s.node = true →
    ∃ t, exec (.join h m) s = .next t ∧ t.node.map = s.node.map ∧
      (joinCheck s.node m ≠ 0 → ∃ nonce, nonce ∈ t.node.nonces ∧ t.node.council = s.node.council ∧
        (hasRoute s.node h.src.toNat = true →
          Sent t.node h.src.toNat h.tag.toNat (.joinAnswer false (joinCheck s.node m) nonce))) ∧
      (joinCheck s.node m = 0 → BitVec.ofNat 256 (bnum m.report 0x20 32) ∉ t.node.nonces ∧
        (∃ ts, MapChange.joined { node := joinId s.node m, serial := m.serial, sled := m.sled, compat := m.compat, state := .testing } ts ∈
          t.node.council.wants) ∧
        (hasRoute s.node h.src.toNat = true →
          Sent t.node h.src.toNat h.tag.toNat (.joinAnswer true 0 (BitVec.ofNat 256 (bnum m.report 0x20 32)))))) ∧
  (∀ (s : State) (h : MsgHdr) (m : JoinMsg), Live s → Taken s.node h (.join m) → onCouncil s.node = false →
      s.node.map.council ≠ [] → (∀ c ∈ s.node.map.council, hasRoute s.node c.toNat = true) →
    ∃ t, exec (.join h m) s = .next t ∧ t.node.council = s.node.council ∧
      ∃ c ∈ s.node.map.council, ∃ via, Out.msg via h.src.toNat c.toNat (msgLevel s.node c.toNat (.join m)) s.node.map.epoch 0
        h.tag.toNat (.join m) ∈ t.node.out) ∧
  (∀ (s : State) (h : MsgHdr) (nonce : BitVec 256) (a : Await) (m : JoinMsg), Live s → Taken s.node h (.joinAnswer false 1 nonce) →
      s.node.awaits.find? (fun a => a.tag = h.tag.toNat) = some a → a.m = .join m →
      BitVec.ofNat 256 (bnum m.report 0x20 32) ≠ nonce →
    ∃ t b j, exec (.joinAnswer h false 1 nonce) s = .next t ∧ b ∈ t.node.awaits ∧ b.dst = h.src.toNat ∧ b.m = .join j ∧
      j.report = bslice (attBlob s.node nonce.toNat) 0 1600 ∧ j.certs = bslice (attBlob s.node nonce.toNat) 1600 9336 ∧
      j.serial = s.node.fuses.serial) ∧
  (∀ (s : State) (failing : Nat) (x : Member), Live s → memberFind s.node.map s.node.nodeId.toNat = some x → x.state = .testing →
    (∃ t, exec (.admissionTestsComplete true failing) s = .next t ∧ .memberState s.node.nodeId .spare ∈ t.node.council.wants) ∧
    (∃ t, exec (.admissionTestsComplete false failing) s = .next t ∧ t.node.council = s.node.council ∧
      (pageGet t.node (pageOf .recb 0)).cause ≠ 0)) ∧
  (∀ (s : State) (h : MsgHdr) (key : ShardKey) (msn : Nat) (r : ShardRole), Live s → Taken s.node h (.seal key msn) →
      shardRole s.node.map key = some r → r.primary.any (fun p => p.node = h.src) = true →
    ∃ t, exec (.seal h key msn) s = .next t ∧ t.node.map = s.node.map ∧
      (∀ sh, r.incoming = some s.node.nodeId → shardFind s.node key = some sh →
        ∃ sh', shardFind t.node key = some sh' ∧ sh'.committed = Nat.max sh.committed msn) ∧
      (onCouncil s.node = true → (key, msn) ∈ t.node.council.seals ∧
        (r.incoming.isSome = true →
          (∀ x ∈ s.node.map.shards, x.incoming.isSome = true → x.primary.any (fun p => p.node = h.src) = true → x.key = key) →
          ∃ l, .seals l ∈ t.node.council.wants ∧ (key, msn) ∈ l))) ∧
  (∀ (s : State) (key : ShardKey) (sh : Shard) (w : Nat), Live s → shardFind s.node key = some sh → sh.sealed = some w →
    ∃ t, exec (.sealHoldExpiry key) s = .next t ∧ w + ticksMs 1 ≤ t.node.tick ∧
      t.node.heldSubs = s.node.heldSubs.filter (fun x => x.m.key ≠ key) ∧ t.node.shards = s.node.shards ∧
      ∀ x ∈ s.node.heldSubs, x.m.key = key → hasRoute s.node x.h.src.toNat = true →
        ∃ e, Sent t.node x.h.src.toNat x.h.tag.toNat (.subBatchAnswer {
          words := wholeWords x.m 5 1000, duplicate := false, draining := false, energy := e, forwarded := x.m.forwarded })) ∧
  (∀ (s : State) (h : MsgHdr) (m : CopyMsg) (sh : Shard) (o : ObjRange) (lid : Nat), Live s → Taken s.node h (.copy m) →
      shardFind s.node m.key = some sh → m.obj = .attr → m.off = 16 * lid → m.data.len = 16 →
      s.node.mmu.objs.find? (fun o => o.key = m.key && o.what = 4) = some o → m.off + 16 ≤ o.pages * 65536 →
    ∃ t sh', exec (.copy h m) s = .next t ∧ shardFind t.node m.key = some sh' ∧ sget 0 sh'.attr lid = bnum m.data 0 16 ∧
      (∀ i, i ≠ lid → sget 0 sh'.attr i = sget 0 sh.attr i) ∧ sh'.adj = sh.adj ∧ sh'.full = sh.full ∧ sh'.idmap = sh.idmap) ∧
  (∀ (s : State) (h : MsgHdr) (m : RebuildReadMsg) (sh : Shard) (g : IdxGen), Live s → Taken s.node h (.rebuildRead m) →
      shardFind s.node m.key = some sh → genFind s.node m.key.handle m.key.gen = some g → hasRoute s.node h.src.toNat = true →
    ∃ t d, exec (.rebuildRead h m) s = .next t ∧ Sent t.node h.src.toNat h.tag.toNat (.rebuildData d) ∧ d.key = m.key ∧
      (∀ r, r ∈ d.recs ↔ (∃ j ∈ sh.journal, r ∈ j.recs) ∧ ((m.firstMsn ≤ r.msn ∧ r.msn ≤ m.lastMsn) ∨ r.lid ∈ m.lids)) ∧
      (∀ f ∈ d.fulls, f.1 ∈ m.lids ∧ f.2.bits = sget 0 sh.full f.1 ∧ f.2.len = fullSize (gFullFmt g) (gDim g)) ∧
      t.node.shards = s.node.shards) ∧
  (∀ (s : State) (h : MsgHdr) (m : RebuildDataMsg) (sh : Shard) (g : IdxGen) (lid : Nat) (full : Blob), Live s →
      Taken s.node h (.rebuildData m) → (∃ a ∈ s.node.awaits, a.tag = h.tag.toNat) → shardFind s.node m.key = some sh →
      genFind s.node m.key.handle m.key.gen = some g → m.recs = [] → m.fulls = [(lid, full)] →
    ∃ t sh', exec (.rebuildData h m) s = .next t ∧ shardFind t.node m.key = some sh' ∧ sget 0 sh'.full lid = full.bits ∧
      (∀ i, i ≠ lid → sget 0 sh'.full i = sget 0 sh.full i) ∧ (∀ a ∈ t.node.awaits, a.tag ≠ h.tag.toNat)) ∧
  (∀ (s : State) (handle g : Nat), Live s → currentGen s.node.map handle = some g →
      s.node.map.gens.contains { handle := handle, gen := nextGen g } = false →
      s.node.map.shards.any (fun r => r.key.handle = handle && r.key.gen = nextGen g) = true →
      (∀ sh ∈ s.node.shards, sh.key.handle = handle → sh.key.gen = g → sh.role = 0 →
        sh.copyPoint.isSome = true ∧ (sh.steps.filter (fun p => sh.forwarded < p.step.lastMsn)).length ≤ 1) →
    ∃ t, exec (.generationSwitch handle) s = .next t ∧ .makeCurrent { handle := handle, gen := nextGen g } ∈ t.node.council.wants ∧
      t.node.map = s.node.map)

/-- Frames other than RoCEv2, flow control and the state of a port. An ARP, neighbour discovery or echo request with a good FCS
for an address of this node is answered, any other such frame and every frame of another kind is dropped and counted; a frame of
uncorrectable codewords is dropped, counted and reported. A PAUSE frame is counted and does nothing. A PFC frame of the port's
RoCEv2 priority pauses and resumes the port where PFC is enabled and not ignored. A pause of 100 ms is a storm: the port goes on
and ignores PFC for 1 s, reported. A port that goes down trains again, reported; it comes up where training succeeds; a failed
attempt leaves it in FAULT, reported (log 28). A logical port that the mode lacks does none of this, and an attachment to a module
does not train. (12_ethernet_and_admission.md.) -/
def Obligations.EthernetFrames : Prop :=
  (∀ (s : State) (f : FrameInfo) (data : Blob) (c : Instr) (k : Nat) (d : Blob), Live s →
      (c = .arp f ∧ k = 0 ∧ d = f.src) ∨ (c = .neighbourDiscovery f ∧ k = 1 ∧ d = f.src) ∨ (c = .icmpEcho f data ∧ k = 2 ∧ d = data) →
      (f.fecBad = false → f.forUs = true → f.fcsOk = true →
        exec c s = .next { s with node := { s.node with out := s.node.out ++ [.frame f.port.val k d] } }) ∧
      (f.fecBad = false → f.forUs = false ∨ f.fcsOk = false →
        ∃ t, exec c s = .next t ∧ t.node = { s.node with cnts := t.node.cnts } ∧
          sget 0 t.node.cnts (regAddr .eth (f.port.val / 4) 0x128) = sget 0 s.node.cnts (regAddr .eth (f.port.val / 4) 0x128) + 1)) ∧
  (∀ (s : State) (f : FrameInfo) (port : Fin 16) (c : Instr) (p off : Nat), Live s →
      (c = .nonRoceFrame f ∧ f.fecBad = false ∧ p = f.port.val ∧ off = 0x128) ∨ (c = .pauseFrame port ∧ p = port.val ∧ off = 0x134) →
    ∃ t, exec c s = .next t ∧ t.node = { s.node with cnts := t.node.cnts } ∧
      sget 0 t.node.cnts (regAddr .eth (p / 4) off) = sget 0 s.node.cnts (regAddr .eth (p / 4) off) + 1 ∧
      ∀ a, a ≠ regAddr .eth (p / 4) off → sget 0 t.node.cnts a = sget 0 s.node.cnts a) ∧
  (∀ (s : State) (f : FrameInfo) (data : Blob) (c : Instr), Live s → f.fecBad = true →
      c = .arp f ∨ c = .neighbourDiscovery f ∨ c = .icmpEcho f data ∨ c = .nonRoceFrame f →
    ∃ t, exec c s = .next t ∧ (pageGet t.node (pageOf .eth (f.port.val / 4))).cause ≠ 0 ∧
      sget 0 t.node.cnts (regAddr .eth (f.port.val / 4) 0x124) = sget 0 s.node.cnts (regAddr .eth (f.port.val / 4) 0x124) + 1 ∧
      t.node.ethPorts = s.node.ethPorts ∧ ∀ k d, Out.frame f.port.val k d ∈ t.node.out → Out.frame f.port.val k d ∈ s.node.out) ∧
  (∀ (s : State) (port : Fin 16) (prio : Nat) (pause : Bool), Live s →
    ∃ t, exec (.pfcFrame port prio pause) s = .next t ∧
      t.node = { s.node with ethPorts := t.node.ethPorts, cnts := t.node.cnts } ∧
      (pause = true → sget 0 t.node.cnts (regAddr .eth (port.val / 4) 0x12C) =
        sget 0 s.node.cnts (regAddr .eth (port.val / 4) 0x12C) + 1) ∧
      (∀ p, p ≠ port.val → ethGet t.node p = ethGet s.node p) ∧
      (rfield s.node .eth (port.val / 4) 0x108 31 31 = 1 → prio = rfield s.node .eth (port.val / 4) 0x108 30 28 →
        (ethGet s.node port.val).ignore = none →
        ((ethGet t.node port.val).paused.isSome = pause ∧
          (∀ w, pause = true → (ethGet s.node port.val).paused = some w → (ethGet t.node port.val).paused = some w))) ∧
      (rfield s.node .eth (port.val / 4) 0x108 31 31 = 0 ∨ prio ≠ rfield s.node .eth (port.val / 4) 0x108 30 28 ∨
        (ethGet s.node port.val).ignore.isSome = true → t.node.ethPorts = s.node.ethPorts)) ∧
  (∀ (s : State) (port : Fin 16) (w : Nat), Live s → (ethGet s.node port.val).paused = some w →
    ∃ t, exec (.pauseStorm port) s = .next t ∧ (ethGet t.node port.val).paused = none ∧ w + ticksMs 100 ≤ t.node.tick ∧
      (ethGet t.node port.val).ignore = some (t.node.tick + ticksS 1) ∧ (ethGet t.node port.val).link = (ethGet s.node port.val).link ∧
      (pageGet t.node (pageOf .eth (port.val / 4))).cause ≠ 0) ∧
  (∀ (s : State) (port : Fin 16) (w : Nat), Live s → (ethGet s.node port.val).ignore = some w →
    ∃ t, exec (.pauseStormEnd port) s = .next t ∧ ethGet t.node port.val = { ethGet s.node port.val with ignore := none } ∧
      w ≤ t.node.tick ∧ t.node = { s.node with tick := t.node.tick, ethPorts := t.node.ethPorts }) ∧
  (∀ (s : State) (port : Fin 16), Live s → ethThere s.node port.val = true →
    ((ethGet s.node port.val).link = 2 → ∃ t, exec (.ethLinkDown port) s = .next t ∧
      ethGet t.node port.val = { link := 1, paused := none, ignore := none } ∧
      (pageGet t.node (pageOf .eth (port.val / 4))).cause ≠ 0) ∧
    (∃ t, exec (.ethLinkUp port) s = .next t ∧ ethGet t.node port.val = { ethGet s.node port.val with link := 2 } ∧
      t.node = { s.node with ethPorts := t.node.ethPorts }) ∧
    ((ethGet s.node port.val).link ≠ 2 → rfield s.node .eth (port.val / 4) 0x100 29 28 ≠ 2 →
      (∃ t, exec (.anRetry port true) s = .next t ∧ (ethGet t.node port.val).link = 2 ∧
        t.node = { s.node with ethPorts := t.node.ethPorts }) ∧
      (∃ t, exec (.anRetry port false) s = .next t ∧ (ethGet t.node port.val).link = 3 ∧
        (pageGet t.node (pageOf .eth (port.val / 4))).cause ≠ 0))) ∧
  (∀ (s : State) (port : Fin 16) (ok : Bool) (c : Instr), Live s →
      (ethThere s.node port.val = false ∧ (c = .ethLinkDown port ∨ c = .ethLinkUp port ∨ c = .anRetry port ok)) ∨
      (rfield s.node .eth (port.val / 4) 0x100 29 28 = 2 ∧ c = .anRetry port ok) →
    exec c s = .next s)

/-- Congestion, acknowledgements, retries and errors of a queue pair. A CE-marked packet is answered with a CNP where CNP_GAP_US
has passed since the last and the queue pair is not in ERROR. A CNP halves the rate, to no less than 1 Gb/s and no more often than
each 50 us; 55 us later the rate rises by 5 % of the line rate, up to it. An acknowledgement covers the writes before it, and the
next error-slot header leaves once none is outstanding, with ADMIT_TICKS up to that moment. A time-out retransmits up to RETRY_CNT
times, an RNR NAK up to RNR_RETRY times, 7 without limit; after that, on an operation the node does not serve, and where a
response write is rejected, the queue pair is in ERROR and holds nothing, reported. Every other queue pair is as before.
(12_ethernet_and_admission.md, 01_query_path.md.) -/
def Obligations.QueuePairTransport : Prop :=
  (∀ (s : State) (q : Nat) (x : Qp), Live s → qpFind s.node q = some x →
    ∃ t, exec (.ceMarkedPacket q) s = .next t ∧ t.node = { s.node with qps := t.node.qps, cnts := t.node.cnts, out := t.node.out } ∧
      (∀ w, x.cnpSent = some w → s.node.tick < w + ticksUs (rfield s.node .eth (x.cfg.lport / 4) 0x10C 15 0) →
        t.node.out = s.node.out ∧ t.node.qps = s.node.qps) ∧
      (x.state = 2 → t.node.out = s.node.out ∧ t.node.qps = s.node.qps) ∧
      (x.state ≠ 2 → (∀ w, x.cnpSent = some w → w + ticksUs (rfield s.node .eth (x.cfg.lport / 4) 0x10C 15 0) ≤ s.node.tick) →
        qpFind t.node q = some { x with cnpSent := some s.node.tick } ∧ ∃ d, t.node.out = s.node.out ++ [.frame x.cfg.lport 5 d])) ∧
  (∀ (s : State) (q : Nat) (x : Qp), Live s → qpFind s.node q = some x →
    ∃ t, exec (.cnp q) s = .next t ∧ t.node = { s.node with qps := t.node.qps, cnts := t.node.cnts } ∧
      (∀ w, x.lastCut = some w → s.node.tick < w + ticksUs 50 → qpFind t.node q = some { x with lastCnp := s.node.tick }) ∧
      ((∀ w, x.lastCut = some w → w + ticksUs 50 ≤ s.node.tick) →
        qpFind t.node q = some { x with lastCnp := s.node.tick, rate := Nat.max 1000 (x.rate / 2), lastCut := some s.node.tick })) ∧
  (∀ (s : State) (q : Nat) (x : Qp), Live s → qpFind s.node q = some x → x.rate < lineRate s.node x.cfg.lport →
    ∃ t, exec (.rateRecoveryTimer q) s = .next t ∧ x.lastCnp + ticksUs 55 ≤ t.node.tick ∧
      qpFind t.node q = some { x with
        lastCnp := t.node.tick,
        rate := Nat.min (lineRate s.node x.cfg.lport) (x.rate + lineRate s.node x.cfg.lport / 20) } ∧
      t.node = { s.node with tick := t.node.tick, qps := t.node.qps }) ∧
  (∀ (s : State) (q upTo : Nat) (x : Qp), Live s → qpFind s.node q = some x →
    ∃ t y, exec (.rcAck q upTo) s = .next t ∧ qpFind t.node q = some y ∧ y.retries = 0 ∧ y.rnrs = 0 ∧ y.state = x.state ∧
      (∀ w ∈ x.unacked, ¬ ((upTo + 2 ^ 24 - w.psn) % 2 ^ 24 < 2 ^ 23) → w ∈ y.unacked) ∧
      (x.errQueue = [] → y.unacked = x.unacked.filter (fun w => !decide ((upTo + 2 ^ 24 - w.psn) % 2 ^ 24 < 2 ^ 23)) ∧
        t.node.out = s.node.out) ∧
      (∀ e rest, x.errQueue = e :: rest →
        (∀ w ∈ x.unacked, w.err = true → (upTo + 2 ^ 24 - w.psn) % 2 ^ 24 < 2 ^ 23) →
        y.errQueue = rest ∧ t.node.out = s.node.out ++ [.rdmaWriteImm q x.cfg.errAddr x.cfg.errRkey
          (match e.arrive with | some w => bpatch e.hdr 0x1C (bofNat 4 (Nat.min (s.node.tick - w) (2 ^ 32 - 1))) | none => e.hdr) e.imm] ∧
        y.unacked.any (·.err) = true)) ∧
  (∀ (s : State) (q : Nat) (x : Qp), Live s → qpFind s.node q = some x → x.unacked ≠ [] → x.state ≠ 2 →
    (x.retries < x.cfg.retryCnt → ∃ t, exec (.ackTimeout q) s = .next t ∧ qpFind t.node q = some { x with retries := x.retries + 1 } ∧
      t.node = { s.node with qps := t.node.qps, out := s.node.out ++ [.resend q] }) ∧
    (x.cfg.rnrRetry = 7 ∨ x.rnrs < x.cfg.rnrRetry →
      ∃ t, exec (.clientRnrNak q) s = .next t ∧ qpFind t.node q = some { x with rnrs := x.rnrs + 1 } ∧
        t.node = { s.node with qps := t.node.qps, out := s.node.out ++ [.resend q] })) ∧
  (∀ (s : State) (q : Nat) (x : Qp) (c : Instr), Live s → qpFind s.node q = some x →
      (c = .ackTimeout q ∧ x.unacked ≠ [] ∧ x.state ≠ 2 ∧ x.cfg.retryCnt ≤ x.retries) ∨
      (c = .clientRnrNak q ∧ x.unacked ≠ [] ∧ x.state ≠ 2 ∧ x.cfg.rnrRetry ≠ 7 ∧ x.cfg.rnrRetry ≤ x.rnrs) ∨
      (c = .unsupportedOp q ∧ x.state = 1) ∨ (c = .responseWriteRejected q ∧ x.state ≠ 2) →
    ∃ t, exec c s = .next t ∧ qpFind t.node q = some { x with state := 2, unacked := [], errQueue := [], slots := [] } ∧
      (∀ p, p ≠ q → qpFind t.node p = qpFind s.node p) ∧ (pageGet t.node (pageOf .rdma 0)).cause ≠ 0 ∧
      (c = .unsupportedOp q → Out.nak q 2 ∈ t.node.out))

/-- The register window, discovery, the admission calendar and the samples. An RDMA READ or WRITE of the window that R300 allows
takes a credit and does its register accesses in address order; one that it forbids is answered with a remote access error and
reported, without effect on registers and queue pairs; one without a credit with an RNR NAK. A discovery datagram is answered with
node id, state, epoch and level, with a share for the ports there are, up to the rate allowed; any other datagram is not. At the
start of a calendar entry every tenant receives the grants of the entries since the last. A sample appends the depth of every
queue pair in RTS and keeps the last 1024. (12_ethernet_and_admission.md.) -/
def Obligations.WindowAndDiscovery : Prop :=
  (∀ (s : State) (q addr len : Nat) (rkey : Word) (data : Blob) (x : Qp), Live s → qpFind s.node q = some x → x.state = 1 →
      (windowBad s.node x addr len rkey = false → (police x.cfg.tid s.node).1 = true →
        exec (.rdmaReadWindow q addr len rkey) s = .next { s with
          node := emit (.readData q (wordsBlob (readRun (.qp q) addr (len / 4) (policed s x)).1))
            (readRun (.qp q) addr (len / 4) (policed s x)).2 } ∧
        (readRun (.qp q) addr (len / 4) (policed s x)).1.length = len / 4) ∧
      (windowBad s.node x addr data.len rkey = false → (police x.cfg.tid s.node).1 = true →
        exec (.rdmaWriteWindow q addr rkey data) s = .next { s with node := writeRun addr (blobWords data) (policed s x) }) ∧
      (∀ c, (c = .rdmaReadWindow q addr len rkey ∧ windowBad s.node x addr len rkey = true) ∨
          (c = .rdmaWriteWindow q addr rkey data ∧ windowBad s.node x addr data.len rkey = true) →
        ∃ t, exec c s = .next t ∧ Out.nak q 1 ∈ t.node.out ∧ t.node.regs = s.node.regs ∧ t.node.qps = s.node.qps ∧
          (pageGet t.node (pageOf .rdma 0)).cause ≠ 0) ∧
      (∀ c, (c = .rdmaReadWindow q addr len rkey ∧ windowBad s.node x addr len rkey = false) ∨
          (c = .rdmaWriteWindow q addr rkey data ∧ windowBad s.node x addr data.len rkey = false) →
        (police x.cfg.tid s.node).1 = false →
        ∃ t, exec c s = .next t ∧ t.node.out = s.node.out ++ [.rnrNak q] ∧ t.node.regs = s.node.regs ∧ t.node.qps = s.node.qps)) ∧
  (∀ (s : State) (port : Fin 16) (sender : Blob), Live s →
      (if s.node.discWin.1 = s.node.tick / 100000 then s.node.discWin.2 else 0) < rfield s.node .rdma 0 0x100 15 0 →
    ∃ t d, exec (.discovery port 0x574C0001 { len := 8, bits := 0x05000000 } sender) s = .next t ∧
      t.node.out = s.node.out ++ [.frame port.val 6 d] ∧ d.len = 64 + sender.len ∧
      bnum d 0 4 = s.node.nodeId.toNat + ownState s.node * 2 ^ 28 ∧ bnum d 4 4 = s.node.map.epoch % 2 ^ 32 ∧ bnum d 8 4 = 3 ∧
      (∀ p : Fin 16, ethThere s.node p.val = false → bnum d (16 + p.val) 1 = 0) ∧
      bnum d 32 16 = s.node.fuses.serial.toNat ∧ t.node.discWin.1 = s.node.tick / 100000) ∧
  (∀ (s : State) (port : Fin 16) (qkey : Word) (payload sender : Blob), Live s →
      qkey ≠ 0x574C0001 ∨ payload ≠ { len := 8, bits := 0x05000000 } →
    exec (.discovery port qkey payload sender) s = .next s) ∧
  (∀ (s : State), Live s →
    ∃ t, exec .calendarEntry s = .next t ∧ s.node.calEntry + 1 ≤ t.node.calEntry ∧ t.node.calEntry = t.node.tick / 100 ∧
      t.node.tenants = s.node.tenants.map (tenantEntries s.node.calEntry t.node.calEntry) ∧
      t.node = { s.node with tick := t.node.tick, calEntry := t.node.calEntry, tenants := t.node.tenants }) ∧
  (∀ (s : State), Live s →
    ∃ t, exec .qpSample s = .next t ∧ s.node.sampleAt + ticksUs (rfield s.node .rdma 0 0x100 31 16) ≤ t.node.tick ∧
      t.node.sampleAt = t.node.tick ∧ t.node.qps.map (fun x => (x.num, x.state, x.slots)) = s.node.qps.map (fun x => (x.num, x.state, x.slots)) ∧
      ∀ x ∈ t.node.qps, x.state = 1 → x.samples.length ≤ 1024 ∧ ∃ d, x.samples.getLast? = some (x.slots.length, d))

/-- The cap loop, the thermal loop and the steps of the operating point. A mean above POWER_CAP lowers the cap loop's limit by
one, or at OP0 gates 10 % more issue; the loop raises it again, or gates less, where the last 1 ms is below 95 % and the window's
mean below the cap; otherwise it stays. Inside a collective phase the earlier limit applies until the deferral ends, while the
window's 2 % are not used up. The thermal loop does the same by its sensors. After every change no unit runs above its operating
point. A settled step raises by one every powered unit of the die that is below its operating point, and no other.
(13_power_and_heat.md.) -/
def Obligations.PowerLoops : Prop :=
  (∀ (s : State) (a b w : Nat), Live s →
    ∃ t, exec (.capLoopDecision a b w) s = .next t ∧ s.node.pwr.capAt + ticksUs 50 ≤ t.node.tick ∧ t.node.pwr.capAt = t.node.tick ∧
      t.node.pwr.thmLim = s.node.pwr.thmLim ∧ t.node.pwr.alertLim = s.node.pwr.alertLim ∧
      (capW s.node < a → 0 < s.node.pwr.capLim → t.node.pwr.capLim = s.node.pwr.capLim - 1 ∧ t.node.pwr.capGate = s.node.pwr.capGate ∧
        (inPhase s.node = false → t.node.pwr.capHeld = s.node.pwr.capHeld) ∧
        (inPhase s.node = true → s.node.pwr.capHeld = none → deferUsed t.node * 100 < 2 * capWindow s.node →
          t.node.pwr.capHeld = some (s.node.pwr.capLim, t.node.tick)) ∧
        ∀ p ∈ unitPages, (unitGet t.node p).cur ≤ unitTarget t.node p) ∧
      (capW s.node < a → s.node.pwr.capLim = 0 → t.node.pwr.capLim = 0 ∧ t.node.pwr.capGate = Nat.min 90 (s.node.pwr.capGate + 10)) ∧
      (a ≤ capW s.node → b * 100 < 95 * capW s.node → w < capW s.node →
        (0 < s.node.pwr.capGate → t.node.pwr.capGate = s.node.pwr.capGate - 10 ∧ t.node.pwr.capLim = s.node.pwr.capLim) ∧
        (s.node.pwr.capGate = 0 → t.node.pwr.capGate = 0 ∧ t.node.pwr.capLim = Nat.min 7 (s.node.pwr.capLim + 1))) ∧
      (a ≤ capW s.node → 95 * capW s.node ≤ b * 100 ∨ capW s.node ≤ w →
        t.node.pwr.capLim = s.node.pwr.capLim ∧ t.node.pwr.capGate = s.node.pwr.capGate ∧ t.node.units = s.node.units)) ∧
  (∀ (s : State) (h : Nat × Nat), Live s → s.node.pwr.capHeld = some h →
    ∃ t, exec .capDeferralEnd s = .next t ∧ t.node.pwr.capHeld = none ∧ t.node.pwr.capLim = s.node.pwr.capLim ∧
      (inPhase s.node = true → h.2 + ticksUs 200 ≤ t.node.tick) ∧
      sget 0 t.node.cnts (regAddr .pwr 0 0x128) = sget 0 s.node.cnts (regAddr .pwr 0 0x128) + 1 ∧
      ∀ p ∈ unitPages, (unitGet t.node p).cur ≤ unitTarget t.node p) ∧
  (∀ (s : State), Live s →
    ∃ t, exec .thermalLoopDecision s = .next t ∧ s.node.pwr.thmAt + ticksUs 100 ≤ t.node.tick ∧ t.node.pwr.thmAt = t.node.tick ∧
      t.node.pwr.capLim = s.node.pwr.capLim ∧ t.node.pwr.alertLim = s.node.pwr.alertLim ∧
      (thmTarget s.node < imax s.node.pwr.sensors ∨ stackLimit s.node < imax s.node.pwr.stackTemps →
        (0 < s.node.pwr.thmLim → t.node.pwr.thmLim = s.node.pwr.thmLim - 1 ∧
          ∀ p ∈ unitPages, (unitGet t.node p).cur ≤ unitTarget t.node p) ∧
        (s.node.pwr.thmLim = 0 → t.node.pwr.thmLim = 0 ∧ t.node.pwr.thmGate = Nat.min 90 (s.node.pwr.thmGate + 10))) ∧
      (imax s.node.pwr.sensors ≤ thmTarget s.node → imax s.node.pwr.stackTemps ≤ stackLimit s.node →
        (∀ c, s.node.pwr.coolAt = some c → c + ticksMs 1 ≤ s.node.tick →
          (0 < s.node.pwr.thmGate → t.node.pwr.thmGate = s.node.pwr.thmGate - 10 ∧ t.node.pwr.thmLim = s.node.pwr.thmLim) ∧
          (s.node.pwr.thmGate = 0 → t.node.pwr.thmLim = Nat.min 7 (s.node.pwr.thmLim + 1))) ∧
        (s.node.pwr.coolAt = none → t.node.pwr.thmLim = s.node.pwr.thmLim ∧ t.node.pwr.thmGate = s.node.pwr.thmGate))) ∧
  (∀ (s : State) (die : Fin 2), Live s →
    ∃ t, exec (.opStepSettled die) s = .next t ∧ t.node = { s.node with units := t.node.units } ∧
      ∀ p, unitGet t.node p =
        if unitPages.contains p && decide (dieOf p = die.val) && unitPowered s.node p && decide ((unitGet s.node p).cur < unitTarget s.node p)
        then { unitGet s.node p with cur := (unitGet s.node p).cur + 1 } else unitGet s.node p)

/-- Alerts, gates, held dies, ageing and energy accounts. An enabled regulator alert sets the alert limit to OP0, reported; once
all are gone the hold runs, then the ramp raises the limit by one per step up to OP7. A droop detector and the current gate hold
issue until they end. A die whose regulator does not answer is held at OP0, one whose rail leaves its range is reported. A REFCLK
gap is counted up to 65,535. A unit below its margin loses one step of AGED_MAX_OP, reported. The package account rises by the
energy of all rails, the node account by the fixed energy, a tenant's account by its part. (13_power_and_heat.md,
17_package_and_power_up.md.) -/
def Obligations.AlertsGatesAndEnergy : Prop :=
  (∀ (s : State) (i : Fin 8), Live s →
    ∃ t, exec (.regalertAssert i) s = .next t ∧
      (nbit (rfield s.node .pwr 0 0x10C 31 24) i.val = true → t.node.pwr.alertLim = 0 ∧ i.val ∈ t.node.pwr.alerts ∧
        t.node.pwr.holdAt = none ∧ t.node.pwr.rampAt = none ∧ (pageGet t.node (pageOf .pwr 0)).cause ≠ 0 ∧
        ∀ p ∈ unitPages, (unitGet t.node p).cur ≤ unitTarget t.node p) ∧
      (nbit (rfield s.node .pwr 0 0x10C 31 24) i.val = false → t = s)) ∧
  (∀ (s : State), Live s → s.node.pwr.alerts ≠ [] →
    ∃ t, exec .regalertDeassert s = .next t ∧ t.node.pwr.alerts = [] ∧ t.node.pwr.holdAt = some t.node.tick ∧
      t.node.pwr.alertLim = s.node.pwr.alertLim ∧ t.node = { s.node with pwr := t.node.pwr, units := t.node.units }) ∧
  (∀ (s : State) (w : Nat), Live s → s.node.pwr.holdAt = some w →
    ∃ t, exec .alertHoldExpiry s = .next t ∧ t.node.pwr.holdAt = none ∧ t.node.pwr.alertLim = 1 ∧
      t.node.pwr.rampAt = some t.node.tick ∧ w + ticksUs (rfield s.node .pwr 0 0x10C 13 0) ≤ t.node.tick) ∧
  (∀ (s : State) (w : Nat), Live s → s.node.pwr.rampAt = some w →
    ∃ t, exec .alertRampStep s = .next t ∧ t.node.pwr.alertLim = Nat.min 7 (s.node.pwr.alertLim + 1) ∧
      t.node.pwr.rampAt = (if 7 ≤ s.node.pwr.alertLim + 1 then none else some t.node.tick) ∧
      w + ticksUs (rfield s.node .pwr 0 0x10C 23 14) ≤ t.node.tick) ∧
  (∀ (s : State) (die : Fin 2) (det : Fin 256), Live s →
    (∃ t, exec (.droopGate die det) s = .next t ∧ die.val * 256 + det.val ∈ t.node.pwr.droops ∧
      (∀ d ∈ s.node.pwr.droops, d ∈ t.node.pwr.droops) ∧ t.node = { s.node with pwr := t.node.pwr, cnts := t.node.cnts } ∧
      sget 0 t.node.cnts (regAddr .cmp 0 (if die.val = 0 then 0x108 else 0x10C)) =
        sget 0 s.node.cnts (regAddr .cmp 0 (if die.val = 0 then 0x108 else 0x10C)) + 1) ∧
    (∃ t, exec (.droopRecover die det) s = .next t ∧
      t.node.pwr.droops = s.node.pwr.droops.filter (fun d => d ≠ die.val * 256 + det.val) ∧ t.node = { s.node with pwr := t.node.pwr })) ∧
  (∀ (s : State), Live s →
    (∃ t, exec .currentGate s = .next t ∧ t.node.pwr.curGate = some (s.node.pwr.curGate.getD s.node.tick) ∧
      t.node = { s.node with pwr := t.node.pwr }) ∧
    (∀ w, s.node.pwr.curGate = some w → ∃ t, exec .currentGateEnd s = .next t ∧ t.node.pwr.curGate = none ∧
      w + ticksUs 50 ≤ t.node.tick ∧ t.node = { s.node with tick := t.node.tick, pwr := t.node.pwr })) ∧
  (∀ (s : State) (die : Fin 2), Live s →
    (∃ t, exec (.avsbusVoutTimeout die) s = .next t ∧ die.val ∈ t.node.pwr.opHeld ∧ (pageGet t.node (pageOf .cmp 0)).cause ≠ 0 ∧
      ∀ p ∈ unitPages, dieOf p = die.val → (unitGet t.node p).cur = 0) ∧
    (∃ t, exec (.railRange die) s = .next t ∧ (pageGet t.node (pageOf .cmp 0)).cause ≠ 0 ∧ t.node.units = s.node.units ∧
      t.node.pwr = s.node.pwr)) ∧
  (∀ (s : State), Live s → exec .refclkGap s = .next { s with node := { s.node with
    pwr := { s.node.pwr with gaps := Nat.min 65535 (s.node.pwr.gaps + 1) } } }) ∧
  (∀ (s : State) (u : CUnit) (below : Bool), Live s →
    ∃ t, exec (.ageingMarginCheck u below) s = .next t ∧
      (below = true → cuThere u = true → 0 < (unitGet s.node (cuPage u)).aged →
        (unitGet t.node (cuPage u)).aged = (unitGet s.node (cuPage u)).aged - 1 ∧ (pageGet t.node (pageOf .pwr 0)).cause ≠ 0 ∧
        ∀ p, p ≠ cuPage u → (unitGet t.node p).aged = (unitGet s.node p).aged) ∧
      (below = false ∨ cuThere u = false ∨ (unitGet s.node (cuPage u)).aged = 0 → t = s)) ∧
  (∀ (s : State) (dynamic : List (Nat × List EnergyShare)) (fixed : Nat), Live s →
    ∃ t, exec (.energySplit dynamic fixed) s = .next t ∧ t.node = { s.node with pwr := t.node.pwr } ∧
      t.node.pwr.packE = (s.node.pwr.packE + (nsum (dynamic.map (·.1)) + fixed)) % 2 ^ 64 ∧
      (dynamic = [] → t.node.pwr.nodeE = (s.node.pwr.nodeE + fixed) % 2 ^ 64 ∧ t.node.pwr.tenE = s.node.pwr.tenE) ∧
      (∀ e tid q wt, dynamic = [(e, [{ kind := 0, id := tid, qp := q, weight := wt }])] → 0 < wt →
        sget 0 t.node.pwr.tenE tid = (sget 0 s.node.pwr.tenE tid + e) % 2 ^ 64 ∧
        (∀ k, k ≠ tid → sget 0 t.node.pwr.tenE k = sget 0 s.node.pwr.tenE k) ∧
        t.node.pwr.nodeE = (s.node.pwr.nodeE + fixed) % 2 ^ 64))

/-- Fatal events, power failure and the records that outlive them. Brown-out, loss of REFCLK, a failed DIMM channel and a junction
of 112 C or more stop the node, its links and ports down, the cause reported; a lower reading is kept with the maxima and stops
nothing. PWRFAIL_N empties the staging buffer into MRAM, the power-fail record the last in its ring, and stops the node and the
MRAM writes; a second one changes nothing. The oldest staged record enters the ring of its channel, and a waiting one takes its
place; after PWRFAIL_N none is written. (13_power_and_heat.md, 14_faults_and_recorder.md, 17_package_and_power_up.md.) -/
def Obligations.StopsAndPowerFail : Prop :=
  (∀ (s : State) (c : Instr) (ch : Fin 8) (k : Nat), Live s →
      (c = .brownOut ∧ k = 1) ∨ (c = .refclkLoss ∧ k = 2) ∨ (c = .channelFail ch ∧ k = 4) →
    ∃ t, exec c s = .next t ∧ nodeStopped t.node = true ∧ t.node.topState = 4 ∧ t.node.stopCause = k ∧ t.node.ethPorts = [] ∧
      (∀ x ∈ t.node.links, ∀ l, x.2 = some l → l.state = 0 ∧ l.active = []) ∧
      (∀ x ∈ t.node.lanes, ∀ l, x.2 = some l → l.state = 0) ∧ t.node.shards = s.node.shards ∧ t.node.map = s.node.map ∧
      (c = .channelFail ch → (pageGet t.node (pageOf .dch ch.val)).cause ≠ 0 ∧
        ∀ d ∈ s.node.map.council, hasRoute s.node d.toNat = true → ∃ tag, Sent t.node d.toNat tag (.nodeWithdraw 0x06)) ∧
      (c ≠ .channelFail ch → (pageGet t.node (pageOf .pwr 0)).cause ≠ 0)) ∧
  (∀ (s : State) (readings stackTemps : List Int), Live s → readings ≠ [] →
    ∃ t, exec (.sensorSample readings stackTemps) s = .next t ∧ t.node.pwr.sensors = readings ∧ t.node.pwr.stackTemps = stackTemps ∧
      t.node.pwr.maxJ = max s.node.pwr.maxJ (imax readings) ∧ t.node.pwr.maxS = max s.node.pwr.maxS (imax stackTemps) ∧
      (112 ≤ imax readings → nodeStopped t.node = true ∧ t.node.stopCause = 3 ∧ t.node.pwr.thermN = true ∧
        (pageGet t.node (pageOf .thm 0)).cause ≠ 0) ∧
      (imax readings < 112 → nodeStopped t.node = false ∧
        (thermC s.node ≤ imax readings → t.node.pwr.thermN = true) ∧
        (imax readings + 3 ≤ thermC s.node → t.node.pwr.thermN = false))) ∧
  (∀ (s : State), s.node.pwrfail = false →
    ∃ t e, exec .pwrfailAssert s = .next t ∧ nodeStopped t.node = true ∧ t.node.pwrfail = true ∧ t.node.mram.stopped = true ∧
      t.node.mram.staged = [] ∧ t.node.mram.waiting = [] ∧ t.node.mram.fatal.getLast? = some e ∧ e.code = Config.pwrfailCode ∧
      e.tick = s.node.tick ∧ t.node.shards = s.node.shards ∧ t.node.regs = s.node.regs) ∧
  (∀ (s : State), s.node.pwrfail = true → exec .pwrfailAssert s = .next s) ∧
  (∀ (s : State) (x : Nat × EvRec) (rest : List (Nat × EvRec)), s.node.mram.staged = x :: rest → s.node.mram.stopped = false →
    ∃ t, exec .mramStagingWrite s = .next t ∧ t.node = { s.node with mram := t.node.mram } ∧
      (x.1 = 0 → t.node.mram.power = lpushMax Config.powerRing s.node.mram.power x.2) ∧
      (x.1 = 1 → t.node.mram.security = lpushMax 98304 s.node.mram.security x.2) ∧
      (2 ≤ x.1 → t.node.mram.fatal = lpushMax 131072 s.node.mram.fatal x.2) ∧
      (s.node.mram.waiting = [] → t.node.mram.staged = rest) ∧
      (∀ w ws, s.node.mram.waiting = w :: ws → t.node.mram.staged = rest ++ [w] ∧ t.node.mram.waiting = ws)) ∧
  (∀ (s : State), s.node.mram.staged = [] ∨ s.node.mram.stopped = true → exec .mramStagingWrite s = .next s)

/-- Shadow recomputation, charges, takeover and requalification. A sampled unit of work starts its shadow on another active, idle
unit of its type, on the other die where one is free, or is dropped and counted after 1 ms. Results that agree end it; results
that differ await a third unit, which has the unit it disagrees with charged, none where it agrees with both. A charge joins those
of the window; with QUAR_CHARGES of them an active unit leaves service. A spare that is powered reads ACTIVE at its operating
point; the old unit, emptied, reads what it leaves as. Requalification takes every quarantined unit and lowers the thermal limit
by a number of steps left open (log 183); one that passes is a spare, one that fails loses a step of AGED_MAX_OP, or at OP0 reads
OFF, reported. (14_faults_and_recorder.md.) -/
def Obligations.ShadowAndQuarantine : Prop :=
  (∀ (s : State) (id on : Nat) (w : ShadowWork), Live s → workFind s.node id = some w → w.on = none →
    ∃ t, exec (.shadowStart id on) s = .next t ∧ t.node = { s.node with shadows := t.node.shadows } ∧
      (on ∈ shadowUnits s.node w.page → s.node.tick ≤ w.ended + ticksMs 1 → workFind t.node id = some { w with on := some on }) ∧
      (on ∉ shadowUnits s.node w.page ∨ w.ended + ticksMs 1 < s.node.tick → t = s)) ∧
  (∀ (s : State) (id : Nat) (w : ShadowWork), Live s → workFind s.node id = some w → w.on = none →
    ∃ t, exec (.shadowDropped id) s = .next t ∧ t.node.shadows = s.node.shadows.filter (fun x => x.id ≠ id) ∧
      w.ended + ticksMs 1 ≤ t.node.tick ∧ (pageGet t.node (pageOf .recb 0)).cause ≠ 0 ∧ t.node.units = s.node.units ∧
      sget 0 t.node.cnts (regAddr .recb 0 0x114) = sget 0 s.node.cnts (regAddr .recb 0 0x114) + 1) ∧
  (∀ (s : State) (id : Nat) (agree : Bool) (w : ShadowWork), Live s → workFind s.node id = some w → w.on.isSome = true →
      w.differs = false →
    ∃ t, exec (.shadowCompare id agree) s = .next t ∧ t.node = { s.node with shadows := t.node.shadows, cnts := t.node.cnts } ∧
      sget 0 t.node.cnts (regAddr .recb 0 0x110) = sget 0 s.node.cnts (regAddr .recb 0 0x110) + 1 ∧
      workFind t.node id = if agree then none else some { w with differs := true }) ∧
  (∀ (s : State) (id third on : Nat) (w : ShadowWork), Live s → workFind s.node id = some w → w.on = some on → w.differs = true →
      otherUnit s.node w.page third = true → third ≠ on →
      exec (.arbitration id third true true) s = .next s ∧
      ∃ t, exec (.arbitration id third true false) s = .next t ∧ t.node.shadows = s.node.shadows.filter (fun x => x.id ≠ id) ∧
        (unitGet t.node on).charges = (unitGet s.node on).charges.filter
          (fun c => decide (s.node.tick < c + ticksS (60 * rfield s.node .recb 0 0x100 27 14))) ++ [s.node.tick] ∧
        (∀ p, p ≠ on → (unitGet t.node p).charges = (unitGet s.node p).charges ∧ (unitGet t.node p).state = (unitGet s.node p).state) ∧
        ((unitGet t.node on).charges.length < rfield s.node .recb 0 0x100 11 8 → (unitGet t.node on).state = (unitGet s.node on).state) ∧
        (rfield s.node .recb 0 0x100 11 8 ≤ (unitGet t.node on).charges.length → (unitGet s.node on).state = 0 →
          (unitGet t.node on).state = 2 ∧ (unitGet t.node on).leaving = some (if (unitGet s.node on).aged = 0 then 4 else 3) ∧
          (unitGet t.node on).aged = (unitGet s.node on).aged - 1)) ∧
  (∀ (s : State) (u : CUnit) (k : Takeover), Live s → s.node.takeovers.find? (fun x => x.spare = some (cuPage u)) = some k →
    ∃ t, exec (.sparePowered u) s = .next t ∧ (unitGet t.node (cuPage u)).state = 0 ∧
      (unitGet t.node (cuPage u)).cur = unitTarget s.node (cuPage u) ∧
      t.node.takeovers = s.node.takeovers.filter (fun x => x.spare ≠ some (cuPage u)) ∧
      (pageGet t.node (pageOf .recb 0)).cause ≠ 0 ∧ ∀ p, p ≠ cuPage u → unitGet t.node p = unitGet s.node p) ∧
  (∀ (s : State) (u : CUnit), Live s →
    ∃ t, exec (.oldUnitEmptied u) s = .next t ∧ t.node = { s.node with units := t.node.units } ∧
      (∀ p, p ≠ cuPage u → unitGet t.node p = unitGet s.node p) ∧
      ((unitGet s.node (cuPage u)).leaving = none → t = s) ∧
      (∀ towards, (unitGet s.node (cuPage u)).leaving = some towards →
        unitGet t.node (cuPage u) = { unitGet s.node (cuPage u) with state := towards, leaving := none, cur := 0 })) ∧
  (∀ (s : State), Live s →
    ∃ t, exec .requal s = .next t ∧ t.node = { s.node with
        requal := t.node.requal, pwr := t.node.pwr, units := t.node.units, free := t.node.free } ∧
      t.node.pwr.thmLim ≤ s.node.pwr.thmLim ∧
      (∀ p, (unitGet t.node p).state = (unitGet s.node p).state ∧ (unitGet t.node p).aged = (unitGet s.node p).aged) ∧
      (∀ r ∈ s.node.requal, r ∈ t.node.requal) ∧ ∀ p ∈ unitPages, (unitGet s.node p).state = 3 → ∃ r ∈ t.node.requal, r.1 = p) ∧
  (∀ (s : State) (u : CUnit) (r : Nat × Nat), Live s → cuThere u = true →
      s.node.requal.find? (fun r => r.1 = cuPage u) = some r →
    (∃ t, exec (.requalificationComplete u true) s = .next t ∧ unitGet t.node (cuPage u) = { unitGet s.node (cuPage u) with state := 1 } ∧
      t.node.requal = s.node.requal.filter (fun x => x.1 ≠ cuPage u) ∧ r.2 + ticksS 1 ≤ t.node.tick) ∧
    (∃ t, exec (.requalificationComplete u false) s = .next t ∧ (pageGet t.node (pageOf .recb 0)).cause ≠ 0 ∧
      ((unitGet s.node (cuPage u)).aged = 0 → (unitGet t.node (cuPage u)).state = 4) ∧
      (0 < (unitGet s.node (cuPage u)).aged → (unitGet t.node (cuPage u)).state = (unitGet s.node (cuPage u)).state ∧
        (unitGet t.node (cuPage u)).aged = (unitGet s.node (cuPage u)).aged - 1)))

/-- Parts and units that fail, and where lost data comes from. A lost stack takes its units and its capacity out of use, once; a
failed home slice is named lost, reported; the contexts of a lost SRAM bank are unusable, and a walk that one of them leads ends.
A Clove unit that meets an internal error reads FAULT. A compute unit that makes no progress or whose core fails leaves service,
reported, and the program of the lost array starts again where it may. Lost data of a shard is asked of another holder; with none
a lost upper level is reported as lost; a lost table row is restored from the partner's image where there is a partner, reported
as lost otherwise. (14_faults_and_recorder.md.) -/
def Obligations.PartFaults : Prop :=
  (∀ (s : State) (st : Fin 8), Live s →
    ((stkGet s.node st.val).lost = true → exec (.partFault (.stack st)) s = .next s) ∧
    ((stkGet s.node st.val).lost = false →
      ∃ t, exec (.partFault (.stack st)) s = .next t ∧ (stkGet t.node st.val).lost = true ∧
        t.node.mmu.capStack = s.node.mmu.capStack - 1572096 ∧ t.node.map = s.node.map ∧
        ∀ u, u < 768 → (clvGet t.node (st.val * 768 + u)).off = true ∧ (clvGet t.node (st.val * 768 + u)).state = 5)) ∧
  (∀ (s : State) (k : Fin 64), Live s →
    ∃ t, exec (.partFault (.homeSlice k)) s = .next t ∧ k.val ∈ t.node.hsLost ∧ (∀ j ∈ s.node.hsLost, j ∈ t.node.hsLost) ∧
      (pageGet t.node (pageOf .hs k.val)).cause ≠ 0) ∧
  (∀ (s : State) (u : UnitId), Live s → (clvGet s.node (u.stack.val * 768 + u.u.val)).off = false →
    ∃ t, exec (.partFault (.cloveUnit u)) s = .next t ∧ (clvGet t.node (u.stack.val * 768 + u.u.val)).state = 6 ∧
      (∀ k, k ≠ u.stack.val * 768 + u.u.val → clvGet t.node k = clvGet s.node k) ∧ t.node = { s.node with clvs := t.node.clvs }) ∧
  (∀ (s : State) (e : Fin 72) (cs : List Nat), Live s →
    ∃ t, exec (.partFault (.sramBank e cs)) s = .next t ∧
      ∀ c ∈ cs, c < 512 → e.val * 512 + c ∈ t.node.ctxDead ∧ slotFree t.node e.val c = false ∧
        (∀ x, ctxGet s.node e.val c = some x → x.role ≠ 2 → ctxGet t.node e.val c = none)) ∧
  (∀ (s : State) (prog : Nat) (k : Fin 104) (p : Prog), Live s → progFind s.node prog = some p →
    ∃ t, exec (.arrayNoProgress prog k) s = .next t ∧ (pageGet t.node (pageOf .tns k.val)).cause ≠ 0 ∧
      (unitActive s.node (pageOf .tns k.val) = true →
        (unitGet t.node (pageOf .tns k.val)).state = 2 ∧ (unitGet t.node (pageOf .tns k.val)).leaving = some 3) ∧
      (p.state = 1 → p.arrays.contains k.val = true → p.cls = 1 ∨ (p.restarted = false ∧ progLate p s.node = false) →
        (∀ y ∈ s.node.progs, y ≠ p → y.arrays.contains k.val = false) →
        sget 0 t.node.cnts (regAddr .tns k.val 0x134) = sget 0 s.node.cnts (regAddr .tns k.val 0x134) + 1)) ∧
  (∀ (s : State) (k : Fin 72), Live s →
    ∃ t, exec (.coreFault k) s = .next t ∧ (pageGet t.node (pageOf .svc k.val)).cause ≠ 0 ∧
      ((unitGet s.node (pageOf .svc k.val)).state = 0 →
        (unitGet t.node (pageOf .svc k.val)).state = 2 ∧ (unitGet t.node (pageOf .svc k.val)).leaving = some 3) ∧
      ((unitGet s.node (pageOf .svc k.val)).state ≠ 0 → (unitGet s.node (pageOf .svc k.val)).state ≠ 2 → t.node.units = s.node.units)) ∧
  (∀ (s : State) (key : ShardKey) (obj : ShardObj) (i d : Nat) (ds : List Nat) (sh : Shard) (g : IdxGen), Live s →
      shardFind s.node key = some sh → genFind s.node key.handle key.gen = some g → obj ≠ .delta → obj ≠ .codebook →
      otherHolders s.node key = d :: ds →
    ∃ t b, exec (.dataRestore key obj i) s = .next t ∧ b ∈ t.node.awaits ∧ b.dst = d ∧
      b.m = .rebuildRead { key := key, firstMsn := 0, lastMsn := 0, lids := (lostAt g sh obj i).2 } ∧ t.node.shards = s.node.shards ∧
      (hasRoute s.node d = true → Sent t.node d b.tag b.m)) ∧
  (∀ (s : State) (key : ShardKey) (i : Nat) (sh : Shard) (g : IdxGen), Live s →
      shardFind s.node key = some sh → genFind s.node key.handle key.gen = some g → otherHolders s.node key = [] →
    ∃ t, exec (.dataRestore key .upper i) s = .next t ∧ (pageGet t.node (pageOf .recb 0)).cause ≠ 0 ∧ t.node.shards = s.node.shards) ∧
  (∀ (s : State) (key : ShardKey) (obj : ShardObj) (row : Nat) (tb : TabSt) (r : TableRole), Live s → shardFind s.node key = none →
      tabFind s.node key.handle key.gen = some tb → s.node.map.tables.find? (fun r => r.key = key) = some r →
    (∀ p, r.partner = some p → p.node ≠ s.node.nodeId → isFenced s.node p.node.toNat = false →
      ∃ t tb', exec (.dataRestore key obj row) s = .next t ∧ tabFind t.node key.handle key.gen = some tb' ∧
        tb'.bad = tb.bad.filter (fun x => x ≠ row) ∧ key.shard ∉ tb'.restoring ∧ tb'.rows = tb.rows ∧
        poisoned t.node (rowAddr tb row) (tRowBytes tb) = false) ∧
    (r.partner = none → ∃ t, exec (.dataRestore key obj row) s = .next t ∧ (pageGet t.node (pageOf .recb 0)).cause ≠ 0 ∧
      t.node.tabs = s.node.tabs))

/-- The I3C target. Out of reset the target answers, the node stopped or not. A private write of three bytes sets the register
address; one of 4 to 64 further bytes, whole aligned words, writes the registers from there in order; any other is refused and
counted. A private read of 4 to 64 bytes of whole words answers that many bytes from the address last written; any other answers
zeros and is counted. A register outside the subset reads 0, and neither reading nor writing it changes anything but the count.
ENTDAA sets the dynamic address. The in-band interrupt is raised again after 10 ms while its condition holds.
(15_boot_and_identity.md, 16_register_pages.md.) -/
def Obligations.BoardController : Prop :=
  (∀ (s : State) (d : Blob), s.node.boot.inReset = false →
    (d.len < 3 → ∃ t, exec (.i3cPrivateWrite d) s = .next t ∧ t.node = { s.node with cnts := t.node.cnts } ∧
      sget 0 t.node.cnts (regAddr .top 0 0x11C) = sget 0 s.node.cnts (regAddr .top 0 0x11C) + 1) ∧
    (d.len = 3 → exec (.i3cPrivateWrite d) s = .next { s with
      node := { s.node with i3c := { s.node.i3c with reg := bnum d 0 3 } } }) ∧
    (7 ≤ d.len → d.len ≤ 67 → (d.len - 3) % 4 = 0 → bnum d 0 3 % 4 = 0 →
      exec (.i3cPrivateWrite d) s = .next { s with
        node := i3cWriteRun (bnum d 0 3) (blobWords (bslice d 3 (d.len - 3)))
          { s.node with i3c := { s.node.i3c with reg := bnum d 0 3 } } }) ∧
    (3 < d.len → d.len < 7 ∨ 67 < d.len ∨ (d.len - 3) % 4 ≠ 0 ∨ bnum d 0 3 % 4 ≠ 0 →
      ∃ t, exec (.i3cPrivateWrite d) s = .next t ∧ t.node.regs = s.node.regs ∧ t.node.rcv = s.node.rcv ∧
        sget 0 t.node.cnts (regAddr .top 0 0x11C) = sget 0 s.node.cnts (regAddr .top 0 0x11C) + 1)) ∧
  (∀ (n : Node) (addr : Nat) (v : Word), i3cReach n addr = false →
    (i3cWriteOne addr v n).regs = n.regs ∧ (i3cWriteOne addr v n).pages = n.pages ∧ (i3cReadOne addr n).1 = 0 ∧
    i3cWriteOne addr v n = { n with cnts := (i3cWriteOne addr v n).cnts } ∧ (i3cReadOne addr n).2 = i3cWriteOne addr v n) ∧
  (∀ (s : State) (d : Blob) (v : Word), s.node.boot.inReset = false → s.node.topState ≠ 0 → s.node.topState ≠ 4 →
      s.node.pwrfail = false → d.len = 7 → 0x7FF000 ≤ bnum d 0 3 → bnum d 0 3 < 0x800000 → bnum d 0 3 % 4 = 0 → v = w32 (bnum d 3 4) →
    ∃ t, exec (.i3cPrivateWrite d) s = .next t ∧ bword t.node.rcv.page (bnum d 0 3 - 0x7FF000) = v.toNat ∧
      t.node.regs = s.node.regs) ∧
  (∀ (s : State) (len : Nat), s.node.boot.inReset = false →
    (s.node.i3c.reg % 4 = 0 → 4 ≤ len → len ≤ 64 → len % 4 = 0 → ∃ t d, exec (.i3cPrivateRead len) s = .next t ∧ d.len = len ∧
      d = wordsBlob (i3cReadRun s.node.i3c.reg (len / 4) s.node).1 ∧ t.node.out.getLast? = some (.i3cData d)) ∧
    (s.node.i3c.reg % 4 ≠ 0 ∨ len < 4 ∨ 64 < len ∨ len % 4 ≠ 0 → ∃ t, exec (.i3cPrivateRead len) s = .next t ∧
      t.node = { s.node with cnts := t.node.cnts, out := s.node.out ++ [.i3cData { len := len, bits := 0 }] } ∧
      sget 0 t.node.cnts (regAddr .top 0 0x11C) = sget 0 s.node.cnts (regAddr .top 0 0x11C) + 1)) ∧
  (∀ (s : State) (a : BitVec 7), s.node.boot.inReset = false → exec (.entdaa a) s = .next { s with
    node := { s.node with i3c := { s.node.i3c with dyn := some a.toNat } } }) ∧
  (∀ (s : State), s.node.boot.inReset = false →
    (ibiCond s.node = true → ∃ t, exec .ibiRepeat s = .next t ∧ t.node.out = s.node.out ++ [.ibi (ibiByte s.node)] ∧
      s.node.i3c.ibiAt + ticksMs 10 ≤ t.node.tick ∧ t.node.i3c.ibiAt = t.node.tick) ∧
    (ibiCond s.node = false → exec .ibiRepeat s = .next s)) ∧
  (∀ (s : State) (d : Blob) (len : Nat) (a : BitVec 7) (c : Instr), s.node.boot.inReset = true →
      c = .i3cPrivateWrite d ∨ c = .i3cPrivateRead len ∨ c = .entdaa a ∨ c = .ibiRepeat → exec c s = .next s)

/-- MGMT on registers, tenants and queue pairs. REG_READ answers the registers it reads in address order, REG_WRITE makes its
writes and answers OK. TENANT_WRITE gives the record to the tenant for the next calendar entry, QP_CREATE makes a queue pair in
RTS; a record that breaks a limit answers BAD_PARAM with the word, in the payload. QP_DESTROY lets a queue pair drain and stays
open until QP_DRAIN_END, which frees the queue pair and ends every request that waited for it; it names no queue pair: BAD_PARAM
at TARGET. An MGMT_OP of no operation answers BAD_PARAM at its word. A chunk sequence ends after 60 s. (16_register_pages.md,
12_ethernet_and_admission.md.) -/
def Obligations.MgmtRegistersAndQueuePairs : Prop :=
  (∀ (s : State) (q : Nat) (d b : Blob) (x : Qp), MgmtReady s q d x (opRegRead d) →
      b = wordsBlob (readRun (.qp q) (mAddr d) (mArg32 d / 4) (mgmtEntered s q d x (opRegRead d))).1 →
    ∃ t, exec (.regRead q d) s = .next t ∧ Replied t.node q d 0 0 (mgmtWords 0 b.len 0 false) b ∧ Over t.node s.node.nextReq ∧
      t.node.regs = s.node.regs) ∧
  (∀ (s : State) (q : Nat) (d : Blob) (x : Qp), MgmtReady s q d x (opRegWrite d) →
    exec (.regWrite q d) s = .next { s with
      node := mgmtOk s.node.nextReq 0 bempty
        (writeRun (mAddr d) (blobWords (mPayload s.node d)) (mgmtEntered s q d x (opRegWrite d))) }) ∧
  (∀ (s : State) (q : Nat) (d : Blob) (x : Qp), MgmtReady s q d x (opTenantWrite d) →
      (∀ o, tenantBad (mPayload s.node d) = some o →
        ∃ t, exec (.tenantWrite q d) s = .next t ∧ Replied t.node q d 1 o (mgmtWords 0 0 0 true) bempty ∧ Over t.node s.node.nextReq) ∧
      (tenantBad (mPayload s.node d) = none →
        ∃ t tn, exec (.tenantWrite q d) s = .next t ∧ Replied t.node q d 0 0 (mgmtWords 0 0 0 false) bempty ∧
          Over t.node s.node.nextReq ∧ tenantFind t.node (nbits (bword (mPayload s.node d) 0) 31 20) = some tn ∧
          tn.next = some (tenantParse (mPayload s.node d)))) ∧
  (∀ (s : State) (q : Nat) (d : Blob) (x : Qp), MgmtReady s q d x (opQpCreate d) → (∀ y ∈ s.node.qps, y.num ≠ s.node.nextQp) →
      (∀ o, qpBad s.node (mPayload s.node d) 0 = some o →
        ∃ t, exec (.qpCreate q d) s = .next t ∧ Replied t.node q d 1 o (mgmtWords 0 0 0 true) bempty ∧ Over t.node s.node.nextReq) ∧
      (qpBad s.node (mPayload s.node d) 0 = none →
        (qpRoom (mgmtEntered s q d x (opQpCreate d)) (qpParse (mPayload s.node d) 0).tid = false →
          ∃ t, exec (.qpCreate q d) s = .next t ∧ Replied t.node q d 2 0 (mgmtWords 0 0 0 false) bempty ∧ Over t.node s.node.nextReq) ∧
        (qpRoom (mgmtEntered s q d x (opQpCreate d)) (qpParse (mPayload s.node d) 0).tid = true →
          ∃ t y, exec (.qpCreate q d) s = .next t ∧ qpFind t.node s.node.nextQp = some y ∧ y.state = 1 ∧ y.slots = [] ∧
            y.cfg = qpParse (mPayload s.node d) 0 ∧ Over t.node s.node.nextReq ∧
            Replied t.node q d 0 0 (mgmtWords (s.node.nextQp % 2 ^ 24) 0 0 false) bempty))) ∧
  (∀ (s : State) (q : Nat) (d : Blob) (x : Qp), MgmtReady s q d x (opQpDestroy q d) →
      (qpFind s.node (mTarget d) = none →
        ∃ t, exec (.qpDestroy q d) s = .next t ∧ Replied t.node q d 1 8 (mgmtWords 0 0 0 false) bempty ∧ Over t.node s.node.nextReq) ∧
      (∀ y, qpFind s.node (mTarget d) = some y →
        ∃ t, exec (.qpDestroy q d) s = .next t ∧ qpFind t.node (mTarget d) = some { y with state := 3 } ∧ t.node.out = s.node.out ∧
          ∃ r ∈ t.node.reqs, r.id = s.node.nextReq ∧ r.d = d)) ∧
  (∀ (s : State) (q : Nat) (x : Qp), Live s → qpFind s.node q = some x → x.state = 3 → (∀ r ∈ s.node.reqs, r.qp ≠ q) →
    ∃ t, exec (.qpDrainEnd q) s = .next t ∧ qpFind t.node q = none ∧ (∀ p, p ≠ q → (qpFind t.node p).isSome = (qpFind s.node p).isSome) ∧
      ∀ r ∈ s.node.reqs, r.op = 4 → bnum r.d 6 2 = 0x32 → mTarget r.d = q → Over t.node r.id) ∧
  (∀ (s : State) (q : Nat) (d : Blob) (x : Qp), Received s q d x → 64 ≤ bword d 0x24 →
      mgmtBad x { mop (bnum d 6 2) with flags := 0xFFFF } d (policed s x) ≠ some 0 →
    ∃ t, exec (.mgmtInvalidOp q d) s = .next t ∧ Replied t.node q d 1 4 0 bempty ∧ t.node.reqs = s.node.reqs) ∧
  (∀ (s : State) (op : Nat) (c : ChunkOp), Live s → s.node.chunkOps.find? (fun c => c.id = op) = some c →
    ∃ t, exec (.chunkSequenceTimeout op) s = .next t ∧ t.node.chunkOps = s.node.chunkOps.filter (fun c => c.id ≠ op) ∧
      c.at_ + ticksS 60 ≤ t.node.tick ∧ t.node = { s.node with tick := t.node.tick, chunkOps := t.node.chunkOps })

/-- MGMT on memory and reads of what the node keeps. MEM_READ and MEM_WRITE of a range inside a segment of the tenant, a write
only with write rights, start a DMA transfer where a channel is free, otherwise answer RETRY_LATER; a range outside answers
DENIED. FLASH_DISCARD discards the units of such a range. MAP_READ, CAL_READ, HEALTH_READ, MRAM_READ, CONTEXT_DUMP and ATTEST
answer the bytes asked for of the composition map with its epoch, the calibration set, the last health log, an MRAM channel, a
context, and the attestation report over the nonce with its certificates; the reads of configuration change no register, shard or
map. (16_register_pages.md, 09_memory_tiers.md, 03_graph_walk.md, 15_boot_and_identity.md.) -/
def Obligations.MgmtReads : Prop :=
  (∀ (s : State) (q : Nat) (d : Blob) (x : Qp), MgmtReady s q d x (opMemRead d) →
      (segFind s.node (mTarget d) (mAddr d) (mArg32 d) = none →
        ∃ t, exec (.memRead q d) s = .next t ∧ Replied t.node q d 2 0 (mgmtWords 0 0 0 false) bempty ∧ Over t.node s.node.nextReq) ∧
      (∀ a c cs, segFind s.node (mTarget d) (mAddr d) (mArg32 d) = some a → mArg32 d ≠ 0 → dmaFree s.node = c :: cs →
        ∃ t, exec (.memRead q d) s = .next t ∧ t.node = { mgmtEntered s q d x (opMemRead d) with mmu := t.node.mmu } ∧
          (dmaGet t.node c).state = 1 ∧ (dmaGet t.node c).job = some s.node.nextReq ∧ (dmaGet t.node c).addr = a.1 ∧
          (dmaGet t.node c).write = false ∧ (dmaGet t.node c).total = (mArg32 d + 4095) / 4096) ∧
      (∀ a, segFind s.node (mTarget d) (mAddr d) (mArg32 d) = some a → mArg32 d ≠ 0 → dmaFree s.node = [] →
        ∃ t w, exec (.memRead q d) s = .next t ∧ Replied t.node q d 5 w (mgmtWords 0 0 0 false) bempty ∧
          Over t.node s.node.nextReq)) ∧
  (∀ (s : State) (q : Nat) (d : Blob) (x : Qp), MgmtReady s q d x (opMemWrite d) →
      (segFind s.node (mTarget d) (mAddr d) (mPayload s.node d).len = none →
        ∃ t, exec (.memWrite q d) s = .next t ∧ Replied t.node q d 2 0 (mgmtWords 0 0 0 false) bempty ∧ Over t.node s.node.nextReq) ∧
      (∀ a, segFind s.node (mTarget d) (mAddr d) (mPayload s.node d).len = some (a, false) →
        ∃ t, exec (.memWrite q d) s = .next t ∧ Replied t.node q d 2 0 (mgmtWords 0 0 0 false) bempty ∧ Over t.node s.node.nextReq) ∧
      (∀ a c cs, segFind s.node (mTarget d) (mAddr d) (mPayload s.node d).len = some (a, true) → (mPayload s.node d).len ≠ 0 →
          dmaFree s.node = c :: cs →
        ∃ t, exec (.memWrite q d) s = .next t ∧ t.node = { mgmtEntered s q d x (opMemWrite d) with mmu := t.node.mmu } ∧
          (dmaGet t.node c).state = 1 ∧ (dmaGet t.node c).job = some s.node.nextReq ∧ (dmaGet t.node c).addr = a ∧
          (dmaGet t.node c).write = true ∧ (dmaGet t.node c).data = mPayload s.node d)) ∧
  (∀ (s : State) (q : Nat) (d : Blob) (x : Qp), MgmtReady s q d x (opFlashDiscard d) →
      (segFind s.node (mTarget d) (mAddr d) (mArg32 d) = none →
        ∃ t, exec (.flashDiscard q d) s = .next t ∧ Replied t.node q d 2 0 (mgmtWords 0 0 0 false) bempty ∧
          t.node.ftl = s.node.ftl ∧ Over t.node s.node.nextReq) ∧
      (∀ a, segFind s.node (mTarget d) (mAddr d) (mArg32 d) = some (a, true) →
        ∃ t, exec (.flashDiscard q d) s = .next t ∧ Replied t.node q d 0 0 (mgmtWords 0 0 0 false) bempty ∧
          t.node.ftl = (discardRange a (mArg32 d) (mgmtEntered s q d x (opFlashDiscard d))).ftl ∧ Over t.node s.node.nextReq)) ∧
  (∀ (s : State) (q : Nat) (d : Blob) (x : Qp) (c : Instr) (o : MgmtOp) (result : Nat) (b : Blob), MgmtReady s q d x o →
      (c = .mapRead q d ∧ o = opMapRead d ∧ result = s.node.map.epoch ∧ b = partOf (mapBytes s.node.map) (mAddr d) (mArg32 d)) ∨
      (c = .calRead q d ∧ o = opCalRead d ∧ result = 0 ∧ b = partOf s.node.calFlash (mAddr d) (mArg32 d)) ∨
      (c = .mramRead q d ∧ o = opMramRead d ∧ result = 0 ∧ b = partOf (mramBytes s.node (mArg16 d)) (mAddr d) (mArg32 d)) ∨
      (c = .contextDump q d ∧ o = opContextDump d ∧ result = 0 ∧ b = (ctxImage (mArg16 d) (mArg32 d) (mgmtEntered s q d x o)).1) ∨
      (c = .attest q d ∧ o = opAttest d ∧ result = 0 ∧ b = attBlob s.node (mPayload s.node d).bits) ∨
      (∃ r, c = .healthRead q d ∧ o = opHealthRead ∧ result = 0 ∧ s.node.ftl.roots.getLast? = some r ∧
        b = r.health.foldl (fun b e => bpatch b e.1 (bofNat (healthWidth e.1) e.2)) { len := 256, bits := 0 }) →
    ∃ t, exec c s = .next t ∧ Replied t.node q d 0 0 (mgmtWords result b.len 0 false) b ∧ Over t.node s.node.nextReq ∧
      t.node.regs = s.node.regs ∧ t.node.shards = s.node.shards ∧ t.node.map = s.node.map ∧ t.node.ftl = s.node.ftl ∧
      t.node.mram = s.node.mram ∧ t.node.ctxs = s.node.ctxs) ∧
  (∀ (s : State) (q : Nat) (d : Blob) (x : Qp), MgmtReady s q d x opHealthRead → s.node.ftl.roots = [] →
    ∃ t b, exec (.healthRead q d) s = .next t ∧ b.len = 256 ∧ Replied t.node q d 0 0 (mgmtWords 0 256 0 false) b ∧
      Over t.node s.node.nextReq)

/-- MGMT on config flash and on the composition. CABLING_WRITE starts the write of the calibration region with the new cabling
table; an entry that breaks a limit answers BAD_PARAM with its offset in the payload. A first chunk of IMAGE_WRITE or CAL_WRITE is
kept and answered OK, a chunk that continues no sequence answers BAD_PARAM at ADDR; the FINAL chunk starts the write where the
whole passes its checks. COUNCIL_SET, NODE_RETIRE, COMPOSITION_REFORM, OBJECT_FREE and TABLE_ACTIVATE want their map change and
stay open until it is committed; what they cannot name is answered BAD_PARAM, a re-formation that is not due RETRY_LATER.
(16_register_pages.md, 15_boot_and_identity.md, 11_fabric_and_compositions.md, 08_embedding_pool.md.) -/
def Obligations.MgmtConfiguration : Prop :=
  (∀ (s : State) (q : Nat) (d : Blob) (x : Qp), MgmtReady s q d x (opCablingWrite d) →
      (∀ o, cablesBad (mPayload s.node d) ((mPayload s.node d).len / 56) 0 none [] = some o →
        ∃ t, exec (.cablingWrite q d) s = .next t ∧ Replied t.node q d 1 o (mgmtWords 0 0 0 true) bempty ∧ t.node.flashJob = none ∧
          Over t.node s.node.nextReq) ∧
      (cablesBad (mPayload s.node d) ((mPayload s.node d).len / 56) 0 none [] = none →
        exec (.cablingWrite q d) s = .next { s with
          node := { mgmtEntered s q d x (opCablingWrite d) with
            flashJob := some { cal := true, data := calWithCables (mPayload s.node d) s.node.calFlash, req := s.node.nextReq,
                               at_ := s.node.tick } } })) ∧
  (∀ (s : State) (q : Nat) (d : Blob) (x : Qp) (c : Instr) (o : MgmtOp), MgmtReady s q d x o →
      (c = .imageWrite q d ∧ o = opImageWrite) ∨ (c = .calWrite q d ∧ o = opCalWrite) →
      (mAddr d = 0 → mFinal d = false →
        ∃ t, exec c s = .next t ∧ Replied t.node q d 0 0 (mgmtWords 0 0 0 false) bempty ∧ Over t.node s.node.nextReq ∧
          chunkFind t.node (q * 65536 + bnum d 6 2) =
            some { id := q * 65536 + bnum d 6 2, data := mPayload s.node d, at_ := s.node.tick } ∧ t.node.flashJob = none) ∧
      (mAddr d ≠ 0 → chunkFind s.node (q * 65536 + bnum d 6 2) = none →
        ∃ t, exec c s = .next t ∧ Replied t.node q d 1 0x28 (mgmtWords 0 0 0 false) bempty ∧ Over t.node s.node.nextReq ∧
          t.node.chunkOps = s.node.chunkOps)) ∧
  (∀ (s : State) (q : Nat) (d : Blob) (x : Qp), MgmtReady s q d x opImageWrite → mAddr d = 0 → mFinal d = true →
    (imageCheck s.node.fuses (mPayload s.node d) = 0 →
      ∃ t, exec (.imageWrite q d) s = .next t ∧
        t.node.flashJob = some { cal := false, data := mPayload s.node d, req := s.node.nextReq, at_ := s.node.tick }) ∧
    (imageCheck s.node.fuses (mPayload s.node d) ≠ 0 →
      ∃ t w, exec (.imageWrite q d) s = .next t ∧ Replied t.node q d 1 w (mgmtWords 0 0 0 true) bempty ∧ t.node.flashJob = none ∧
        (pageGet t.node (pageOf .sec 0)).cause ≠ 0 ∧ Over t.node s.node.nextReq)) ∧
  (∀ (s : State) (q : Nat) (d : Blob) (x : Qp), MgmtReady s q d x opCalWrite → mAddr d = 0 → mFinal d = true →
    (calBad s.node (mPayload s.node d) = none →
      ∃ t, exec (.calWrite q d) s = .next t ∧ t.node.flashJob = some {
        cal := true, data := calPut 4 (calCrc (calPut 3 1 (mPayload s.node d))) (calPut 3 1 (mPayload s.node d)),
        req := s.node.nextReq, at_ := s.node.tick }) ∧
    (∀ o, calBad s.node (mPayload s.node d) = some o →
      ∃ t, exec (.calWrite q d) s = .next t ∧ Replied t.node q d 1 o (mgmtWords 0 0 0 true) bempty ∧ t.node.flashJob = none ∧
        Over t.node s.node.nextReq)) ∧
  (∀ (s : State) (q : Nat) (d : Blob) (x : Qp) (l : List (BitVec 12 × Nat)), MgmtReady s q d x (opCouncilSet d) →
      l = (List.range ((mPayload s.node d).len / 2)).map
        (fun i => (BitVec.ofNat 12 (bnum (mPayload s.node d) (2 * i) 2), bnum (mPayload s.node d) (2 * i) 2)) →
    (∀ o, councilBad s.node l = some o →
      ∃ t, exec (.councilSet q d) s = .next t ∧ Replied t.node q d 1 o (mgmtWords 0 0 0 true) bempty ∧ Over t.node s.node.nextReq) ∧
    (councilBad s.node l = none → s.node.map.epoch < 0xFFFFFFFE →
      ∃ t, exec (.councilSet q d) s = .next t ∧ Wanted t.node s.node.nextReq (.council (l.map (·.1)) (mArg16 d)) ∧
        t.node.map = s.node.map)) ∧
  (∀ (s : State) (q : Nat) (d : Blob) (x : Qp), MgmtReady s q d x (opNodeRetire d) →
    (memberFind s.node.map (mTarget d) = none →
      ∃ t, exec (.nodeRetire q d) s = .next t ∧ Replied t.node q d 1 8 (mgmtWords 0 0 0 false) bempty ∧ Over t.node s.node.nextReq) ∧
    (∀ m, memberFind s.node.map (mTarget d) = some m →
      (m.state = .retired →
        ∃ t, exec (.nodeRetire q d) s = .next t ∧ Replied t.node q d 0 0 (mgmtWords 0 0 0 false) bempty ∧ Over t.node s.node.nextReq) ∧
      (m.state ≠ .retired → s.node.map.epoch < 0xFFFFFFFE →
        ∃ t, exec (.nodeRetire q d) s = .next t ∧ Wanted t.node s.node.nextReq (.memberState m.node .retired) ∧
          t.node.map = s.node.map))) ∧
  (∀ (s : State) (q : Nat) (d : Blob) (x : Qp) (idle : Bool), MgmtReady s q d x opCompositionReform →
    (s.node.map.epoch = 0xFFFFFFFE → idle = true → s.node.reqs = [] →
      ∃ t, exec (.compositionReform q d idle) s = .next t ∧ Wanted t.node s.node.nextReq .reform ∧ t.node.map = s.node.map) ∧
    (s.node.map.epoch ≠ 0xFFFFFFFE ∨ idle = false ∨ s.node.reqs ≠ [] →
      ∃ t w, exec (.compositionReform q d idle) s = .next t ∧ Replied t.node q d 5 w (mgmtWords 0 0 0 false) bempty ∧
        Over t.node s.node.nextReq ∧ t.node.map = s.node.map)) ∧
  (∀ (s : State) (q : Nat) (d : Blob) (x : Qp), MgmtReady s q d x (opObjectFree d) →
    (currentGen s.node.map (mTarget d) = none →
      ∃ t, exec (.objectFree q d) s = .next t ∧ Replied t.node q d 1 8 (mgmtWords 0 0 0 false) bempty ∧ Over t.node s.node.nextReq) ∧
    ((currentGen s.node.map (mTarget d)).isSome = true → s.node.map.epoch < 0xFFFFFFFE →
      ∃ t, exec (.objectFree q d) s = .next t ∧ Wanted t.node s.node.nextReq (.free (mTarget d)) ∧ t.node.map = s.node.map)) ∧
  (∀ (s : State) (q : Nat) (d : Blob) (x : Qp), MgmtReady s q d x (opTableActivate d) →
    (∀ o, tabTarget s.node d = .inl o →
      ∃ t, exec (.tableActivate q d) s = .next t ∧ Replied t.node q d 1 o (mgmtWords 0 0 0 false) bempty ∧ Over t.node s.node.nextReq) ∧
    (∀ tb, tabTarget s.node d = .inr tb → genDue s.node tb.handle tb.gen = true → s.node.map.epoch < 0xFFFFFFFE →
        s.node.map.gens.contains { handle := tb.handle, gen := tb.gen } = false →
      ∃ t, exec (.tableActivate q d) s = .next t ∧ Wanted t.node s.node.nextReq (.makeCurrent { handle := tb.handle, gen := tb.gen }) ∧
        t.node.map = s.node.map))

/-- MGMT on indexes, tables and encoders. A descriptor, codebook, list or record that breaks a limit answers BAD_PARAM with the
word. Otherwise INDEX_CREATE and TABLE_CREATE keep the new generation and want the roles placed for it, or answer DENIED where
they cannot be placed; CODEBOOK_LOAD wants the codebook in service; CODEBOOK_TRAIN starts its program on the samples given;
DEDUP_SET sets the retention of the index; SHARD_READ answers the descriptor and progress of a shard held here, TABLE_LOAD_READ
the load record of a table shard homed here, MISROUTE elsewhere; TABLE_FILL sends its records to their homes as writes;
ENCODER_LOAD keeps the list, pinned, and wants its generation current. (16_register_pages.md, 02_index_objects.md,
08_embedding_pool.md, 07_tensor_arrays.md, 06_mutations_and_visibility.md.) -/
def Obligations.MgmtObjects : Prop :=
  (∀ (s : State) (q : Nat) (d p : Blob) (x : Qp) (g : IdxGen), MgmtReady s q d x (opIndexCreate s.node d) → p = mPayload s.node d →
      g = { handle := bword p 0, gen := bnum p 6 2, desc := bslice p 0 64, owner := mTarget d,
            codebook := if bword p 0x1C = 0 then none else some (bslice p (bword p 0x20) (bword p 0x1C)) } →
    (∀ o, idxBad s.node p = some o →
      ∃ t, exec (.indexCreate q d) s = .next t ∧ Replied t.node q d 1 o (mgmtWords 0 0 0 true) bempty ∧ Over t.node s.node.nextReq) ∧
    (idxBad s.node p = none → genHeld s.node g.handle g.gen = false →
      (∀ n1, placeShards (mgmtEntered s q d x (opIndexCreate s.node d)) (descLevel g) (gReplicas g) g.handle g.gen (gShards g) [] []
          (mgmtEntered s q d x (opIndexCreate s.node d)) = (none, n1) →
        ∃ t, exec (.indexCreate q d) s = .next t ∧ Replied t.node q d 2 0 (mgmtWords 0 0 0 false) bempty ∧ Over t.node s.node.nextReq) ∧
      (∀ rs given n1 n2, placeShards (mgmtEntered s q d x (opIndexCreate s.node d)) (descLevel g) (gReplicas g) g.handle g.gen
          (gShards g) [] [] (mgmtEntered s q d x (opIndexCreate s.node d)) = (some (rs, given), n1) →
          othersProvide given n1 = (true, n2) → s.node.map.epoch < 0xFFFFFFFE →
          (reserve (mTarget d) (objectsAt (gReplicas g) rs s.node.nodeId * (shardPages g).1)
            (objectsAt (gReplicas g) rs s.node.nodeId * (shardPages g).2.1)
            (objectsAt (gReplicas g) rs s.node.nodeId * (shardPages g).2.2) s.node).isSome = true →
        ∃ t rs' sl, exec (.indexCreate q d) s = .next t ∧ genFind t.node g.handle g.gen = some g ∧
          Wanted t.node s.node.nextReq (.create { handle := g.handle, gen := g.gen } rs' [] sl) ∧
          rs'.map (fun r => (r.key, r.primary, r.partner, r.replicas)) = rs.map (fun r => (r.key, r.primary, r.partner, r.replicas))))) ∧
  (∀ (s : State) (q : Nat) (d p : Blob) (x : Qp), MgmtReady s q d x (opCodebookLoad d) → p = mPayload s.node d →
    (∀ o, idxTarget s.node d = .inl o →
      ∃ t, exec (.codebookLoad q d) s = .next t ∧ Replied t.node q d 1 o (mgmtWords 0 0 0 false) bempty ∧ Over t.node s.node.nextReq) ∧
    (∀ g, idxTarget s.node d = .inr g → g.codebook = none → p.len = gM g * 64 * gWidth g →
      (∀ o, bookBad p (gDim g) (gM g) (gWidth g) = some o →
        ∃ t, exec (.codebookLoad q d) s = .next t ∧ Replied t.node q d 1 o (mgmtWords 0 0 0 true) bempty ∧ Over t.node s.node.nextReq) ∧
      (bookBad p (gDim g) (gM g) (gWidth g) = none → s.node.map.epoch < 0xFFFFFFFE →
        ∃ t, exec (.codebookLoad q d) s = .next t ∧ Wanted t.node s.node.nextReq (.codebook g.handle g.gen) ∧
          (∃ j ∈ t.node.mapJobs, j.change = .codebook g.handle g.gen ∧ j.data = p) ∧ t.node.gens = s.node.gens))) ∧
  (∀ (s : State) (q : Nat) (d p : Blob) (x : Qp) (g : IdxGen), MgmtReady s q d x (opCodebookTrain d) → p = mPayload s.node d →
      idxTarget s.node d = .inr g → g.codebook = none → mFinal d = false → p.len = mArg32 d * gDim g * 4 →
      elemsBad p 0 0 0 (mArg32 d * gDim g) = none → (∀ y ∈ s.node.progs, y.id ≠ s.node.nextProg) →
    ∃ t y, exec (.codebookTrain q d) s = .next t ∧ progFind t.node s.node.nextProg = some y ∧ y.req = some s.node.nextReq ∧ y.cls = 2 ∧
      y.handle = g.handle ∧ y.gen = g.gen ∧ (∃ r ∈ t.node.reqs, r.id = s.node.nextReq ∧ r.prog = some s.node.nextProg) ∧
      t.node.gens = s.node.gens) ∧
  (∀ (s : State) (q : Nat) (d : Blob) (x : Qp), MgmtReady s q d x (opDedupSet d) →
    (isIndex s.node (mTarget d) = true →
      ∃ t, exec (.dedupSet q d) s = .next t ∧ Replied t.node q d 0 0 (mgmtWords 0 0 0 false) bempty ∧ Over t.node s.node.nextReq ∧
        sget 30 t.node.idxDedup (mTarget d) = mArg32 d ∧
        ∀ k, k ≠ mTarget d → sget 30 t.node.idxDedup k = sget 30 s.node.idxDedup k) ∧
    (isIndex s.node (mTarget d) = false →
      ∃ t, exec (.dedupSet q d) s = .next t ∧ Replied t.node q d 1 8 (mgmtWords 0 0 0 false) bempty ∧ Over t.node s.node.nextReq ∧
        t.node.idxDedup = s.node.idxDedup)) ∧
  (∀ (s : State) (q : Nat) (d : Blob) (x : Qp) (g : IdxGen) (key : ShardKey), MgmtReady s q d x (opShardRead d) →
      key = { handle := mTarget d, gen := mGen d, shard := mArg16 d } → genFind s.node key.handle key.gen = some g →
      key.shard < gShards g →
    (∀ sh, shardFind s.node key = some sh → sh.role < 3 →
      ∃ t b, exec (.shardRead q d) s = .next t ∧ b = bappend (shardDesc (mgmtEntered s q d x (opShardRead d)) sh)
          (shardProgress sh (mgmtEntered s q d x (opShardRead d))).1 ∧ b.len = 168 ∧
        Replied t.node q d 0 0 (mgmtWords 0 168 0 false) b ∧ Over t.node s.node.nextReq ∧ t.node.shards = s.node.shards) ∧
    (shardFind s.node key = none →
      ∃ t, exec (.shardRead q d) s = .next t ∧ Replied t.node q d 4 s.node.map.epoch (mgmtWords 0 0 0 false) bempty ∧
        Over t.node s.node.nextReq)) ∧
  (∀ (s : State) (q : Nat) (d p : Blob) (x : Qp), MgmtReady s q d x (opTableCreate s.node d) → p = mPayload s.node d →
    (∀ o, tabBad s.node p = some o →
      ∃ t, exec (.tableCreate q d) s = .next t ∧ Replied t.node q d 1 o (mgmtWords 0 0 0 true) bempty ∧ Over t.node s.node.nextReq) ∧
    (tabBad s.node p = none → genHeld s.node (bword p 0) (bnum p 6 2) = false →
      ∀ rs given n1 n2 n3, placeTables (mgmtEntered s q d x (opTableCreate s.node d)) (bword p 0) (bnum p 6 2)
          (tShards (tabNew p (mTarget d) s.node.tick)) [] [] (mgmtEntered s q d x (opTableCreate s.node d)) = (some (rs, given), n1) →
        othersProvide given n1 = (true, n2) → s.node.map.epoch < 0xFFFFFFFE →
        reserve (mTarget d) (if tDimm (tabNew p (mTarget d) s.node.tick) then 0 else
            pagesFor (rowsAt (tabNew p (mTarget d) s.node.tick) rs s.node.nodeId * tRowBytes (tabNew p (mTarget d) s.node.tick)) +
            pagesFor (tSlots (tabNew p (mTarget d) s.node.tick) * tRowBytes (tabNew p (mTarget d) s.node.tick)))
          (if tDimm (tabNew p (mTarget d) s.node.tick) then
            pagesFor (rowsAt (tabNew p (mTarget d) s.node.tick) rs s.node.nodeId * tRowBytes (tabNew p (mTarget d) s.node.tick)) +
            pagesFor (tSlots (tabNew p (mTarget d) s.node.tick) * tRowBytes (tabNew p (mTarget d) s.node.tick)) else 0) 0 n2 = some n3 →
        ∃ t tb sl, exec (.tableCreate q d) s = .next t ∧ tabFind t.node (bword p 0) (bnum p 6 2) = some tb ∧ tb.desc = bslice p 0 64 ∧
          tb.rows = [] ∧ Wanted t.node s.node.nextReq (.create { handle := bword p 0, gen := bnum p 6 2 } [] rs sl))) ∧
  (∀ (s : State) (q : Nat) (d p : Blob) (x : Qp) (tb : TabSt), MgmtReady s q d x (opTableFill d) → p = mPayload s.node d →
      tabTarget s.node d = .inr tb →
    (p.len % (8 + 4 * tWidth tb) ≠ 0 →
      ∃ t, exec (.tableFill q d) s = .next t ∧ Replied t.node q d 1 0x34 (mgmtWords 0 0 0 false) bempty ∧ Over t.node s.node.nextReq) ∧
    (p.len % (8 + 4 * tWidth tb) = 0 →
      (∀ i, i < p.len / (8 + 4 * tWidth tb) → bnum p ((8 + 4 * tWidth tb) * i) 8 < tRows tb ∧
        ∀ j, j < tWidth tb → f32Finite (w32 (bword p ((8 + 4 * tWidth tb) * i + 8 + 4 * j))) = true) →
      exec (.tableFill q d) s = .next { s with
        node := updatesSend s.node.nextReq 1 tb.handle tb.gen 0 (p.len / (8 + 4 * tWidth tb)) p
          (reqMod s.node.nextReq (fun r => { r with tabHandle := tb.handle, tabGen := tb.gen }) (mgmtEntered s q d x (opTableFill d))) })) ∧
  (∀ (s : State) (q : Nat) (d : Blob) (x : Qp) (tb : TabSt), MgmtReady s q d x (opTableLoadRead d) →
      isTable s.node (mTarget d) = true → tabFind s.node (mTarget d) (mGen d) = some tb → mArg16 d < tShards tb →
    (homesShard s.node tb (mArg16 d) = true →
      ∃ t, exec (.tableLoadRead q d) s = .next t ∧ Over t.node s.node.nextReq ∧ t.node.tabs = s.node.tabs ∧
        Replied t.node q d 0 0 (mgmtWords 0 48 0 false) (loadRecord tb (mArg16 d))) ∧
    (homesShard s.node tb (mArg16 d) = false →
      ∃ t, exec (.tableLoadRead q d) s = .next t ∧ Replied t.node q d 4 s.node.map.epoch (mgmtWords 0 0 0 false) bempty ∧
        Over t.node s.node.nextReq)) ∧
  (∀ (s : State) (q : Nat) (d p : Blob) (x : Qp), MgmtReady s q d x (opEncoderLoad d) → p = mPayload s.node d → mAddr d = 0 →
      mFinal d = true →
    (∀ o, olBad p (genDue s.node (bword p 8) (bnum p 14 2) && !isIndex s.node (bword p 8) && !isTable s.node (bword p 8))
        (boundOk s.node p) = some o →
      ∃ t, exec (.encoderLoad q d) s = .next t ∧ Replied t.node q d 1 o (mgmtWords 0 0 0 true) bempty ∧ Over t.node s.node.nextReq) ∧
    (olBad p (genDue s.node (bword p 8) (bnum p 14 2) && !isIndex s.node (bword p 8) && !isTable s.node (bword p 8))
        (boundOk s.node p) = none → handleBusy s.node s.node.nextReq (bword p 8) = false →
      genHeld s.node (bword p 8) (bnum p 14 2) = false → s.node.map.epoch < 0xFFFFFFFE →
      s.node.map.gens.contains { handle := bword p 8, gen := bnum p 14 2 } = false →
      (reserve (mTarget d) (pagesFor (bnum p 0x28 8)) 0 0 s.node).isSome = true →
      (reserve (mTarget d) 0 (pagesFor (bnum p 0x28 8)) 0 s.node).isSome = true →
      ∃ t e, exec (.encoderLoad q d) s = .next t ∧ e ∈ t.node.encoders ∧ e.handle = bword p 8 ∧ e.gen = bnum p 14 2 ∧ e.list = p ∧
        e.owner = mTarget d ∧
        Wanted t.node s.node.nextReq (.makeCurrent { handle := bword p 8, gen := bnum p 14 2 })))

/-- A QUERY with K = 0. A QUERY that passes check steps 2 to 4 with K = 0 is answered OK with COUNT 0, SHARDS_TOTAL and
SHARDS_ANSWERED 0 and no flag, so none that says coverage is reduced; the answer is all that leaves (no sub-request), no vector is
begun, no program and no walk starts, and no request stays. (R19.) -/
def Obligations.ZeroResults : Prop :=
  ∀ (s : State) (q : Nat) (d : Blob) (x : Qp) (g : IdxGen), QueryReady s q d x g → bnum d 6 2 = 0 →
    ∃ t r, exec (.query q d) s = .next t ∧ r.op = 1 ∧ r.status = 0 ∧ r.count = 0 ∧ r.k = 0 ∧ r.total = 0 ∧ r.answered = 0 ∧
      r.flags = 0 ∧
      t.node = { s.node with
        tenants := t.node.tenants, calEntry := t.node.calEntry, nextReq := s.node.nextReq + 1, qps := t.node.qps, pwr := t.node.pwr,
        out := s.node.out ++
          [.rdmaWriteImm q (bnum d 0x18 8) (bword d 0x20) (respHeader r) (bnum d 0x10 8 % 2 ^ 32)] }

/-- A response write that the client's device rejects. On a queue pair that is not in ERROR, the queue pair enters ERROR with
nothing left to send again or to answer in an error slot, RDMA_RESP_DISCARD rises by 1, nothing leaves the node but perhaps an in-
band interrupt, and every other queue pair is as before. One already in ERROR changes nothing. (R28.) -/
def Obligations.RejectedResponse : Prop :=
  (∀ (s : State) (q : Nat) (x : Qp), Live s → qpFind s.node q = some x → x.state ≠ 2 →
    ∃ t, exec (.responseWriteRejected q) s = .next t ∧
      qpFind t.node q = some { x with state := 2, unacked := [], errQueue := [], slots := [] } ∧
      (∀ p, p ≠ q → qpFind t.node p = qpFind s.node p) ∧
      sget 0 t.node.cnts (regAddr .rdma 0 0x138) = sget 0 s.node.cnts (regAddr .rdma 0 0x138) + 1 ∧
      sget 0 t.node.cnts (regAddr .rdma 0 0x28) = sat32 (sget 0 s.node.cnts (regAddr .rdma 0 0x28) + 1) ∧
      (∀ a, a ≠ regAddr .rdma 0 0x138 → a ≠ regAddr .rdma 0 0x28 → sget 0 t.node.cnts a = sget 0 s.node.cnts a) ∧
      (t.node.out = s.node.out ∨ ∃ k, t.node.out = s.node.out ++ [.ibi k]) ∧ t.node.reqs = s.node.reqs ∧
      t.node.shards = s.node.shards) ∧
  (∀ (s : State) (q : Nat) (x : Qp), Live s → qpFind s.node q = some x → x.state = 2 →
    exec (.responseWriteRejected q) s = .next s)

/-- Where a full vector lies. The record of a local id lies where the pseudocode puts it. One of at most 4,096 bytes lies in one 4
KiB unit, records of two local ids do not overlap, the unit read there holds the record at its place, and the bytes of a unit that
no record takes are 0. (R55.) -/
def Obligations.FullVectorPlaces : Prop :=
  (∀ (g : IdxGen) (sh : Shard) (lid : Nat), fullAddr g sh lid =
    (if fullSize (gFullFmt g) (gDim g) ≤ 4096 then
      baseOf sh 6 + (lid / (4096 / fullSize (gFullFmt g) (gDim g))) * 4096 +
        (lid % (4096 / fullSize (gFullFmt g) (gDim g))) * fullSize (gFullFmt g) (gDim g)
    else baseOf sh 6 + lid * ((fullSize (gFullFmt g) (gDim g) + 4095) / 4096) * 4096)) ∧
  (∀ (g : IdxGen) (sh : Shard) (lid k : Nat), baseOf sh 6 % 4096 = 0 → fullSize (gFullFmt g) (gDim g) ≤ 4096 →
    k < fullSize (gFullFmt g) (gDim g) → (fullAddr g sh lid + k) / 4096 = fullAddr g sh lid / 4096) ∧
  (∀ s a b : Nat, 0 < s → a < b → fullOff a s + s ≤ fullOff b s) ∧
  (∀ (n : Node) (o : ObjRange) (g : IdxGen) (sh : Shard), o.what = 7 → genFind n o.key.handle o.key.gen = some g →
      shardFind n o.key = some sh → 0 < gDim g →
      (∀ lid, sget 0 sh.full lid < 2 ^ (8 * fullSize (gFullFmt g) (gDim g))) →
    (∀ lid, objGet n o (fullOff lid (fullSize (gFullFmt g) (gDim g)) / objGroup n o) /
        2 ^ (8 * (fullOff lid (fullSize (gFullFmt g) (gDim g)) % objGroup n o)) % 2 ^ (8 * fullSize (gFullFmt g) (gDim g)) =
      sget 0 sh.full lid) ∧
    (∀ i, objGet n o i < 2 ^ (8 * (if fullSize (gFullFmt g) (gDim g) ≤ 4096 then
        fullSize (gFullFmt g) (gDim g) * (4096 / fullSize (gFullFmt g) (gDim g)) else fullSize (gFullFmt g) (gDim g)))))

/-- How a report enters its block's recorder ring. Every report raises BLK_ERR_CNT, which saturates, and touches no other page.
One below MIN_SEVERITY enters no ring. While no freeze is in effect, one whose CODE, INFO_LO and INFO_HI equal those of the newest
record raises that record's REPEAT and sets its LAST_DELTA, both saturating, with a REC_CRC that fits the new bytes; any other
adds a record with the next SEQ, over the oldest of 128. During a freeze the ring keeps its records. (R350.) -/
def Obligations.RingReports : Prop :=
  (∀ (b : Blk) (i code sev : Nat) (lo hi : Word) (n : Node) (g h : PageSt), g = pageGet n (pageOf b i) →
      h = pageGet (reportSev b i code sev lo hi n) (pageOf b i) → g.ring.length ≤ 128 →
    sget 0 (reportSev b i code sev lo hi n).cnts (pageOf b i * 0x1000 + 0x28) =
      sat32 (sget 0 n.cnts (pageOf b i * 0x1000 + 0x28) + 1) ∧
    (∀ p, p ≠ pageOf b i → pageGet (reportSev b i code sev lo hi n) p = pageGet n p) ∧
    (sev < g.minSev → h.ring = g.ring ∧ h.held = g.held ∧ h.nextSeq = g.nextSeq) ∧
    (g.frozen = true → h.ring = g.ring) ∧
    (g.minSev ≤ sev → g.frozen = false →
      (∀ r, g.ring.getLast? = some r → r.code = code → r.lo = lo → r.hi = hi →
        h.ring = g.ring.dropLast ++ [{ r with rep := sat32 (r.rep + 1), lastDelta := sat32 (n.tick - r.tick) }]) ∧
      ((∀ r, g.ring.getLast? = some r → ¬(r.code = code ∧ r.lo = lo ∧ r.hi = hi)) →
        h.nextSeq = (g.nextSeq + 1) % 65536 ∧
        h.ring = (if g.ring.length = 128 then g.ring.drop 1 else g.ring) ++
          [{ tick := n.tick, code := code, sev := sev, page := pageOf b i, lo := lo, hi := hi, lastDelta := 0, rep := 0,
             seq := g.nextSeq }]))) ∧
  (∀ r : EvRec, (evBytes r).len = 32 ∧ bnum (evBytes r) 0x1E 2 = crc16 (bslice (evBytes r) 0 0x1E))

/-- Each access path has its own latches of _LO and _HI pairs. The access paths are each queue pair of tenant 0, the I3C target
and the service firmware. A _HI read on a path answers the upper half of the value whose lower half the path's last read of the
_LO partner answered, whatever any path has read in between; where the path has not read the partner since reset it answers 0.
Reads of other registers and on other paths leave it. (R377.) -/
def Obligations.LatchPaths : Prop :=
  (∀ (p : Path) (addr : Nat) (k : RegKind) (b : Blk) (i : Nat) (n : Node) (reads : List (Path × Nat)), addr % 4 = 0 →
      addr + 4 < 0x800000 → regKind addr = some k → blkOfPage (addr / 0x1000) = some (b, i) → isLo b (addr % 0x1000) = true →
      isLo b (addr % 0x1000 - 4) = false → addr % 0x1000 + 4 < 0x1000 → (regKind (addr + 4)).isSome = true →
      (∀ r ∈ reads, r.2 < 0x1000000 ∧ r ≠ (p, addr)) →
    (regRead p addr n).1 = w32 (regLive k b i (addr % 0x1000) n).1 ∧
    (regRead p (addr + 4) (reads.foldl (fun m r => (regRead r.1 r.2 m).2) (regRead p addr n).2)).1 =
      w32 ((regLive k b i (addr % 0x1000) n).1 / 2 ^ 32)) ∧
  (∀ (p : Path) (addr : Nat) (b : Blk) (i : Nat) (n : Node) (reads : List (Path × Nat)), 4 ≤ addr % 0x1000 → addr < 0x800000 →
      (regKind addr).isSome = true → blkOfPage (addr / 0x1000) = some (b, i) → isLo b (addr % 0x1000 - 4) = true →
      n.latches = [] → (∀ r ∈ reads, r.2 < 0x1000000 ∧ r ≠ (p, addr - 4)) →
    (regRead p addr (reads.foldl (fun m r => (regRead r.1 r.2 m).2) n)).1 = 0) ∧
  State.reset.node.latches = [] ∧ (∀ (cause straps : Nat) (n : Node), (nodeReset cause straps n).latches = []) ∧
  (∀ (s : State) (p : Path) (addr : BitVec 24) (c : Instr), c = .loRegisterRead p addr ∨ c = .rcRegisterRead p addr →
      addr.toNat % 4 = 0 → (p ≠ .i3c → Live s) →
      (p = .i3c → s.node.boot.inReset = false ∧ i3cReach s.node addr.toNat = true ∧ addr.toNat / 0x1000 < 0x7FE) →
    exec c s = .next { s with
      node := emit (.regValue p addr.toNat (regRead p addr.toNat s.node).1) (regRead p addr.toNat s.node).2 })

/-- The copy of a staged payload and its check. A descriptor with a staged payload whose PAYLOAD_CRC is not the CRC of the bytes
in the staging window breaks a limit no later than word 0x38, and at that word when it would be in order with the right CRC; it is
answered BAD_PARAM with that word's offset and does nothing else. One that passes runs on the bytes as they stood in the window
when it was checked. (R387.) -/
def Obligations.StagedPayload : Prop :=
  (∀ (x : Qp) (o : MgmtOp) (d : Blob) (n : Node), mStaged d = true → mLen d ≠ 0 →
      bword d 0x38 ≠ crc32c (bslice n.staging (mOff d) (mLen d)) →
    (∃ w, mgmtBad x o d n = some w ∧ w ≤ 0x38) ∧
    (64 ≤ d.len → mgmtBad x o (bpatch d 0x38 (bofNat 4 (crc32c (bslice n.staging (mOff d) (mLen d))))) n = none →
      mgmtBad x o d n = some 0x38)) ∧
  (∀ (s : State) (q : Nat) (d : Blob) (x : Qp) (o : MgmtOp) (act : Nat → Blob → Node → Node) (w : Nat), Received s q d x →
      64 ≤ bword d 0x24 → mgmtBad x o d (policed s x) = some w →
    ∃ t r, mgmtRun o act q d s = .next t ∧ r.status = 1 ∧ r.err = w ∧ r.count = 0 ∧ r.cls = 0 ∧
      t.node = { s.node with
        tenants := t.node.tenants, calEntry := t.node.calEntry, qps := t.node.qps,
        out := s.node.out ++
          [.rdmaWriteImm q (bnum d 0x18 8) (bword d 0x20) (respHeader r) (bnum d 0x10 8 % 2 ^ 32)] }) ∧
  (∀ (s : State) (q : Nat) (d : Blob) (x : Qp) (o : MgmtOp) (act : Nat → Blob → Node → Node), MgmtReady s q d x o →
      mStaged d = true → mLen d ≠ 0 →
    crc32c (bslice s.node.staging (mOff d) (mLen d)) = bword d 0x38 ∧
    mgmtRun o act q d s = .next { s with
      node := act s.node.nextReq (bslice s.node.staging (mOff d) (mLen d)) (mgmtEntered s q d x o) })

/-- The numbers of the node journal and the window on it. The REC block gives each copy the next journal sequence, modulo 2^32.
With the copies numbered one by one (which StoresOkKept says every step keeps), JNL_WIN reads the bytes of the copy whose number
is JNL_CURSOR, laid out as a record, and 0 when the journal holds no such copy, which is the case of one overwritten and of one
that does not exist yet. (R395.) -/
def Obligations.JournalWindow : Prop :=
  (∀ (e : EvRec) (n : Node), Numbered n → n.jnl.length ≤ 1048576 → n.jnext < 2 ^ 32 →
    (jnlAdd e n).jnext = (n.jnext + 1) % 2 ^ 32 ∧ Numbered (jnlAdd e n) ∧ (jnlAdd e n).jnl.length = Nat.min 1048576 (n.jnl.length + 1) ∧
    (jnlAdd e n).jnl.getLast? = some { jseq := n.jnext, ev := e }) ∧
  (∀ (p : Path) (n : Node) (j : Nat), Numbered n → n.jnl.length ≤ 1048576 → j < 8 →
    (∀ c ∈ n.jnl, c.jseq = (regStored n (regAddr .recb 0 0x108)).toNat →
      regRead p (regAddr .recb 0 (0x140 + 4 * j)) n = (w32 (bword (bconcat [bofNat 8 c.ev.tick,
        bofNat 4 (c.ev.code % 256 * 2 ^ 24 + c.ev.sev % 4 * 2 ^ 22 + c.ev.page % 4096 * 2 ^ 8), bofNat 4 c.ev.lo.toNat,
        bofNat 4 c.ev.hi.toNat, bofNat 4 c.ev.lastDelta, bofNat 4 c.ev.rep, bofNat 2 c.ev.seq,
        bofNat 2 (crc16 (bslice (evBytes c.ev) 0 0x1E))]) (4 * j)), n)) ∧
    ((∀ c ∈ n.jnl, c.jseq ≠ (regStored n (regAddr .recb 0 0x108)).toNat) →
      regRead p (regAddr .recb 0 (0x140 + 4 * j)) n = (0, n)))

/-- What is stored in a block, an id map entry, a key slot and a delta row reads back. Every field of a level-0 block, an upper-
level block, an id map entry, a key index slot and a delta row, at every value the layout admits, is read back from the stored
bits as it was put in, unused neighbour slots read as none, and a row so made is not bad against its own layout. A delta row holds
at most floor(1006 / ENTRY_BYTES) entries, whose places are within 2^24 of its base. (02_index_objects.md.) -/
def Obligations.StoredFormats : Prop :=
  (∀ (msn top upper : Nat) (repair linked : Bool) (ns : List Nat), msn < 2 ^ 64 → top < 8 → upper < 2 ^ 36 → ns.length ≤ 48 →
      (∀ x ∈ ns, x < 2 ^ 34) →
    blkMsn (blk0Mk msn repair linked top upper ns) = msn ∧ blkUsed (blk0Mk msn repair linked top upper ns) = ns.length ∧
    blkTop (blk0Mk msn repair linked top upper ns) = top ∧ blkUpper (blk0Mk msn repair linked top upper ns) = upper ∧
    blkLinked (blk0Mk msn repair linked top upper ns) = linked ∧ blkRepair (blk0Mk msn repair linked top upper ns) = repair ∧
    blkNbrs (blk0Mk msn repair linked top upper ns) = ns ∧
    (∀ j, ns.length ≤ j → j < 48 → blkSlot (blk0Mk msn repair linked top upper ns) j = lidNone) ∧
    blk0Mk msn repair linked top upper ns < 2 ^ 2048) ∧
  (∀ (msn level owner : Nat) (ns : List Nat), msn < 2 ^ 64 → level < 8 → owner < 2 ^ 34 → ns.length ≤ 48 →
      (∀ x ∈ ns, x < 2 ^ 34) →
    blkMsn (blkUpMk msn level owner ns) = msn ∧ blkTop (blkUpMk msn level owner ns) = level ∧
    blkOwner (blkUpMk msn level owner ns) = owner ∧ blkNbrs (blkUpMk msn level owner ns) = ns ∧
    (∀ j, ns.length ≤ j → j < 48 → blkSlot (blkUpMk msn level owner ns) j = lidNone) ∧ blkUpMk msn level owner ns < 2 ^ 2048) ∧
  (∀ key del lid : Nat, key < 2 ^ 64 → del < 2 ^ 64 → lid < 2 ^ 34 →
    idmapKey (idmapMk key del) = key ∧ idmapDel (idmapMk key del) = del ∧ slotUsed (slotMk key lid) = true ∧
    slotKey (slotMk key lid) = key ∧ slotLid (slotMk key lid) = lid) ∧
  (∀ (shard m base kind : Nat) (es : List DEnt), shard < 2 ^ 16 → m / 2 < 248 → base < 2 ^ 64 → kind ≤ 3 →
      es.length ≤ rowCap (m / 2 + 8) →
      (∀ e ∈ es, e.code < 2 ^ (8 * (m / 2)) ∧ e.lid < 2 ^ 34 ∧ base ≤ e.msn ∧ e.msn < base + 2 ^ 24) →
    rowEnts (rowMk shard m base kind es) = es ∧ rowBase (rowMk shard m base kind es) = base ∧
    rowKind (rowMk shard m base kind es) = kind ∧ rowShard (rowMk shard m base kind es) = shard ∧
    rowCount (rowMk shard m base kind es) = es.length ∧ rowCB (rowMk shard m base kind es) = m / 2 ∧
    rowEB (rowMk shard m base kind es) = m / 2 + 8 ∧ rowBad (rowMk shard m base kind es) shard (m / 2) (m / 2 + 8) = false ∧
    rowMk shard m base kind es < 2 ^ 8192)
end

