-- ==== Sys2Proof/Laws/State.lean ====
section
/-!
SUPPORT. Sys2Proof/Laws/State.lean: for each named update of the node one lemma that gives every field it leaves alone, in the form of
equations that simp takes one by one, and the new value of the field it changes.
-/
namespace Sys2Proof.Machine

/-- `emit` changes `out` alone. -/
@[simp] theorem emit_keeps (o : Out) (n : Node) :
    (emit o n).tick = n.tick ∧ (emit o n).free = n.free ∧ (emit o n).regs = n.regs ∧ (emit o n).cnts = n.cnts ∧
    (emit o n).pages = n.pages ∧ (emit o n).latches = n.latches ∧ (emit o n).jnl = n.jnl ∧ (emit o n).jnext = n.jnext ∧
    (emit o n).mram = n.mram ∧ (emit o n).topState = n.topState ∧ (emit o n).stopCause = n.stopCause ∧
    (emit o n).tenants = n.tenants ∧ (emit o n).tenDenied = n.tenDenied ∧ (emit o n).calEntry = n.calEntry ∧
    (emit o n).qps = n.qps ∧ (emit o n).nextQp = n.nextQp ∧ (emit o n).reqs = n.reqs ∧ (emit o n).nextReq = n.nextReq ∧
    (emit o n).nextTag = n.nextTag ∧ (emit o n).granted = n.granted ∧ (emit o n).lastAck = n.lastAck ∧
    (emit o n).gens = n.gens ∧ (emit o n).idxDedup = n.idxDedup ∧ (emit o n).shards = n.shards ∧
    (emit o n).openRows = n.openRows ∧ (emit o n).openPages = n.openPages ∧ (emit o n).dups = n.dups ∧
    (emit o n).dupLost = n.dupLost ∧ (emit o n).subReqs = n.subReqs ∧ (emit o n).nextSub = n.nextSub ∧
    (emit o n).walkQ = n.walkQ ∧ (emit o n).ctxs = n.ctxs ∧ (emit o n).engs = n.engs ∧ (emit o n).lutPages = n.lutPages ∧
    (emit o n).replaced = n.replaced ∧ (emit o n).saved = n.saved ∧ (emit o n).nextWalk = n.nextWalk ∧
    (emit o n).clvs = n.clvs ∧ (emit o n).batches = n.batches ∧ (emit o n).passes = n.passes ∧
    (emit o n).nextPass = n.nextPass ∧ (emit o n).stks = n.stks ∧ (emit o n).poison = n.poison ∧ (emit o n).nodeId = n.nodeId ∧
    (emit o n).map = n.map ∧ (emit o n).units = n.units ∧ (emit o n).fusedSpare = n.fusedSpare ∧ (emit o n).mmu = n.mmu ∧
    (emit o n).ctxDead = n.ctxDead ∧ (emit o n).shadows = n.shadows ∧ (emit o n).nextWork = n.nextWork ∧
    (emit o n).ftl = n.ftl ∧ (emit o n).links = n.links ∧ (emit o n).lanes = n.lanes ∧ (emit o n).cabling = n.cabling ∧
    (emit o n).quorum = n.quorum ∧ (emit o n).quorumLostAt = n.quorumLostAt ∧ (emit o n).seen = n.seen ∧
    (emit o n).bad = n.bad ∧ (emit o n).fenced = n.fenced ∧ (emit o n).heldMsgs = n.heldMsgs ∧ (emit o n).awaits = n.awaits ∧
    (emit o n).fwds = n.fwds ∧ (emit o n).heldSubs = n.heldSubs ∧ (emit o n).oldMaps = n.oldMaps ∧
    (emit o n).council = n.council ∧ (emit o n).suspicions = n.suspicions ∧ (emit o n).mapHeard = n.mapHeard ∧
    (emit o n).mapTimeouts = n.mapTimeouts ∧ (emit o n).partialTimes = n.partialTimes ∧ (emit o n).slowRuns = n.slowRuns ∧
    (emit o n).loadAt = n.loadAt ∧ (emit o n).progs = n.progs ∧ (emit o n).nextProg = n.nextProg ∧
    (emit o n).encoders = n.encoders ∧ (emit o n).tnsTimes = n.tnsTimes ∧ (emit o n).tabs = n.tabs ∧
    (emit o n).routes = n.routes ∧ (emit o n).mapJobs = n.mapJobs ∧ (emit o n).fuses = n.fuses ∧ (emit o n).nonces = n.nonces ∧
    (emit o n).image = n.image ∧ (emit o n).calFlash = n.calFlash ∧ (emit o n).identity = n.identity ∧
    (emit o n).running = n.running ∧ (emit o n).calSet = n.calSet ∧ (emit o n).attCert = n.attCert ∧
    (emit o n).bootState = n.bootState ∧ (emit o n).recovered = n.recovered ∧ (emit o n).recSource = n.recSource ∧
    (emit o n).recoverNext = n.recoverNext ∧ (emit o n).calInvalid = n.calInvalid ∧ (emit o n).calPending = n.calPending ∧
    (emit o n).ethMode = n.ethMode ∧ (emit o n).ethPorts = n.ethPorts ∧ (emit o n).discWin = n.discWin ∧
    (emit o n).sampleAt = n.sampleAt ∧ (emit o n).pwr = n.pwr ∧ (emit o n).takeovers = n.takeovers ∧
    (emit o n).pwrfail = n.pwrfail ∧ (emit o n).afterFatal = n.afterFatal ∧ (emit o n).requal = n.requal ∧
    (emit o n).sramCor = n.sramCor ∧ (emit o n).sramFixed = n.sramFixed ∧ (emit o n).hsLost = n.hsLost ∧
    (emit o n).boot = n.boot ∧ (emit o n).rcv = n.rcv ∧ (emit o n).parked = n.parked ∧ (emit o n).staging = n.staging ∧
    (emit o n).flashJob = n.flashJob ∧ (emit o n).chunkOps = n.chunkOps ∧ (emit o n).i3c = n.i3c ∧ (emit o n).tap = n.tap ∧
    (emit o n).sched = n.sched := by
  repeat' apply And.intro
  all_goals rfl

/-- `idleTick` changes `tick` alone. -/
@[simp] theorem idleTick_keeps (n : Node) :
    (idleTick n).free = n.free ∧ (idleTick n).out = n.out ∧ (idleTick n).regs = n.regs ∧ (idleTick n).cnts = n.cnts ∧
    (idleTick n).pages = n.pages ∧ (idleTick n).latches = n.latches ∧ (idleTick n).jnl = n.jnl ∧ (idleTick n).jnext = n.jnext ∧
    (idleTick n).mram = n.mram ∧ (idleTick n).topState = n.topState ∧ (idleTick n).stopCause = n.stopCause ∧
    (idleTick n).tenants = n.tenants ∧ (idleTick n).tenDenied = n.tenDenied ∧ (idleTick n).calEntry = n.calEntry ∧
    (idleTick n).qps = n.qps ∧ (idleTick n).nextQp = n.nextQp ∧ (idleTick n).reqs = n.reqs ∧ (idleTick n).nextReq = n.nextReq ∧
    (idleTick n).nextTag = n.nextTag ∧ (idleTick n).granted = n.granted ∧ (idleTick n).lastAck = n.lastAck ∧
    (idleTick n).gens = n.gens ∧ (idleTick n).idxDedup = n.idxDedup ∧ (idleTick n).shards = n.shards ∧
    (idleTick n).openRows = n.openRows ∧ (idleTick n).openPages = n.openPages ∧ (idleTick n).dups = n.dups ∧
    (idleTick n).dupLost = n.dupLost ∧ (idleTick n).subReqs = n.subReqs ∧ (idleTick n).nextSub = n.nextSub ∧
    (idleTick n).walkQ = n.walkQ ∧ (idleTick n).ctxs = n.ctxs ∧ (idleTick n).engs = n.engs ∧
    (idleTick n).lutPages = n.lutPages ∧ (idleTick n).replaced = n.replaced ∧ (idleTick n).saved = n.saved ∧
    (idleTick n).nextWalk = n.nextWalk ∧ (idleTick n).clvs = n.clvs ∧ (idleTick n).batches = n.batches ∧
    (idleTick n).passes = n.passes ∧ (idleTick n).nextPass = n.nextPass ∧ (idleTick n).stks = n.stks ∧
    (idleTick n).poison = n.poison ∧ (idleTick n).nodeId = n.nodeId ∧ (idleTick n).map = n.map ∧ (idleTick n).units = n.units ∧
    (idleTick n).fusedSpare = n.fusedSpare ∧ (idleTick n).mmu = n.mmu ∧ (idleTick n).ctxDead = n.ctxDead ∧
    (idleTick n).shadows = n.shadows ∧ (idleTick n).nextWork = n.nextWork ∧ (idleTick n).ftl = n.ftl ∧
    (idleTick n).links = n.links ∧ (idleTick n).lanes = n.lanes ∧ (idleTick n).cabling = n.cabling ∧
    (idleTick n).quorum = n.quorum ∧ (idleTick n).quorumLostAt = n.quorumLostAt ∧ (idleTick n).seen = n.seen ∧
    (idleTick n).bad = n.bad ∧ (idleTick n).fenced = n.fenced ∧ (idleTick n).heldMsgs = n.heldMsgs ∧
    (idleTick n).awaits = n.awaits ∧ (idleTick n).fwds = n.fwds ∧ (idleTick n).heldSubs = n.heldSubs ∧
    (idleTick n).oldMaps = n.oldMaps ∧ (idleTick n).council = n.council ∧ (idleTick n).suspicions = n.suspicions ∧
    (idleTick n).mapHeard = n.mapHeard ∧ (idleTick n).mapTimeouts = n.mapTimeouts ∧ (idleTick n).partialTimes = n.partialTimes ∧
    (idleTick n).slowRuns = n.slowRuns ∧ (idleTick n).loadAt = n.loadAt ∧ (idleTick n).progs = n.progs ∧
    (idleTick n).nextProg = n.nextProg ∧ (idleTick n).encoders = n.encoders ∧ (idleTick n).tnsTimes = n.tnsTimes ∧
    (idleTick n).tabs = n.tabs ∧ (idleTick n).routes = n.routes ∧ (idleTick n).mapJobs = n.mapJobs ∧
    (idleTick n).fuses = n.fuses ∧ (idleTick n).nonces = n.nonces ∧ (idleTick n).image = n.image ∧
    (idleTick n).calFlash = n.calFlash ∧ (idleTick n).identity = n.identity ∧ (idleTick n).running = n.running ∧
    (idleTick n).calSet = n.calSet ∧ (idleTick n).attCert = n.attCert ∧ (idleTick n).bootState = n.bootState ∧
    (idleTick n).recovered = n.recovered ∧ (idleTick n).recSource = n.recSource ∧ (idleTick n).recoverNext = n.recoverNext ∧
    (idleTick n).calInvalid = n.calInvalid ∧ (idleTick n).calPending = n.calPending ∧ (idleTick n).ethMode = n.ethMode ∧
    (idleTick n).ethPorts = n.ethPorts ∧ (idleTick n).discWin = n.discWin ∧ (idleTick n).sampleAt = n.sampleAt ∧
    (idleTick n).pwr = n.pwr ∧ (idleTick n).takeovers = n.takeovers ∧ (idleTick n).pwrfail = n.pwrfail ∧
    (idleTick n).afterFatal = n.afterFatal ∧ (idleTick n).requal = n.requal ∧ (idleTick n).sramCor = n.sramCor ∧
    (idleTick n).sramFixed = n.sramFixed ∧ (idleTick n).hsLost = n.hsLost ∧ (idleTick n).boot = n.boot ∧
    (idleTick n).rcv = n.rcv ∧ (idleTick n).parked = n.parked ∧ (idleTick n).staging = n.staging ∧
    (idleTick n).flashJob = n.flashJob ∧ (idleTick n).chunkOps = n.chunkOps ∧ (idleTick n).i3c = n.i3c ∧
    (idleTick n).tap = n.tap ∧ (idleTick n).sched = n.sched := by
  repeat' apply And.intro
  all_goals rfl

/-- `reach` changes `tick` alone. -/
@[simp] theorem reach_keeps (t : Nat) (n : Node) :
    (reach t n).free = n.free ∧ (reach t n).out = n.out ∧ (reach t n).regs = n.regs ∧ (reach t n).cnts = n.cnts ∧
    (reach t n).pages = n.pages ∧ (reach t n).latches = n.latches ∧ (reach t n).jnl = n.jnl ∧ (reach t n).jnext = n.jnext ∧
    (reach t n).mram = n.mram ∧ (reach t n).topState = n.topState ∧ (reach t n).stopCause = n.stopCause ∧
    (reach t n).tenants = n.tenants ∧ (reach t n).tenDenied = n.tenDenied ∧ (reach t n).calEntry = n.calEntry ∧
    (reach t n).qps = n.qps ∧ (reach t n).nextQp = n.nextQp ∧ (reach t n).reqs = n.reqs ∧ (reach t n).nextReq = n.nextReq ∧
    (reach t n).nextTag = n.nextTag ∧ (reach t n).granted = n.granted ∧ (reach t n).lastAck = n.lastAck ∧
    (reach t n).gens = n.gens ∧ (reach t n).idxDedup = n.idxDedup ∧ (reach t n).shards = n.shards ∧
    (reach t n).openRows = n.openRows ∧ (reach t n).openPages = n.openPages ∧ (reach t n).dups = n.dups ∧
    (reach t n).dupLost = n.dupLost ∧ (reach t n).subReqs = n.subReqs ∧ (reach t n).nextSub = n.nextSub ∧
    (reach t n).walkQ = n.walkQ ∧ (reach t n).ctxs = n.ctxs ∧ (reach t n).engs = n.engs ∧ (reach t n).lutPages = n.lutPages ∧
    (reach t n).replaced = n.replaced ∧ (reach t n).saved = n.saved ∧ (reach t n).nextWalk = n.nextWalk ∧
    (reach t n).clvs = n.clvs ∧ (reach t n).batches = n.batches ∧ (reach t n).passes = n.passes ∧
    (reach t n).nextPass = n.nextPass ∧ (reach t n).stks = n.stks ∧ (reach t n).poison = n.poison ∧
    (reach t n).nodeId = n.nodeId ∧ (reach t n).map = n.map ∧ (reach t n).units = n.units ∧
    (reach t n).fusedSpare = n.fusedSpare ∧ (reach t n).mmu = n.mmu ∧ (reach t n).ctxDead = n.ctxDead ∧
    (reach t n).shadows = n.shadows ∧ (reach t n).nextWork = n.nextWork ∧ (reach t n).ftl = n.ftl ∧
    (reach t n).links = n.links ∧ (reach t n).lanes = n.lanes ∧ (reach t n).cabling = n.cabling ∧
    (reach t n).quorum = n.quorum ∧ (reach t n).quorumLostAt = n.quorumLostAt ∧ (reach t n).seen = n.seen ∧
    (reach t n).bad = n.bad ∧ (reach t n).fenced = n.fenced ∧ (reach t n).heldMsgs = n.heldMsgs ∧
    (reach t n).awaits = n.awaits ∧ (reach t n).fwds = n.fwds ∧ (reach t n).heldSubs = n.heldSubs ∧
    (reach t n).oldMaps = n.oldMaps ∧ (reach t n).council = n.council ∧ (reach t n).suspicions = n.suspicions ∧
    (reach t n).mapHeard = n.mapHeard ∧ (reach t n).mapTimeouts = n.mapTimeouts ∧ (reach t n).partialTimes = n.partialTimes ∧
    (reach t n).slowRuns = n.slowRuns ∧ (reach t n).loadAt = n.loadAt ∧ (reach t n).progs = n.progs ∧
    (reach t n).nextProg = n.nextProg ∧ (reach t n).encoders = n.encoders ∧ (reach t n).tnsTimes = n.tnsTimes ∧
    (reach t n).tabs = n.tabs ∧ (reach t n).routes = n.routes ∧ (reach t n).mapJobs = n.mapJobs ∧ (reach t n).fuses = n.fuses ∧
    (reach t n).nonces = n.nonces ∧ (reach t n).image = n.image ∧ (reach t n).calFlash = n.calFlash ∧
    (reach t n).identity = n.identity ∧ (reach t n).running = n.running ∧ (reach t n).calSet = n.calSet ∧
    (reach t n).attCert = n.attCert ∧ (reach t n).bootState = n.bootState ∧ (reach t n).recovered = n.recovered ∧
    (reach t n).recSource = n.recSource ∧ (reach t n).recoverNext = n.recoverNext ∧ (reach t n).calInvalid = n.calInvalid ∧
    (reach t n).calPending = n.calPending ∧ (reach t n).ethMode = n.ethMode ∧ (reach t n).ethPorts = n.ethPorts ∧
    (reach t n).discWin = n.discWin ∧ (reach t n).sampleAt = n.sampleAt ∧ (reach t n).pwr = n.pwr ∧
    (reach t n).takeovers = n.takeovers ∧ (reach t n).pwrfail = n.pwrfail ∧ (reach t n).afterFatal = n.afterFatal ∧
    (reach t n).requal = n.requal ∧ (reach t n).sramCor = n.sramCor ∧ (reach t n).sramFixed = n.sramFixed ∧
    (reach t n).hsLost = n.hsLost ∧ (reach t n).boot = n.boot ∧ (reach t n).rcv = n.rcv ∧ (reach t n).parked = n.parked ∧
    (reach t n).staging = n.staging ∧ (reach t n).flashJob = n.flashJob ∧ (reach t n).chunkOps = n.chunkOps ∧
    (reach t n).i3c = n.i3c ∧ (reach t n).tap = n.tap ∧ (reach t n).sched = n.sched := by
  unfold reach; (try dsimp only); split <;> (repeat' apply And.intro) <;> rfl

/-- `fresh` changes `free` alone. -/
@[simp] theorem fresh_keeps (n : Node) :
    (fresh n).2.tick = n.tick ∧ (fresh n).2.out = n.out ∧ (fresh n).2.regs = n.regs ∧ (fresh n).2.cnts = n.cnts ∧
    (fresh n).2.pages = n.pages ∧ (fresh n).2.latches = n.latches ∧ (fresh n).2.jnl = n.jnl ∧ (fresh n).2.jnext = n.jnext ∧
    (fresh n).2.mram = n.mram ∧ (fresh n).2.topState = n.topState ∧ (fresh n).2.stopCause = n.stopCause ∧
    (fresh n).2.tenants = n.tenants ∧ (fresh n).2.tenDenied = n.tenDenied ∧ (fresh n).2.calEntry = n.calEntry ∧
    (fresh n).2.qps = n.qps ∧ (fresh n).2.nextQp = n.nextQp ∧ (fresh n).2.reqs = n.reqs ∧ (fresh n).2.nextReq = n.nextReq ∧
    (fresh n).2.nextTag = n.nextTag ∧ (fresh n).2.granted = n.granted ∧ (fresh n).2.lastAck = n.lastAck ∧
    (fresh n).2.gens = n.gens ∧ (fresh n).2.idxDedup = n.idxDedup ∧ (fresh n).2.shards = n.shards ∧
    (fresh n).2.openRows = n.openRows ∧ (fresh n).2.openPages = n.openPages ∧ (fresh n).2.dups = n.dups ∧
    (fresh n).2.dupLost = n.dupLost ∧ (fresh n).2.subReqs = n.subReqs ∧ (fresh n).2.nextSub = n.nextSub ∧
    (fresh n).2.walkQ = n.walkQ ∧ (fresh n).2.ctxs = n.ctxs ∧ (fresh n).2.engs = n.engs ∧ (fresh n).2.lutPages = n.lutPages ∧
    (fresh n).2.replaced = n.replaced ∧ (fresh n).2.saved = n.saved ∧ (fresh n).2.nextWalk = n.nextWalk ∧
    (fresh n).2.clvs = n.clvs ∧ (fresh n).2.batches = n.batches ∧ (fresh n).2.passes = n.passes ∧
    (fresh n).2.nextPass = n.nextPass ∧ (fresh n).2.stks = n.stks ∧ (fresh n).2.poison = n.poison ∧
    (fresh n).2.nodeId = n.nodeId ∧ (fresh n).2.map = n.map ∧ (fresh n).2.units = n.units ∧
    (fresh n).2.fusedSpare = n.fusedSpare ∧ (fresh n).2.mmu = n.mmu ∧ (fresh n).2.ctxDead = n.ctxDead ∧
    (fresh n).2.shadows = n.shadows ∧ (fresh n).2.nextWork = n.nextWork ∧ (fresh n).2.ftl = n.ftl ∧
    (fresh n).2.links = n.links ∧ (fresh n).2.lanes = n.lanes ∧ (fresh n).2.cabling = n.cabling ∧
    (fresh n).2.quorum = n.quorum ∧ (fresh n).2.quorumLostAt = n.quorumLostAt ∧ (fresh n).2.seen = n.seen ∧
    (fresh n).2.bad = n.bad ∧ (fresh n).2.fenced = n.fenced ∧ (fresh n).2.heldMsgs = n.heldMsgs ∧
    (fresh n).2.awaits = n.awaits ∧ (fresh n).2.fwds = n.fwds ∧ (fresh n).2.heldSubs = n.heldSubs ∧
    (fresh n).2.oldMaps = n.oldMaps ∧ (fresh n).2.council = n.council ∧ (fresh n).2.suspicions = n.suspicions ∧
    (fresh n).2.mapHeard = n.mapHeard ∧ (fresh n).2.mapTimeouts = n.mapTimeouts ∧ (fresh n).2.partialTimes = n.partialTimes ∧
    (fresh n).2.slowRuns = n.slowRuns ∧ (fresh n).2.loadAt = n.loadAt ∧ (fresh n).2.progs = n.progs ∧
    (fresh n).2.nextProg = n.nextProg ∧ (fresh n).2.encoders = n.encoders ∧ (fresh n).2.tnsTimes = n.tnsTimes ∧
    (fresh n).2.tabs = n.tabs ∧ (fresh n).2.routes = n.routes ∧ (fresh n).2.mapJobs = n.mapJobs ∧ (fresh n).2.fuses = n.fuses ∧
    (fresh n).2.nonces = n.nonces ∧ (fresh n).2.image = n.image ∧ (fresh n).2.calFlash = n.calFlash ∧
    (fresh n).2.identity = n.identity ∧ (fresh n).2.running = n.running ∧ (fresh n).2.calSet = n.calSet ∧
    (fresh n).2.attCert = n.attCert ∧ (fresh n).2.bootState = n.bootState ∧ (fresh n).2.recovered = n.recovered ∧
    (fresh n).2.recSource = n.recSource ∧ (fresh n).2.recoverNext = n.recoverNext ∧ (fresh n).2.calInvalid = n.calInvalid ∧
    (fresh n).2.calPending = n.calPending ∧ (fresh n).2.ethMode = n.ethMode ∧ (fresh n).2.ethPorts = n.ethPorts ∧
    (fresh n).2.discWin = n.discWin ∧ (fresh n).2.sampleAt = n.sampleAt ∧ (fresh n).2.pwr = n.pwr ∧
    (fresh n).2.takeovers = n.takeovers ∧ (fresh n).2.pwrfail = n.pwrfail ∧ (fresh n).2.afterFatal = n.afterFatal ∧
    (fresh n).2.requal = n.requal ∧ (fresh n).2.sramCor = n.sramCor ∧ (fresh n).2.sramFixed = n.sramFixed ∧
    (fresh n).2.hsLost = n.hsLost ∧ (fresh n).2.boot = n.boot ∧ (fresh n).2.rcv = n.rcv ∧ (fresh n).2.parked = n.parked ∧
    (fresh n).2.staging = n.staging ∧ (fresh n).2.flashJob = n.flashJob ∧ (fresh n).2.chunkOps = n.chunkOps ∧
    (fresh n).2.i3c = n.i3c ∧ (fresh n).2.tap = n.tap ∧ (fresh n).2.sched = n.sched := by
  repeat' apply And.intro
  all_goals rfl

/-- `bump` changes `cnts` alone. -/
@[simp] theorem bump_keeps (a k : Nat) (n : Node) :
    (bump a k n).tick = n.tick ∧ (bump a k n).free = n.free ∧ (bump a k n).out = n.out ∧ (bump a k n).regs = n.regs ∧
    (bump a k n).pages = n.pages ∧ (bump a k n).latches = n.latches ∧ (bump a k n).jnl = n.jnl ∧ (bump a k n).jnext = n.jnext ∧
    (bump a k n).mram = n.mram ∧ (bump a k n).topState = n.topState ∧ (bump a k n).stopCause = n.stopCause ∧
    (bump a k n).tenants = n.tenants ∧ (bump a k n).tenDenied = n.tenDenied ∧ (bump a k n).calEntry = n.calEntry ∧
    (bump a k n).qps = n.qps ∧ (bump a k n).nextQp = n.nextQp ∧ (bump a k n).reqs = n.reqs ∧ (bump a k n).nextReq = n.nextReq ∧
    (bump a k n).nextTag = n.nextTag ∧ (bump a k n).granted = n.granted ∧ (bump a k n).lastAck = n.lastAck ∧
    (bump a k n).gens = n.gens ∧ (bump a k n).idxDedup = n.idxDedup ∧ (bump a k n).shards = n.shards ∧
    (bump a k n).openRows = n.openRows ∧ (bump a k n).openPages = n.openPages ∧ (bump a k n).dups = n.dups ∧
    (bump a k n).dupLost = n.dupLost ∧ (bump a k n).subReqs = n.subReqs ∧ (bump a k n).nextSub = n.nextSub ∧
    (bump a k n).walkQ = n.walkQ ∧ (bump a k n).ctxs = n.ctxs ∧ (bump a k n).engs = n.engs ∧
    (bump a k n).lutPages = n.lutPages ∧ (bump a k n).replaced = n.replaced ∧ (bump a k n).saved = n.saved ∧
    (bump a k n).nextWalk = n.nextWalk ∧ (bump a k n).clvs = n.clvs ∧ (bump a k n).batches = n.batches ∧
    (bump a k n).passes = n.passes ∧ (bump a k n).nextPass = n.nextPass ∧ (bump a k n).stks = n.stks ∧
    (bump a k n).poison = n.poison ∧ (bump a k n).nodeId = n.nodeId ∧ (bump a k n).map = n.map ∧ (bump a k n).units = n.units ∧
    (bump a k n).fusedSpare = n.fusedSpare ∧ (bump a k n).mmu = n.mmu ∧ (bump a k n).ctxDead = n.ctxDead ∧
    (bump a k n).shadows = n.shadows ∧ (bump a k n).nextWork = n.nextWork ∧ (bump a k n).ftl = n.ftl ∧
    (bump a k n).links = n.links ∧ (bump a k n).lanes = n.lanes ∧ (bump a k n).cabling = n.cabling ∧
    (bump a k n).quorum = n.quorum ∧ (bump a k n).quorumLostAt = n.quorumLostAt ∧ (bump a k n).seen = n.seen ∧
    (bump a k n).bad = n.bad ∧ (bump a k n).fenced = n.fenced ∧ (bump a k n).heldMsgs = n.heldMsgs ∧
    (bump a k n).awaits = n.awaits ∧ (bump a k n).fwds = n.fwds ∧ (bump a k n).heldSubs = n.heldSubs ∧
    (bump a k n).oldMaps = n.oldMaps ∧ (bump a k n).council = n.council ∧ (bump a k n).suspicions = n.suspicions ∧
    (bump a k n).mapHeard = n.mapHeard ∧ (bump a k n).mapTimeouts = n.mapTimeouts ∧ (bump a k n).partialTimes = n.partialTimes ∧
    (bump a k n).slowRuns = n.slowRuns ∧ (bump a k n).loadAt = n.loadAt ∧ (bump a k n).progs = n.progs ∧
    (bump a k n).nextProg = n.nextProg ∧ (bump a k n).encoders = n.encoders ∧ (bump a k n).tnsTimes = n.tnsTimes ∧
    (bump a k n).tabs = n.tabs ∧ (bump a k n).routes = n.routes ∧ (bump a k n).mapJobs = n.mapJobs ∧
    (bump a k n).fuses = n.fuses ∧ (bump a k n).nonces = n.nonces ∧ (bump a k n).image = n.image ∧
    (bump a k n).calFlash = n.calFlash ∧ (bump a k n).identity = n.identity ∧ (bump a k n).running = n.running ∧
    (bump a k n).calSet = n.calSet ∧ (bump a k n).attCert = n.attCert ∧ (bump a k n).bootState = n.bootState ∧
    (bump a k n).recovered = n.recovered ∧ (bump a k n).recSource = n.recSource ∧ (bump a k n).recoverNext = n.recoverNext ∧
    (bump a k n).calInvalid = n.calInvalid ∧ (bump a k n).calPending = n.calPending ∧ (bump a k n).ethMode = n.ethMode ∧
    (bump a k n).ethPorts = n.ethPorts ∧ (bump a k n).discWin = n.discWin ∧ (bump a k n).sampleAt = n.sampleAt ∧
    (bump a k n).pwr = n.pwr ∧ (bump a k n).takeovers = n.takeovers ∧ (bump a k n).pwrfail = n.pwrfail ∧
    (bump a k n).afterFatal = n.afterFatal ∧ (bump a k n).requal = n.requal ∧ (bump a k n).sramCor = n.sramCor ∧
    (bump a k n).sramFixed = n.sramFixed ∧ (bump a k n).hsLost = n.hsLost ∧ (bump a k n).boot = n.boot ∧
    (bump a k n).rcv = n.rcv ∧ (bump a k n).parked = n.parked ∧ (bump a k n).staging = n.staging ∧
    (bump a k n).flashJob = n.flashJob ∧ (bump a k n).chunkOps = n.chunkOps ∧ (bump a k n).i3c = n.i3c ∧
    (bump a k n).tap = n.tap ∧ (bump a k n).sched = n.sched := by
  repeat' apply And.intro
  all_goals rfl

/-- `cntMax` changes `cnts` alone. -/
@[simp] theorem cntMax_keeps (a k : Nat) (n : Node) :
    (cntMax a k n).tick = n.tick ∧ (cntMax a k n).free = n.free ∧ (cntMax a k n).out = n.out ∧ (cntMax a k n).regs = n.regs ∧
    (cntMax a k n).pages = n.pages ∧ (cntMax a k n).latches = n.latches ∧ (cntMax a k n).jnl = n.jnl ∧
    (cntMax a k n).jnext = n.jnext ∧ (cntMax a k n).mram = n.mram ∧ (cntMax a k n).topState = n.topState ∧
    (cntMax a k n).stopCause = n.stopCause ∧ (cntMax a k n).tenants = n.tenants ∧ (cntMax a k n).tenDenied = n.tenDenied ∧
    (cntMax a k n).calEntry = n.calEntry ∧ (cntMax a k n).qps = n.qps ∧ (cntMax a k n).nextQp = n.nextQp ∧
    (cntMax a k n).reqs = n.reqs ∧ (cntMax a k n).nextReq = n.nextReq ∧ (cntMax a k n).nextTag = n.nextTag ∧
    (cntMax a k n).granted = n.granted ∧ (cntMax a k n).lastAck = n.lastAck ∧ (cntMax a k n).gens = n.gens ∧
    (cntMax a k n).idxDedup = n.idxDedup ∧ (cntMax a k n).shards = n.shards ∧ (cntMax a k n).openRows = n.openRows ∧
    (cntMax a k n).openPages = n.openPages ∧ (cntMax a k n).dups = n.dups ∧ (cntMax a k n).dupLost = n.dupLost ∧
    (cntMax a k n).subReqs = n.subReqs ∧ (cntMax a k n).nextSub = n.nextSub ∧ (cntMax a k n).walkQ = n.walkQ ∧
    (cntMax a k n).ctxs = n.ctxs ∧ (cntMax a k n).engs = n.engs ∧ (cntMax a k n).lutPages = n.lutPages ∧
    (cntMax a k n).replaced = n.replaced ∧ (cntMax a k n).saved = n.saved ∧ (cntMax a k n).nextWalk = n.nextWalk ∧
    (cntMax a k n).clvs = n.clvs ∧ (cntMax a k n).batches = n.batches ∧ (cntMax a k n).passes = n.passes ∧
    (cntMax a k n).nextPass = n.nextPass ∧ (cntMax a k n).stks = n.stks ∧ (cntMax a k n).poison = n.poison ∧
    (cntMax a k n).nodeId = n.nodeId ∧ (cntMax a k n).map = n.map ∧ (cntMax a k n).units = n.units ∧
    (cntMax a k n).fusedSpare = n.fusedSpare ∧ (cntMax a k n).mmu = n.mmu ∧ (cntMax a k n).ctxDead = n.ctxDead ∧
    (cntMax a k n).shadows = n.shadows ∧ (cntMax a k n).nextWork = n.nextWork ∧ (cntMax a k n).ftl = n.ftl ∧
    (cntMax a k n).links = n.links ∧ (cntMax a k n).lanes = n.lanes ∧ (cntMax a k n).cabling = n.cabling ∧
    (cntMax a k n).quorum = n.quorum ∧ (cntMax a k n).quorumLostAt = n.quorumLostAt ∧ (cntMax a k n).seen = n.seen ∧
    (cntMax a k n).bad = n.bad ∧ (cntMax a k n).fenced = n.fenced ∧ (cntMax a k n).heldMsgs = n.heldMsgs ∧
    (cntMax a k n).awaits = n.awaits ∧ (cntMax a k n).fwds = n.fwds ∧ (cntMax a k n).heldSubs = n.heldSubs ∧
    (cntMax a k n).oldMaps = n.oldMaps ∧ (cntMax a k n).council = n.council ∧ (cntMax a k n).suspicions = n.suspicions ∧
    (cntMax a k n).mapHeard = n.mapHeard ∧ (cntMax a k n).mapTimeouts = n.mapTimeouts ∧
    (cntMax a k n).partialTimes = n.partialTimes ∧ (cntMax a k n).slowRuns = n.slowRuns ∧ (cntMax a k n).loadAt = n.loadAt ∧
    (cntMax a k n).progs = n.progs ∧ (cntMax a k n).nextProg = n.nextProg ∧ (cntMax a k n).encoders = n.encoders ∧
    (cntMax a k n).tnsTimes = n.tnsTimes ∧ (cntMax a k n).tabs = n.tabs ∧ (cntMax a k n).routes = n.routes ∧
    (cntMax a k n).mapJobs = n.mapJobs ∧ (cntMax a k n).fuses = n.fuses ∧ (cntMax a k n).nonces = n.nonces ∧
    (cntMax a k n).image = n.image ∧ (cntMax a k n).calFlash = n.calFlash ∧ (cntMax a k n).identity = n.identity ∧
    (cntMax a k n).running = n.running ∧ (cntMax a k n).calSet = n.calSet ∧ (cntMax a k n).attCert = n.attCert ∧
    (cntMax a k n).bootState = n.bootState ∧ (cntMax a k n).recovered = n.recovered ∧ (cntMax a k n).recSource = n.recSource ∧
    (cntMax a k n).recoverNext = n.recoverNext ∧ (cntMax a k n).calInvalid = n.calInvalid ∧
    (cntMax a k n).calPending = n.calPending ∧ (cntMax a k n).ethMode = n.ethMode ∧ (cntMax a k n).ethPorts = n.ethPorts ∧
    (cntMax a k n).discWin = n.discWin ∧ (cntMax a k n).sampleAt = n.sampleAt ∧ (cntMax a k n).pwr = n.pwr ∧
    (cntMax a k n).takeovers = n.takeovers ∧ (cntMax a k n).pwrfail = n.pwrfail ∧ (cntMax a k n).afterFatal = n.afterFatal ∧
    (cntMax a k n).requal = n.requal ∧ (cntMax a k n).sramCor = n.sramCor ∧ (cntMax a k n).sramFixed = n.sramFixed ∧
    (cntMax a k n).hsLost = n.hsLost ∧ (cntMax a k n).boot = n.boot ∧ (cntMax a k n).rcv = n.rcv ∧
    (cntMax a k n).parked = n.parked ∧ (cntMax a k n).staging = n.staging ∧ (cntMax a k n).flashJob = n.flashJob ∧
    (cntMax a k n).chunkOps = n.chunkOps ∧ (cntMax a k n).i3c = n.i3c ∧ (cntMax a k n).tap = n.tap ∧
    (cntMax a k n).sched = n.sched := by
  repeat' apply And.intro
  all_goals rfl

/-- `regPut` changes `regs` alone. -/
@[simp] theorem regPut_keeps (a : Nat) (v : Word) (n : Node) :
    (regPut a v n).tick = n.tick ∧ (regPut a v n).free = n.free ∧ (regPut a v n).out = n.out ∧ (regPut a v n).cnts = n.cnts ∧
    (regPut a v n).pages = n.pages ∧ (regPut a v n).latches = n.latches ∧ (regPut a v n).jnl = n.jnl ∧
    (regPut a v n).jnext = n.jnext ∧ (regPut a v n).mram = n.mram ∧ (regPut a v n).topState = n.topState ∧
    (regPut a v n).stopCause = n.stopCause ∧ (regPut a v n).tenants = n.tenants ∧ (regPut a v n).tenDenied = n.tenDenied ∧
    (regPut a v n).calEntry = n.calEntry ∧ (regPut a v n).qps = n.qps ∧ (regPut a v n).nextQp = n.nextQp ∧
    (regPut a v n).reqs = n.reqs ∧ (regPut a v n).nextReq = n.nextReq ∧ (regPut a v n).nextTag = n.nextTag ∧
    (regPut a v n).granted = n.granted ∧ (regPut a v n).lastAck = n.lastAck ∧ (regPut a v n).gens = n.gens ∧
    (regPut a v n).idxDedup = n.idxDedup ∧ (regPut a v n).shards = n.shards ∧ (regPut a v n).openRows = n.openRows ∧
    (regPut a v n).openPages = n.openPages ∧ (regPut a v n).dups = n.dups ∧ (regPut a v n).dupLost = n.dupLost ∧
    (regPut a v n).subReqs = n.subReqs ∧ (regPut a v n).nextSub = n.nextSub ∧ (regPut a v n).walkQ = n.walkQ ∧
    (regPut a v n).ctxs = n.ctxs ∧ (regPut a v n).engs = n.engs ∧ (regPut a v n).lutPages = n.lutPages ∧
    (regPut a v n).replaced = n.replaced ∧ (regPut a v n).saved = n.saved ∧ (regPut a v n).nextWalk = n.nextWalk ∧
    (regPut a v n).clvs = n.clvs ∧ (regPut a v n).batches = n.batches ∧ (regPut a v n).passes = n.passes ∧
    (regPut a v n).nextPass = n.nextPass ∧ (regPut a v n).stks = n.stks ∧ (regPut a v n).poison = n.poison ∧
    (regPut a v n).nodeId = n.nodeId ∧ (regPut a v n).map = n.map ∧ (regPut a v n).units = n.units ∧
    (regPut a v n).fusedSpare = n.fusedSpare ∧ (regPut a v n).mmu = n.mmu ∧ (regPut a v n).ctxDead = n.ctxDead ∧
    (regPut a v n).shadows = n.shadows ∧ (regPut a v n).nextWork = n.nextWork ∧ (regPut a v n).ftl = n.ftl ∧
    (regPut a v n).links = n.links ∧ (regPut a v n).lanes = n.lanes ∧ (regPut a v n).cabling = n.cabling ∧
    (regPut a v n).quorum = n.quorum ∧ (regPut a v n).quorumLostAt = n.quorumLostAt ∧ (regPut a v n).seen = n.seen ∧
    (regPut a v n).bad = n.bad ∧ (regPut a v n).fenced = n.fenced ∧ (regPut a v n).heldMsgs = n.heldMsgs ∧
    (regPut a v n).awaits = n.awaits ∧ (regPut a v n).fwds = n.fwds ∧ (regPut a v n).heldSubs = n.heldSubs ∧
    (regPut a v n).oldMaps = n.oldMaps ∧ (regPut a v n).council = n.council ∧ (regPut a v n).suspicions = n.suspicions ∧
    (regPut a v n).mapHeard = n.mapHeard ∧ (regPut a v n).mapTimeouts = n.mapTimeouts ∧
    (regPut a v n).partialTimes = n.partialTimes ∧ (regPut a v n).slowRuns = n.slowRuns ∧ (regPut a v n).loadAt = n.loadAt ∧
    (regPut a v n).progs = n.progs ∧ (regPut a v n).nextProg = n.nextProg ∧ (regPut a v n).encoders = n.encoders ∧
    (regPut a v n).tnsTimes = n.tnsTimes ∧ (regPut a v n).tabs = n.tabs ∧ (regPut a v n).routes = n.routes ∧
    (regPut a v n).mapJobs = n.mapJobs ∧ (regPut a v n).fuses = n.fuses ∧ (regPut a v n).nonces = n.nonces ∧
    (regPut a v n).image = n.image ∧ (regPut a v n).calFlash = n.calFlash ∧ (regPut a v n).identity = n.identity ∧
    (regPut a v n).running = n.running ∧ (regPut a v n).calSet = n.calSet ∧ (regPut a v n).attCert = n.attCert ∧
    (regPut a v n).bootState = n.bootState ∧ (regPut a v n).recovered = n.recovered ∧ (regPut a v n).recSource = n.recSource ∧
    (regPut a v n).recoverNext = n.recoverNext ∧ (regPut a v n).calInvalid = n.calInvalid ∧
    (regPut a v n).calPending = n.calPending ∧ (regPut a v n).ethMode = n.ethMode ∧ (regPut a v n).ethPorts = n.ethPorts ∧
    (regPut a v n).discWin = n.discWin ∧ (regPut a v n).sampleAt = n.sampleAt ∧ (regPut a v n).pwr = n.pwr ∧
    (regPut a v n).takeovers = n.takeovers ∧ (regPut a v n).pwrfail = n.pwrfail ∧ (regPut a v n).afterFatal = n.afterFatal ∧
    (regPut a v n).requal = n.requal ∧ (regPut a v n).sramCor = n.sramCor ∧ (regPut a v n).sramFixed = n.sramFixed ∧
    (regPut a v n).hsLost = n.hsLost ∧ (regPut a v n).boot = n.boot ∧ (regPut a v n).rcv = n.rcv ∧
    (regPut a v n).parked = n.parked ∧ (regPut a v n).staging = n.staging ∧ (regPut a v n).flashJob = n.flashJob ∧
    (regPut a v n).chunkOps = n.chunkOps ∧ (regPut a v n).i3c = n.i3c ∧ (regPut a v n).tap = n.tap ∧
    (regPut a v n).sched = n.sched := by
  repeat' apply And.intro
  all_goals rfl

/-- `pageSet` changes `pages` alone. -/
@[simp] theorem pageSet_keeps (p : Nat) (v : PageSt) (n : Node) :
    (pageSet p v n).tick = n.tick ∧ (pageSet p v n).free = n.free ∧ (pageSet p v n).out = n.out ∧
    (pageSet p v n).regs = n.regs ∧ (pageSet p v n).cnts = n.cnts ∧ (pageSet p v n).latches = n.latches ∧
    (pageSet p v n).jnl = n.jnl ∧ (pageSet p v n).jnext = n.jnext ∧ (pageSet p v n).mram = n.mram ∧
    (pageSet p v n).topState = n.topState ∧ (pageSet p v n).stopCause = n.stopCause ∧ (pageSet p v n).tenants = n.tenants ∧
    (pageSet p v n).tenDenied = n.tenDenied ∧ (pageSet p v n).calEntry = n.calEntry ∧ (pageSet p v n).qps = n.qps ∧
    (pageSet p v n).nextQp = n.nextQp ∧ (pageSet p v n).reqs = n.reqs ∧ (pageSet p v n).nextReq = n.nextReq ∧
    (pageSet p v n).nextTag = n.nextTag ∧ (pageSet p v n).granted = n.granted ∧ (pageSet p v n).lastAck = n.lastAck ∧
    (pageSet p v n).gens = n.gens ∧ (pageSet p v n).idxDedup = n.idxDedup ∧ (pageSet p v n).shards = n.shards ∧
    (pageSet p v n).openRows = n.openRows ∧ (pageSet p v n).openPages = n.openPages ∧ (pageSet p v n).dups = n.dups ∧
    (pageSet p v n).dupLost = n.dupLost ∧ (pageSet p v n).subReqs = n.subReqs ∧ (pageSet p v n).nextSub = n.nextSub ∧
    (pageSet p v n).walkQ = n.walkQ ∧ (pageSet p v n).ctxs = n.ctxs ∧ (pageSet p v n).engs = n.engs ∧
    (pageSet p v n).lutPages = n.lutPages ∧ (pageSet p v n).replaced = n.replaced ∧ (pageSet p v n).saved = n.saved ∧
    (pageSet p v n).nextWalk = n.nextWalk ∧ (pageSet p v n).clvs = n.clvs ∧ (pageSet p v n).batches = n.batches ∧
    (pageSet p v n).passes = n.passes ∧ (pageSet p v n).nextPass = n.nextPass ∧ (pageSet p v n).stks = n.stks ∧
    (pageSet p v n).poison = n.poison ∧ (pageSet p v n).nodeId = n.nodeId ∧ (pageSet p v n).map = n.map ∧
    (pageSet p v n).units = n.units ∧ (pageSet p v n).fusedSpare = n.fusedSpare ∧ (pageSet p v n).mmu = n.mmu ∧
    (pageSet p v n).ctxDead = n.ctxDead ∧ (pageSet p v n).shadows = n.shadows ∧ (pageSet p v n).nextWork = n.nextWork ∧
    (pageSet p v n).ftl = n.ftl ∧ (pageSet p v n).links = n.links ∧ (pageSet p v n).lanes = n.lanes ∧
    (pageSet p v n).cabling = n.cabling ∧ (pageSet p v n).quorum = n.quorum ∧ (pageSet p v n).quorumLostAt = n.quorumLostAt ∧
    (pageSet p v n).seen = n.seen ∧ (pageSet p v n).bad = n.bad ∧ (pageSet p v n).fenced = n.fenced ∧
    (pageSet p v n).heldMsgs = n.heldMsgs ∧ (pageSet p v n).awaits = n.awaits ∧ (pageSet p v n).fwds = n.fwds ∧
    (pageSet p v n).heldSubs = n.heldSubs ∧ (pageSet p v n).oldMaps = n.oldMaps ∧ (pageSet p v n).council = n.council ∧
    (pageSet p v n).suspicions = n.suspicions ∧ (pageSet p v n).mapHeard = n.mapHeard ∧
    (pageSet p v n).mapTimeouts = n.mapTimeouts ∧ (pageSet p v n).partialTimes = n.partialTimes ∧
    (pageSet p v n).slowRuns = n.slowRuns ∧ (pageSet p v n).loadAt = n.loadAt ∧ (pageSet p v n).progs = n.progs ∧
    (pageSet p v n).nextProg = n.nextProg ∧ (pageSet p v n).encoders = n.encoders ∧ (pageSet p v n).tnsTimes = n.tnsTimes ∧
    (pageSet p v n).tabs = n.tabs ∧ (pageSet p v n).routes = n.routes ∧ (pageSet p v n).mapJobs = n.mapJobs ∧
    (pageSet p v n).fuses = n.fuses ∧ (pageSet p v n).nonces = n.nonces ∧ (pageSet p v n).image = n.image ∧
    (pageSet p v n).calFlash = n.calFlash ∧ (pageSet p v n).identity = n.identity ∧ (pageSet p v n).running = n.running ∧
    (pageSet p v n).calSet = n.calSet ∧ (pageSet p v n).attCert = n.attCert ∧ (pageSet p v n).bootState = n.bootState ∧
    (pageSet p v n).recovered = n.recovered ∧ (pageSet p v n).recSource = n.recSource ∧
    (pageSet p v n).recoverNext = n.recoverNext ∧ (pageSet p v n).calInvalid = n.calInvalid ∧
    (pageSet p v n).calPending = n.calPending ∧ (pageSet p v n).ethMode = n.ethMode ∧ (pageSet p v n).ethPorts = n.ethPorts ∧
    (pageSet p v n).discWin = n.discWin ∧ (pageSet p v n).sampleAt = n.sampleAt ∧ (pageSet p v n).pwr = n.pwr ∧
    (pageSet p v n).takeovers = n.takeovers ∧ (pageSet p v n).pwrfail = n.pwrfail ∧ (pageSet p v n).afterFatal = n.afterFatal ∧
    (pageSet p v n).requal = n.requal ∧ (pageSet p v n).sramCor = n.sramCor ∧ (pageSet p v n).sramFixed = n.sramFixed ∧
    (pageSet p v n).hsLost = n.hsLost ∧ (pageSet p v n).boot = n.boot ∧ (pageSet p v n).rcv = n.rcv ∧
    (pageSet p v n).parked = n.parked ∧ (pageSet p v n).staging = n.staging ∧ (pageSet p v n).flashJob = n.flashJob ∧
    (pageSet p v n).chunkOps = n.chunkOps ∧ (pageSet p v n).i3c = n.i3c ∧ (pageSet p v n).tap = n.tap ∧
    (pageSet p v n).sched = n.sched := by
  repeat' apply And.intro
  all_goals rfl

/-- `jnlAdd` changes `jnl` and `jnext` alone. -/
@[simp] theorem jnlAdd_keeps (e : EvRec) (n : Node) :
    (jnlAdd e n).tick = n.tick ∧ (jnlAdd e n).free = n.free ∧ (jnlAdd e n).out = n.out ∧ (jnlAdd e n).regs = n.regs ∧
    (jnlAdd e n).cnts = n.cnts ∧ (jnlAdd e n).pages = n.pages ∧ (jnlAdd e n).latches = n.latches ∧ (jnlAdd e n).mram = n.mram ∧
    (jnlAdd e n).topState = n.topState ∧ (jnlAdd e n).stopCause = n.stopCause ∧ (jnlAdd e n).tenants = n.tenants ∧
    (jnlAdd e n).tenDenied = n.tenDenied ∧ (jnlAdd e n).calEntry = n.calEntry ∧ (jnlAdd e n).qps = n.qps ∧
    (jnlAdd e n).nextQp = n.nextQp ∧ (jnlAdd e n).reqs = n.reqs ∧ (jnlAdd e n).nextReq = n.nextReq ∧
    (jnlAdd e n).nextTag = n.nextTag ∧ (jnlAdd e n).granted = n.granted ∧ (jnlAdd e n).lastAck = n.lastAck ∧
    (jnlAdd e n).gens = n.gens ∧ (jnlAdd e n).idxDedup = n.idxDedup ∧ (jnlAdd e n).shards = n.shards ∧
    (jnlAdd e n).openRows = n.openRows ∧ (jnlAdd e n).openPages = n.openPages ∧ (jnlAdd e n).dups = n.dups ∧
    (jnlAdd e n).dupLost = n.dupLost ∧ (jnlAdd e n).subReqs = n.subReqs ∧ (jnlAdd e n).nextSub = n.nextSub ∧
    (jnlAdd e n).walkQ = n.walkQ ∧ (jnlAdd e n).ctxs = n.ctxs ∧ (jnlAdd e n).engs = n.engs ∧
    (jnlAdd e n).lutPages = n.lutPages ∧ (jnlAdd e n).replaced = n.replaced ∧ (jnlAdd e n).saved = n.saved ∧
    (jnlAdd e n).nextWalk = n.nextWalk ∧ (jnlAdd e n).clvs = n.clvs ∧ (jnlAdd e n).batches = n.batches ∧
    (jnlAdd e n).passes = n.passes ∧ (jnlAdd e n).nextPass = n.nextPass ∧ (jnlAdd e n).stks = n.stks ∧
    (jnlAdd e n).poison = n.poison ∧ (jnlAdd e n).nodeId = n.nodeId ∧ (jnlAdd e n).map = n.map ∧ (jnlAdd e n).units = n.units ∧
    (jnlAdd e n).fusedSpare = n.fusedSpare ∧ (jnlAdd e n).mmu = n.mmu ∧ (jnlAdd e n).ctxDead = n.ctxDead ∧
    (jnlAdd e n).shadows = n.shadows ∧ (jnlAdd e n).nextWork = n.nextWork ∧ (jnlAdd e n).ftl = n.ftl ∧
    (jnlAdd e n).links = n.links ∧ (jnlAdd e n).lanes = n.lanes ∧ (jnlAdd e n).cabling = n.cabling ∧
    (jnlAdd e n).quorum = n.quorum ∧ (jnlAdd e n).quorumLostAt = n.quorumLostAt ∧ (jnlAdd e n).seen = n.seen ∧
    (jnlAdd e n).bad = n.bad ∧ (jnlAdd e n).fenced = n.fenced ∧ (jnlAdd e n).heldMsgs = n.heldMsgs ∧
    (jnlAdd e n).awaits = n.awaits ∧ (jnlAdd e n).fwds = n.fwds ∧ (jnlAdd e n).heldSubs = n.heldSubs ∧
    (jnlAdd e n).oldMaps = n.oldMaps ∧ (jnlAdd e n).council = n.council ∧ (jnlAdd e n).suspicions = n.suspicions ∧
    (jnlAdd e n).mapHeard = n.mapHeard ∧ (jnlAdd e n).mapTimeouts = n.mapTimeouts ∧ (jnlAdd e n).partialTimes = n.partialTimes ∧
    (jnlAdd e n).slowRuns = n.slowRuns ∧ (jnlAdd e n).loadAt = n.loadAt ∧ (jnlAdd e n).progs = n.progs ∧
    (jnlAdd e n).nextProg = n.nextProg ∧ (jnlAdd e n).encoders = n.encoders ∧ (jnlAdd e n).tnsTimes = n.tnsTimes ∧
    (jnlAdd e n).tabs = n.tabs ∧ (jnlAdd e n).routes = n.routes ∧ (jnlAdd e n).mapJobs = n.mapJobs ∧
    (jnlAdd e n).fuses = n.fuses ∧ (jnlAdd e n).nonces = n.nonces ∧ (jnlAdd e n).image = n.image ∧
    (jnlAdd e n).calFlash = n.calFlash ∧ (jnlAdd e n).identity = n.identity ∧ (jnlAdd e n).running = n.running ∧
    (jnlAdd e n).calSet = n.calSet ∧ (jnlAdd e n).attCert = n.attCert ∧ (jnlAdd e n).bootState = n.bootState ∧
    (jnlAdd e n).recovered = n.recovered ∧ (jnlAdd e n).recSource = n.recSource ∧ (jnlAdd e n).recoverNext = n.recoverNext ∧
    (jnlAdd e n).calInvalid = n.calInvalid ∧ (jnlAdd e n).calPending = n.calPending ∧ (jnlAdd e n).ethMode = n.ethMode ∧
    (jnlAdd e n).ethPorts = n.ethPorts ∧ (jnlAdd e n).discWin = n.discWin ∧ (jnlAdd e n).sampleAt = n.sampleAt ∧
    (jnlAdd e n).pwr = n.pwr ∧ (jnlAdd e n).takeovers = n.takeovers ∧ (jnlAdd e n).pwrfail = n.pwrfail ∧
    (jnlAdd e n).afterFatal = n.afterFatal ∧ (jnlAdd e n).requal = n.requal ∧ (jnlAdd e n).sramCor = n.sramCor ∧
    (jnlAdd e n).sramFixed = n.sramFixed ∧ (jnlAdd e n).hsLost = n.hsLost ∧ (jnlAdd e n).boot = n.boot ∧
    (jnlAdd e n).rcv = n.rcv ∧ (jnlAdd e n).parked = n.parked ∧ (jnlAdd e n).staging = n.staging ∧
    (jnlAdd e n).flashJob = n.flashJob ∧ (jnlAdd e n).chunkOps = n.chunkOps ∧ (jnlAdd e n).i3c = n.i3c ∧
    (jnlAdd e n).tap = n.tap ∧ (jnlAdd e n).sched = n.sched := by
  repeat' apply And.intro
  all_goals rfl

/-- `jnlUpdate` changes `jnl` alone. -/
@[simp] theorem jnlUpdate_keeps (e : EvRec) (n : Node) :
    (jnlUpdate e n).tick = n.tick ∧ (jnlUpdate e n).free = n.free ∧ (jnlUpdate e n).out = n.out ∧
    (jnlUpdate e n).regs = n.regs ∧ (jnlUpdate e n).cnts = n.cnts ∧ (jnlUpdate e n).pages = n.pages ∧
    (jnlUpdate e n).latches = n.latches ∧ (jnlUpdate e n).jnext = n.jnext ∧ (jnlUpdate e n).mram = n.mram ∧
    (jnlUpdate e n).topState = n.topState ∧ (jnlUpdate e n).stopCause = n.stopCause ∧ (jnlUpdate e n).tenants = n.tenants ∧
    (jnlUpdate e n).tenDenied = n.tenDenied ∧ (jnlUpdate e n).calEntry = n.calEntry ∧ (jnlUpdate e n).qps = n.qps ∧
    (jnlUpdate e n).nextQp = n.nextQp ∧ (jnlUpdate e n).reqs = n.reqs ∧ (jnlUpdate e n).nextReq = n.nextReq ∧
    (jnlUpdate e n).nextTag = n.nextTag ∧ (jnlUpdate e n).granted = n.granted ∧ (jnlUpdate e n).lastAck = n.lastAck ∧
    (jnlUpdate e n).gens = n.gens ∧ (jnlUpdate e n).idxDedup = n.idxDedup ∧ (jnlUpdate e n).shards = n.shards ∧
    (jnlUpdate e n).openRows = n.openRows ∧ (jnlUpdate e n).openPages = n.openPages ∧ (jnlUpdate e n).dups = n.dups ∧
    (jnlUpdate e n).dupLost = n.dupLost ∧ (jnlUpdate e n).subReqs = n.subReqs ∧ (jnlUpdate e n).nextSub = n.nextSub ∧
    (jnlUpdate e n).walkQ = n.walkQ ∧ (jnlUpdate e n).ctxs = n.ctxs ∧ (jnlUpdate e n).engs = n.engs ∧
    (jnlUpdate e n).lutPages = n.lutPages ∧ (jnlUpdate e n).replaced = n.replaced ∧ (jnlUpdate e n).saved = n.saved ∧
    (jnlUpdate e n).nextWalk = n.nextWalk ∧ (jnlUpdate e n).clvs = n.clvs ∧ (jnlUpdate e n).batches = n.batches ∧
    (jnlUpdate e n).passes = n.passes ∧ (jnlUpdate e n).nextPass = n.nextPass ∧ (jnlUpdate e n).stks = n.stks ∧
    (jnlUpdate e n).poison = n.poison ∧ (jnlUpdate e n).nodeId = n.nodeId ∧ (jnlUpdate e n).map = n.map ∧
    (jnlUpdate e n).units = n.units ∧ (jnlUpdate e n).fusedSpare = n.fusedSpare ∧ (jnlUpdate e n).mmu = n.mmu ∧
    (jnlUpdate e n).ctxDead = n.ctxDead ∧ (jnlUpdate e n).shadows = n.shadows ∧ (jnlUpdate e n).nextWork = n.nextWork ∧
    (jnlUpdate e n).ftl = n.ftl ∧ (jnlUpdate e n).links = n.links ∧ (jnlUpdate e n).lanes = n.lanes ∧
    (jnlUpdate e n).cabling = n.cabling ∧ (jnlUpdate e n).quorum = n.quorum ∧ (jnlUpdate e n).quorumLostAt = n.quorumLostAt ∧
    (jnlUpdate e n).seen = n.seen ∧ (jnlUpdate e n).bad = n.bad ∧ (jnlUpdate e n).fenced = n.fenced ∧
    (jnlUpdate e n).heldMsgs = n.heldMsgs ∧ (jnlUpdate e n).awaits = n.awaits ∧ (jnlUpdate e n).fwds = n.fwds ∧
    (jnlUpdate e n).heldSubs = n.heldSubs ∧ (jnlUpdate e n).oldMaps = n.oldMaps ∧ (jnlUpdate e n).council = n.council ∧
    (jnlUpdate e n).suspicions = n.suspicions ∧ (jnlUpdate e n).mapHeard = n.mapHeard ∧
    (jnlUpdate e n).mapTimeouts = n.mapTimeouts ∧ (jnlUpdate e n).partialTimes = n.partialTimes ∧
    (jnlUpdate e n).slowRuns = n.slowRuns ∧ (jnlUpdate e n).loadAt = n.loadAt ∧ (jnlUpdate e n).progs = n.progs ∧
    (jnlUpdate e n).nextProg = n.nextProg ∧ (jnlUpdate e n).encoders = n.encoders ∧ (jnlUpdate e n).tnsTimes = n.tnsTimes ∧
    (jnlUpdate e n).tabs = n.tabs ∧ (jnlUpdate e n).routes = n.routes ∧ (jnlUpdate e n).mapJobs = n.mapJobs ∧
    (jnlUpdate e n).fuses = n.fuses ∧ (jnlUpdate e n).nonces = n.nonces ∧ (jnlUpdate e n).image = n.image ∧
    (jnlUpdate e n).calFlash = n.calFlash ∧ (jnlUpdate e n).identity = n.identity ∧ (jnlUpdate e n).running = n.running ∧
    (jnlUpdate e n).calSet = n.calSet ∧ (jnlUpdate e n).attCert = n.attCert ∧ (jnlUpdate e n).bootState = n.bootState ∧
    (jnlUpdate e n).recovered = n.recovered ∧ (jnlUpdate e n).recSource = n.recSource ∧
    (jnlUpdate e n).recoverNext = n.recoverNext ∧ (jnlUpdate e n).calInvalid = n.calInvalid ∧
    (jnlUpdate e n).calPending = n.calPending ∧ (jnlUpdate e n).ethMode = n.ethMode ∧ (jnlUpdate e n).ethPorts = n.ethPorts ∧
    (jnlUpdate e n).discWin = n.discWin ∧ (jnlUpdate e n).sampleAt = n.sampleAt ∧ (jnlUpdate e n).pwr = n.pwr ∧
    (jnlUpdate e n).takeovers = n.takeovers ∧ (jnlUpdate e n).pwrfail = n.pwrfail ∧ (jnlUpdate e n).afterFatal = n.afterFatal ∧
    (jnlUpdate e n).requal = n.requal ∧ (jnlUpdate e n).sramCor = n.sramCor ∧ (jnlUpdate e n).sramFixed = n.sramFixed ∧
    (jnlUpdate e n).hsLost = n.hsLost ∧ (jnlUpdate e n).boot = n.boot ∧ (jnlUpdate e n).rcv = n.rcv ∧
    (jnlUpdate e n).parked = n.parked ∧ (jnlUpdate e n).staging = n.staging ∧ (jnlUpdate e n).flashJob = n.flashJob ∧
    (jnlUpdate e n).chunkOps = n.chunkOps ∧ (jnlUpdate e n).i3c = n.i3c ∧ (jnlUpdate e n).tap = n.tap ∧
    (jnlUpdate e n).sched = n.sched := by
  repeat' apply And.intro
  all_goals rfl

/-- `stage` changes `mram` alone. -/
@[simp] theorem stage_keeps (c : Nat) (e : EvRec) (n : Node) :
    (stage c e n).tick = n.tick ∧ (stage c e n).free = n.free ∧ (stage c e n).out = n.out ∧ (stage c e n).regs = n.regs ∧
    (stage c e n).cnts = n.cnts ∧ (stage c e n).pages = n.pages ∧ (stage c e n).latches = n.latches ∧
    (stage c e n).jnl = n.jnl ∧ (stage c e n).jnext = n.jnext ∧ (stage c e n).topState = n.topState ∧
    (stage c e n).stopCause = n.stopCause ∧ (stage c e n).tenants = n.tenants ∧ (stage c e n).tenDenied = n.tenDenied ∧
    (stage c e n).calEntry = n.calEntry ∧ (stage c e n).qps = n.qps ∧ (stage c e n).nextQp = n.nextQp ∧
    (stage c e n).reqs = n.reqs ∧ (stage c e n).nextReq = n.nextReq ∧ (stage c e n).nextTag = n.nextTag ∧
    (stage c e n).granted = n.granted ∧ (stage c e n).lastAck = n.lastAck ∧ (stage c e n).gens = n.gens ∧
    (stage c e n).idxDedup = n.idxDedup ∧ (stage c e n).shards = n.shards ∧ (stage c e n).openRows = n.openRows ∧
    (stage c e n).openPages = n.openPages ∧ (stage c e n).dups = n.dups ∧ (stage c e n).dupLost = n.dupLost ∧
    (stage c e n).subReqs = n.subReqs ∧ (stage c e n).nextSub = n.nextSub ∧ (stage c e n).walkQ = n.walkQ ∧
    (stage c e n).ctxs = n.ctxs ∧ (stage c e n).engs = n.engs ∧ (stage c e n).lutPages = n.lutPages ∧
    (stage c e n).replaced = n.replaced ∧ (stage c e n).saved = n.saved ∧ (stage c e n).nextWalk = n.nextWalk ∧
    (stage c e n).clvs = n.clvs ∧ (stage c e n).batches = n.batches ∧ (stage c e n).passes = n.passes ∧
    (stage c e n).nextPass = n.nextPass ∧ (stage c e n).stks = n.stks ∧ (stage c e n).poison = n.poison ∧
    (stage c e n).nodeId = n.nodeId ∧ (stage c e n).map = n.map ∧ (stage c e n).units = n.units ∧
    (stage c e n).fusedSpare = n.fusedSpare ∧ (stage c e n).mmu = n.mmu ∧ (stage c e n).ctxDead = n.ctxDead ∧
    (stage c e n).shadows = n.shadows ∧ (stage c e n).nextWork = n.nextWork ∧ (stage c e n).ftl = n.ftl ∧
    (stage c e n).links = n.links ∧ (stage c e n).lanes = n.lanes ∧ (stage c e n).cabling = n.cabling ∧
    (stage c e n).quorum = n.quorum ∧ (stage c e n).quorumLostAt = n.quorumLostAt ∧ (stage c e n).seen = n.seen ∧
    (stage c e n).bad = n.bad ∧ (stage c e n).fenced = n.fenced ∧ (stage c e n).heldMsgs = n.heldMsgs ∧
    (stage c e n).awaits = n.awaits ∧ (stage c e n).fwds = n.fwds ∧ (stage c e n).heldSubs = n.heldSubs ∧
    (stage c e n).oldMaps = n.oldMaps ∧ (stage c e n).council = n.council ∧ (stage c e n).suspicions = n.suspicions ∧
    (stage c e n).mapHeard = n.mapHeard ∧ (stage c e n).mapTimeouts = n.mapTimeouts ∧
    (stage c e n).partialTimes = n.partialTimes ∧ (stage c e n).slowRuns = n.slowRuns ∧ (stage c e n).loadAt = n.loadAt ∧
    (stage c e n).progs = n.progs ∧ (stage c e n).nextProg = n.nextProg ∧ (stage c e n).encoders = n.encoders ∧
    (stage c e n).tnsTimes = n.tnsTimes ∧ (stage c e n).tabs = n.tabs ∧ (stage c e n).routes = n.routes ∧
    (stage c e n).mapJobs = n.mapJobs ∧ (stage c e n).fuses = n.fuses ∧ (stage c e n).nonces = n.nonces ∧
    (stage c e n).image = n.image ∧ (stage c e n).calFlash = n.calFlash ∧ (stage c e n).identity = n.identity ∧
    (stage c e n).running = n.running ∧ (stage c e n).calSet = n.calSet ∧ (stage c e n).attCert = n.attCert ∧
    (stage c e n).bootState = n.bootState ∧ (stage c e n).recovered = n.recovered ∧ (stage c e n).recSource = n.recSource ∧
    (stage c e n).recoverNext = n.recoverNext ∧ (stage c e n).calInvalid = n.calInvalid ∧
    (stage c e n).calPending = n.calPending ∧ (stage c e n).ethMode = n.ethMode ∧ (stage c e n).ethPorts = n.ethPorts ∧
    (stage c e n).discWin = n.discWin ∧ (stage c e n).sampleAt = n.sampleAt ∧ (stage c e n).pwr = n.pwr ∧
    (stage c e n).takeovers = n.takeovers ∧ (stage c e n).pwrfail = n.pwrfail ∧ (stage c e n).afterFatal = n.afterFatal ∧
    (stage c e n).requal = n.requal ∧ (stage c e n).sramCor = n.sramCor ∧ (stage c e n).sramFixed = n.sramFixed ∧
    (stage c e n).hsLost = n.hsLost ∧ (stage c e n).boot = n.boot ∧ (stage c e n).rcv = n.rcv ∧
    (stage c e n).parked = n.parked ∧ (stage c e n).staging = n.staging ∧ (stage c e n).flashJob = n.flashJob ∧
    (stage c e n).chunkOps = n.chunkOps ∧ (stage c e n).i3c = n.i3c ∧ (stage c e n).tap = n.tap ∧ (stage c e n).sched = n.sched := by
  unfold stage; (try dsimp only); split <;> (repeat' apply And.intro) <;> rfl

/-- `captureReport` changes `pages` and `cnts` alone. -/
@[simp] theorem captureReport_keeps (p c : Nat) (lo hi : Word) (n : Node) :
    (captureReport p c lo hi n).tick = n.tick ∧ (captureReport p c lo hi n).free = n.free ∧
    (captureReport p c lo hi n).out = n.out ∧ (captureReport p c lo hi n).regs = n.regs ∧
    (captureReport p c lo hi n).latches = n.latches ∧ (captureReport p c lo hi n).jnl = n.jnl ∧
    (captureReport p c lo hi n).jnext = n.jnext ∧ (captureReport p c lo hi n).mram = n.mram ∧
    (captureReport p c lo hi n).topState = n.topState ∧ (captureReport p c lo hi n).stopCause = n.stopCause ∧
    (captureReport p c lo hi n).tenants = n.tenants ∧ (captureReport p c lo hi n).tenDenied = n.tenDenied ∧
    (captureReport p c lo hi n).calEntry = n.calEntry ∧ (captureReport p c lo hi n).qps = n.qps ∧
    (captureReport p c lo hi n).nextQp = n.nextQp ∧ (captureReport p c lo hi n).reqs = n.reqs ∧
    (captureReport p c lo hi n).nextReq = n.nextReq ∧ (captureReport p c lo hi n).nextTag = n.nextTag ∧
    (captureReport p c lo hi n).granted = n.granted ∧ (captureReport p c lo hi n).lastAck = n.lastAck ∧
    (captureReport p c lo hi n).gens = n.gens ∧ (captureReport p c lo hi n).idxDedup = n.idxDedup ∧
    (captureReport p c lo hi n).shards = n.shards ∧ (captureReport p c lo hi n).openRows = n.openRows ∧
    (captureReport p c lo hi n).openPages = n.openPages ∧ (captureReport p c lo hi n).dups = n.dups ∧
    (captureReport p c lo hi n).dupLost = n.dupLost ∧ (captureReport p c lo hi n).subReqs = n.subReqs ∧
    (captureReport p c lo hi n).nextSub = n.nextSub ∧ (captureReport p c lo hi n).walkQ = n.walkQ ∧
    (captureReport p c lo hi n).ctxs = n.ctxs ∧ (captureReport p c lo hi n).engs = n.engs ∧
    (captureReport p c lo hi n).lutPages = n.lutPages ∧ (captureReport p c lo hi n).replaced = n.replaced ∧
    (captureReport p c lo hi n).saved = n.saved ∧ (captureReport p c lo hi n).nextWalk = n.nextWalk ∧
    (captureReport p c lo hi n).clvs = n.clvs ∧ (captureReport p c lo hi n).batches = n.batches ∧
    (captureReport p c lo hi n).passes = n.passes ∧ (captureReport p c lo hi n).nextPass = n.nextPass ∧
    (captureReport p c lo hi n).stks = n.stks ∧ (captureReport p c lo hi n).poison = n.poison ∧
    (captureReport p c lo hi n).nodeId = n.nodeId ∧ (captureReport p c lo hi n).map = n.map ∧
    (captureReport p c lo hi n).units = n.units ∧ (captureReport p c lo hi n).fusedSpare = n.fusedSpare ∧
    (captureReport p c lo hi n).mmu = n.mmu ∧ (captureReport p c lo hi n).ctxDead = n.ctxDead ∧
    (captureReport p c lo hi n).shadows = n.shadows ∧ (captureReport p c lo hi n).nextWork = n.nextWork ∧
    (captureReport p c lo hi n).ftl = n.ftl ∧ (captureReport p c lo hi n).links = n.links ∧
    (captureReport p c lo hi n).lanes = n.lanes ∧ (captureReport p c lo hi n).cabling = n.cabling ∧
    (captureReport p c lo hi n).quorum = n.quorum ∧ (captureReport p c lo hi n).quorumLostAt = n.quorumLostAt ∧
    (captureReport p c lo hi n).seen = n.seen ∧ (captureReport p c lo hi n).bad = n.bad ∧
    (captureReport p c lo hi n).fenced = n.fenced ∧ (captureReport p c lo hi n).heldMsgs = n.heldMsgs ∧
    (captureReport p c lo hi n).awaits = n.awaits ∧ (captureReport p c lo hi n).fwds = n.fwds ∧
    (captureReport p c lo hi n).heldSubs = n.heldSubs ∧ (captureReport p c lo hi n).oldMaps = n.oldMaps ∧
    (captureReport p c lo hi n).council = n.council ∧ (captureReport p c lo hi n).suspicions = n.suspicions ∧
    (captureReport p c lo hi n).mapHeard = n.mapHeard ∧ (captureReport p c lo hi n).mapTimeouts = n.mapTimeouts ∧
    (captureReport p c lo hi n).partialTimes = n.partialTimes ∧ (captureReport p c lo hi n).slowRuns = n.slowRuns ∧
    (captureReport p c lo hi n).loadAt = n.loadAt ∧ (captureReport p c lo hi n).progs = n.progs ∧
    (captureReport p c lo hi n).nextProg = n.nextProg ∧ (captureReport p c lo hi n).encoders = n.encoders ∧
    (captureReport p c lo hi n).tnsTimes = n.tnsTimes ∧ (captureReport p c lo hi n).tabs = n.tabs ∧
    (captureReport p c lo hi n).routes = n.routes ∧ (captureReport p c lo hi n).mapJobs = n.mapJobs ∧
    (captureReport p c lo hi n).fuses = n.fuses ∧ (captureReport p c lo hi n).nonces = n.nonces ∧
    (captureReport p c lo hi n).image = n.image ∧ (captureReport p c lo hi n).calFlash = n.calFlash ∧
    (captureReport p c lo hi n).identity = n.identity ∧ (captureReport p c lo hi n).running = n.running ∧
    (captureReport p c lo hi n).calSet = n.calSet ∧ (captureReport p c lo hi n).attCert = n.attCert ∧
    (captureReport p c lo hi n).bootState = n.bootState ∧ (captureReport p c lo hi n).recovered = n.recovered ∧
    (captureReport p c lo hi n).recSource = n.recSource ∧ (captureReport p c lo hi n).recoverNext = n.recoverNext ∧
    (captureReport p c lo hi n).calInvalid = n.calInvalid ∧ (captureReport p c lo hi n).calPending = n.calPending ∧
    (captureReport p c lo hi n).ethMode = n.ethMode ∧ (captureReport p c lo hi n).ethPorts = n.ethPorts ∧
    (captureReport p c lo hi n).discWin = n.discWin ∧ (captureReport p c lo hi n).sampleAt = n.sampleAt ∧
    (captureReport p c lo hi n).pwr = n.pwr ∧ (captureReport p c lo hi n).takeovers = n.takeovers ∧
    (captureReport p c lo hi n).pwrfail = n.pwrfail ∧ (captureReport p c lo hi n).afterFatal = n.afterFatal ∧
    (captureReport p c lo hi n).requal = n.requal ∧ (captureReport p c lo hi n).sramCor = n.sramCor ∧
    (captureReport p c lo hi n).sramFixed = n.sramFixed ∧ (captureReport p c lo hi n).hsLost = n.hsLost ∧
    (captureReport p c lo hi n).boot = n.boot ∧ (captureReport p c lo hi n).rcv = n.rcv ∧
    (captureReport p c lo hi n).parked = n.parked ∧ (captureReport p c lo hi n).staging = n.staging ∧
    (captureReport p c lo hi n).flashJob = n.flashJob ∧ (captureReport p c lo hi n).chunkOps = n.chunkOps ∧
    (captureReport p c lo hi n).i3c = n.i3c ∧ (captureReport p c lo hi n).tap = n.tap ∧
    (captureReport p c lo hi n).sched = n.sched := by
  repeat' apply And.intro
  all_goals rfl

/-- `tenantMod` changes `tenants` alone. -/
@[simp] theorem tenantMod_keeps (t : Nat) (f : Tenant → Tenant) (n : Node) :
    (tenantMod t f n).tick = n.tick ∧ (tenantMod t f n).free = n.free ∧ (tenantMod t f n).out = n.out ∧
    (tenantMod t f n).regs = n.regs ∧ (tenantMod t f n).cnts = n.cnts ∧ (tenantMod t f n).pages = n.pages ∧
    (tenantMod t f n).latches = n.latches ∧ (tenantMod t f n).jnl = n.jnl ∧ (tenantMod t f n).jnext = n.jnext ∧
    (tenantMod t f n).mram = n.mram ∧ (tenantMod t f n).topState = n.topState ∧ (tenantMod t f n).stopCause = n.stopCause ∧
    (tenantMod t f n).tenDenied = n.tenDenied ∧ (tenantMod t f n).calEntry = n.calEntry ∧ (tenantMod t f n).qps = n.qps ∧
    (tenantMod t f n).nextQp = n.nextQp ∧ (tenantMod t f n).reqs = n.reqs ∧ (tenantMod t f n).nextReq = n.nextReq ∧
    (tenantMod t f n).nextTag = n.nextTag ∧ (tenantMod t f n).granted = n.granted ∧ (tenantMod t f n).lastAck = n.lastAck ∧
    (tenantMod t f n).gens = n.gens ∧ (tenantMod t f n).idxDedup = n.idxDedup ∧ (tenantMod t f n).shards = n.shards ∧
    (tenantMod t f n).openRows = n.openRows ∧ (tenantMod t f n).openPages = n.openPages ∧ (tenantMod t f n).dups = n.dups ∧
    (tenantMod t f n).dupLost = n.dupLost ∧ (tenantMod t f n).subReqs = n.subReqs ∧ (tenantMod t f n).nextSub = n.nextSub ∧
    (tenantMod t f n).walkQ = n.walkQ ∧ (tenantMod t f n).ctxs = n.ctxs ∧ (tenantMod t f n).engs = n.engs ∧
    (tenantMod t f n).lutPages = n.lutPages ∧ (tenantMod t f n).replaced = n.replaced ∧ (tenantMod t f n).saved = n.saved ∧
    (tenantMod t f n).nextWalk = n.nextWalk ∧ (tenantMod t f n).clvs = n.clvs ∧ (tenantMod t f n).batches = n.batches ∧
    (tenantMod t f n).passes = n.passes ∧ (tenantMod t f n).nextPass = n.nextPass ∧ (tenantMod t f n).stks = n.stks ∧
    (tenantMod t f n).poison = n.poison ∧ (tenantMod t f n).nodeId = n.nodeId ∧ (tenantMod t f n).map = n.map ∧
    (tenantMod t f n).units = n.units ∧ (tenantMod t f n).fusedSpare = n.fusedSpare ∧ (tenantMod t f n).mmu = n.mmu ∧
    (tenantMod t f n).ctxDead = n.ctxDead ∧ (tenantMod t f n).shadows = n.shadows ∧ (tenantMod t f n).nextWork = n.nextWork ∧
    (tenantMod t f n).ftl = n.ftl ∧ (tenantMod t f n).links = n.links ∧ (tenantMod t f n).lanes = n.lanes ∧
    (tenantMod t f n).cabling = n.cabling ∧ (tenantMod t f n).quorum = n.quorum ∧
    (tenantMod t f n).quorumLostAt = n.quorumLostAt ∧ (tenantMod t f n).seen = n.seen ∧ (tenantMod t f n).bad = n.bad ∧
    (tenantMod t f n).fenced = n.fenced ∧ (tenantMod t f n).heldMsgs = n.heldMsgs ∧ (tenantMod t f n).awaits = n.awaits ∧
    (tenantMod t f n).fwds = n.fwds ∧ (tenantMod t f n).heldSubs = n.heldSubs ∧ (tenantMod t f n).oldMaps = n.oldMaps ∧
    (tenantMod t f n).council = n.council ∧ (tenantMod t f n).suspicions = n.suspicions ∧
    (tenantMod t f n).mapHeard = n.mapHeard ∧ (tenantMod t f n).mapTimeouts = n.mapTimeouts ∧
    (tenantMod t f n).partialTimes = n.partialTimes ∧ (tenantMod t f n).slowRuns = n.slowRuns ∧
    (tenantMod t f n).loadAt = n.loadAt ∧ (tenantMod t f n).progs = n.progs ∧ (tenantMod t f n).nextProg = n.nextProg ∧
    (tenantMod t f n).encoders = n.encoders ∧ (tenantMod t f n).tnsTimes = n.tnsTimes ∧ (tenantMod t f n).tabs = n.tabs ∧
    (tenantMod t f n).routes = n.routes ∧ (tenantMod t f n).mapJobs = n.mapJobs ∧ (tenantMod t f n).fuses = n.fuses ∧
    (tenantMod t f n).nonces = n.nonces ∧ (tenantMod t f n).image = n.image ∧ (tenantMod t f n).calFlash = n.calFlash ∧
    (tenantMod t f n).identity = n.identity ∧ (tenantMod t f n).running = n.running ∧ (tenantMod t f n).calSet = n.calSet ∧
    (tenantMod t f n).attCert = n.attCert ∧ (tenantMod t f n).bootState = n.bootState ∧
    (tenantMod t f n).recovered = n.recovered ∧ (tenantMod t f n).recSource = n.recSource ∧
    (tenantMod t f n).recoverNext = n.recoverNext ∧ (tenantMod t f n).calInvalid = n.calInvalid ∧
    (tenantMod t f n).calPending = n.calPending ∧ (tenantMod t f n).ethMode = n.ethMode ∧
    (tenantMod t f n).ethPorts = n.ethPorts ∧ (tenantMod t f n).discWin = n.discWin ∧ (tenantMod t f n).sampleAt = n.sampleAt ∧
    (tenantMod t f n).pwr = n.pwr ∧ (tenantMod t f n).takeovers = n.takeovers ∧ (tenantMod t f n).pwrfail = n.pwrfail ∧
    (tenantMod t f n).afterFatal = n.afterFatal ∧ (tenantMod t f n).requal = n.requal ∧ (tenantMod t f n).sramCor = n.sramCor ∧
    (tenantMod t f n).sramFixed = n.sramFixed ∧ (tenantMod t f n).hsLost = n.hsLost ∧ (tenantMod t f n).boot = n.boot ∧
    (tenantMod t f n).rcv = n.rcv ∧ (tenantMod t f n).parked = n.parked ∧ (tenantMod t f n).staging = n.staging ∧
    (tenantMod t f n).flashJob = n.flashJob ∧ (tenantMod t f n).chunkOps = n.chunkOps ∧ (tenantMod t f n).i3c = n.i3c ∧
    (tenantMod t f n).tap = n.tap ∧ (tenantMod t f n).sched = n.sched := by
  repeat' apply And.intro
  all_goals rfl

/-- `catchUp` changes `tenants` and `calEntry` alone. -/
@[simp] theorem catchUp_keeps (n : Node) :
    (catchUp n).tick = n.tick ∧ (catchUp n).free = n.free ∧ (catchUp n).out = n.out ∧ (catchUp n).regs = n.regs ∧
    (catchUp n).cnts = n.cnts ∧ (catchUp n).pages = n.pages ∧ (catchUp n).latches = n.latches ∧ (catchUp n).jnl = n.jnl ∧
    (catchUp n).jnext = n.jnext ∧ (catchUp n).mram = n.mram ∧ (catchUp n).topState = n.topState ∧
    (catchUp n).stopCause = n.stopCause ∧ (catchUp n).tenDenied = n.tenDenied ∧ (catchUp n).qps = n.qps ∧
    (catchUp n).nextQp = n.nextQp ∧ (catchUp n).reqs = n.reqs ∧ (catchUp n).nextReq = n.nextReq ∧
    (catchUp n).nextTag = n.nextTag ∧ (catchUp n).granted = n.granted ∧ (catchUp n).lastAck = n.lastAck ∧
    (catchUp n).gens = n.gens ∧ (catchUp n).idxDedup = n.idxDedup ∧ (catchUp n).shards = n.shards ∧
    (catchUp n).openRows = n.openRows ∧ (catchUp n).openPages = n.openPages ∧ (catchUp n).dups = n.dups ∧
    (catchUp n).dupLost = n.dupLost ∧ (catchUp n).subReqs = n.subReqs ∧ (catchUp n).nextSub = n.nextSub ∧
    (catchUp n).walkQ = n.walkQ ∧ (catchUp n).ctxs = n.ctxs ∧ (catchUp n).engs = n.engs ∧ (catchUp n).lutPages = n.lutPages ∧
    (catchUp n).replaced = n.replaced ∧ (catchUp n).saved = n.saved ∧ (catchUp n).nextWalk = n.nextWalk ∧
    (catchUp n).clvs = n.clvs ∧ (catchUp n).batches = n.batches ∧ (catchUp n).passes = n.passes ∧
    (catchUp n).nextPass = n.nextPass ∧ (catchUp n).stks = n.stks ∧ (catchUp n).poison = n.poison ∧
    (catchUp n).nodeId = n.nodeId ∧ (catchUp n).map = n.map ∧ (catchUp n).units = n.units ∧
    (catchUp n).fusedSpare = n.fusedSpare ∧ (catchUp n).mmu = n.mmu ∧ (catchUp n).ctxDead = n.ctxDead ∧
    (catchUp n).shadows = n.shadows ∧ (catchUp n).nextWork = n.nextWork ∧ (catchUp n).ftl = n.ftl ∧
    (catchUp n).links = n.links ∧ (catchUp n).lanes = n.lanes ∧ (catchUp n).cabling = n.cabling ∧
    (catchUp n).quorum = n.quorum ∧ (catchUp n).quorumLostAt = n.quorumLostAt ∧ (catchUp n).seen = n.seen ∧
    (catchUp n).bad = n.bad ∧ (catchUp n).fenced = n.fenced ∧ (catchUp n).heldMsgs = n.heldMsgs ∧
    (catchUp n).awaits = n.awaits ∧ (catchUp n).fwds = n.fwds ∧ (catchUp n).heldSubs = n.heldSubs ∧
    (catchUp n).oldMaps = n.oldMaps ∧ (catchUp n).council = n.council ∧ (catchUp n).suspicions = n.suspicions ∧
    (catchUp n).mapHeard = n.mapHeard ∧ (catchUp n).mapTimeouts = n.mapTimeouts ∧ (catchUp n).partialTimes = n.partialTimes ∧
    (catchUp n).slowRuns = n.slowRuns ∧ (catchUp n).loadAt = n.loadAt ∧ (catchUp n).progs = n.progs ∧
    (catchUp n).nextProg = n.nextProg ∧ (catchUp n).encoders = n.encoders ∧ (catchUp n).tnsTimes = n.tnsTimes ∧
    (catchUp n).tabs = n.tabs ∧ (catchUp n).routes = n.routes ∧ (catchUp n).mapJobs = n.mapJobs ∧ (catchUp n).fuses = n.fuses ∧
    (catchUp n).nonces = n.nonces ∧ (catchUp n).image = n.image ∧ (catchUp n).calFlash = n.calFlash ∧
    (catchUp n).identity = n.identity ∧ (catchUp n).running = n.running ∧ (catchUp n).calSet = n.calSet ∧
    (catchUp n).attCert = n.attCert ∧ (catchUp n).bootState = n.bootState ∧ (catchUp n).recovered = n.recovered ∧
    (catchUp n).recSource = n.recSource ∧ (catchUp n).recoverNext = n.recoverNext ∧ (catchUp n).calInvalid = n.calInvalid ∧
    (catchUp n).calPending = n.calPending ∧ (catchUp n).ethMode = n.ethMode ∧ (catchUp n).ethPorts = n.ethPorts ∧
    (catchUp n).discWin = n.discWin ∧ (catchUp n).sampleAt = n.sampleAt ∧ (catchUp n).pwr = n.pwr ∧
    (catchUp n).takeovers = n.takeovers ∧ (catchUp n).pwrfail = n.pwrfail ∧ (catchUp n).afterFatal = n.afterFatal ∧
    (catchUp n).requal = n.requal ∧ (catchUp n).sramCor = n.sramCor ∧ (catchUp n).sramFixed = n.sramFixed ∧
    (catchUp n).hsLost = n.hsLost ∧ (catchUp n).boot = n.boot ∧ (catchUp n).rcv = n.rcv ∧ (catchUp n).parked = n.parked ∧
    (catchUp n).staging = n.staging ∧ (catchUp n).flashJob = n.flashJob ∧ (catchUp n).chunkOps = n.chunkOps ∧
    (catchUp n).i3c = n.i3c ∧ (catchUp n).tap = n.tap ∧ (catchUp n).sched = n.sched := by
  unfold catchUp; (try dsimp only); split <;> (repeat' apply And.intro) <;> rfl

/-- `qpMod` changes `qps` alone. -/
@[simp] theorem qpMod_keeps (q : Nat) (f : Qp → Qp) (n : Node) :
    (qpMod q f n).tick = n.tick ∧ (qpMod q f n).free = n.free ∧ (qpMod q f n).out = n.out ∧ (qpMod q f n).regs = n.regs ∧
    (qpMod q f n).cnts = n.cnts ∧ (qpMod q f n).pages = n.pages ∧ (qpMod q f n).latches = n.latches ∧
    (qpMod q f n).jnl = n.jnl ∧ (qpMod q f n).jnext = n.jnext ∧ (qpMod q f n).mram = n.mram ∧
    (qpMod q f n).topState = n.topState ∧ (qpMod q f n).stopCause = n.stopCause ∧ (qpMod q f n).tenants = n.tenants ∧
    (qpMod q f n).tenDenied = n.tenDenied ∧ (qpMod q f n).calEntry = n.calEntry ∧ (qpMod q f n).nextQp = n.nextQp ∧
    (qpMod q f n).reqs = n.reqs ∧ (qpMod q f n).nextReq = n.nextReq ∧ (qpMod q f n).nextTag = n.nextTag ∧
    (qpMod q f n).granted = n.granted ∧ (qpMod q f n).lastAck = n.lastAck ∧ (qpMod q f n).gens = n.gens ∧
    (qpMod q f n).idxDedup = n.idxDedup ∧ (qpMod q f n).shards = n.shards ∧ (qpMod q f n).openRows = n.openRows ∧
    (qpMod q f n).openPages = n.openPages ∧ (qpMod q f n).dups = n.dups ∧ (qpMod q f n).dupLost = n.dupLost ∧
    (qpMod q f n).subReqs = n.subReqs ∧ (qpMod q f n).nextSub = n.nextSub ∧ (qpMod q f n).walkQ = n.walkQ ∧
    (qpMod q f n).ctxs = n.ctxs ∧ (qpMod q f n).engs = n.engs ∧ (qpMod q f n).lutPages = n.lutPages ∧
    (qpMod q f n).replaced = n.replaced ∧ (qpMod q f n).saved = n.saved ∧ (qpMod q f n).nextWalk = n.nextWalk ∧
    (qpMod q f n).clvs = n.clvs ∧ (qpMod q f n).batches = n.batches ∧ (qpMod q f n).passes = n.passes ∧
    (qpMod q f n).nextPass = n.nextPass ∧ (qpMod q f n).stks = n.stks ∧ (qpMod q f n).poison = n.poison ∧
    (qpMod q f n).nodeId = n.nodeId ∧ (qpMod q f n).map = n.map ∧ (qpMod q f n).units = n.units ∧
    (qpMod q f n).fusedSpare = n.fusedSpare ∧ (qpMod q f n).mmu = n.mmu ∧ (qpMod q f n).ctxDead = n.ctxDead ∧
    (qpMod q f n).shadows = n.shadows ∧ (qpMod q f n).nextWork = n.nextWork ∧ (qpMod q f n).ftl = n.ftl ∧
    (qpMod q f n).links = n.links ∧ (qpMod q f n).lanes = n.lanes ∧ (qpMod q f n).cabling = n.cabling ∧
    (qpMod q f n).quorum = n.quorum ∧ (qpMod q f n).quorumLostAt = n.quorumLostAt ∧ (qpMod q f n).seen = n.seen ∧
    (qpMod q f n).bad = n.bad ∧ (qpMod q f n).fenced = n.fenced ∧ (qpMod q f n).heldMsgs = n.heldMsgs ∧
    (qpMod q f n).awaits = n.awaits ∧ (qpMod q f n).fwds = n.fwds ∧ (qpMod q f n).heldSubs = n.heldSubs ∧
    (qpMod q f n).oldMaps = n.oldMaps ∧ (qpMod q f n).council = n.council ∧ (qpMod q f n).suspicions = n.suspicions ∧
    (qpMod q f n).mapHeard = n.mapHeard ∧ (qpMod q f n).mapTimeouts = n.mapTimeouts ∧
    (qpMod q f n).partialTimes = n.partialTimes ∧ (qpMod q f n).slowRuns = n.slowRuns ∧ (qpMod q f n).loadAt = n.loadAt ∧
    (qpMod q f n).progs = n.progs ∧ (qpMod q f n).nextProg = n.nextProg ∧ (qpMod q f n).encoders = n.encoders ∧
    (qpMod q f n).tnsTimes = n.tnsTimes ∧ (qpMod q f n).tabs = n.tabs ∧ (qpMod q f n).routes = n.routes ∧
    (qpMod q f n).mapJobs = n.mapJobs ∧ (qpMod q f n).fuses = n.fuses ∧ (qpMod q f n).nonces = n.nonces ∧
    (qpMod q f n).image = n.image ∧ (qpMod q f n).calFlash = n.calFlash ∧ (qpMod q f n).identity = n.identity ∧
    (qpMod q f n).running = n.running ∧ (qpMod q f n).calSet = n.calSet ∧ (qpMod q f n).attCert = n.attCert ∧
    (qpMod q f n).bootState = n.bootState ∧ (qpMod q f n).recovered = n.recovered ∧ (qpMod q f n).recSource = n.recSource ∧
    (qpMod q f n).recoverNext = n.recoverNext ∧ (qpMod q f n).calInvalid = n.calInvalid ∧
    (qpMod q f n).calPending = n.calPending ∧ (qpMod q f n).ethMode = n.ethMode ∧ (qpMod q f n).ethPorts = n.ethPorts ∧
    (qpMod q f n).discWin = n.discWin ∧ (qpMod q f n).sampleAt = n.sampleAt ∧ (qpMod q f n).pwr = n.pwr ∧
    (qpMod q f n).takeovers = n.takeovers ∧ (qpMod q f n).pwrfail = n.pwrfail ∧ (qpMod q f n).afterFatal = n.afterFatal ∧
    (qpMod q f n).requal = n.requal ∧ (qpMod q f n).sramCor = n.sramCor ∧ (qpMod q f n).sramFixed = n.sramFixed ∧
    (qpMod q f n).hsLost = n.hsLost ∧ (qpMod q f n).boot = n.boot ∧ (qpMod q f n).rcv = n.rcv ∧
    (qpMod q f n).parked = n.parked ∧ (qpMod q f n).staging = n.staging ∧ (qpMod q f n).flashJob = n.flashJob ∧
    (qpMod q f n).chunkOps = n.chunkOps ∧ (qpMod q f n).i3c = n.i3c ∧ (qpMod q f n).tap = n.tap ∧ (qpMod q f n).sched = n.sched := by
  repeat' apply And.intro
  all_goals rfl

/-- `qpError` changes `qps` alone. -/
@[simp] theorem qpError_keeps (q : Nat) (n : Node) :
    (qpError q n).tick = n.tick ∧ (qpError q n).free = n.free ∧ (qpError q n).out = n.out ∧ (qpError q n).regs = n.regs ∧
    (qpError q n).cnts = n.cnts ∧ (qpError q n).pages = n.pages ∧ (qpError q n).latches = n.latches ∧
    (qpError q n).jnl = n.jnl ∧ (qpError q n).jnext = n.jnext ∧ (qpError q n).mram = n.mram ∧
    (qpError q n).topState = n.topState ∧ (qpError q n).stopCause = n.stopCause ∧ (qpError q n).tenants = n.tenants ∧
    (qpError q n).tenDenied = n.tenDenied ∧ (qpError q n).calEntry = n.calEntry ∧ (qpError q n).nextQp = n.nextQp ∧
    (qpError q n).reqs = n.reqs ∧ (qpError q n).nextReq = n.nextReq ∧ (qpError q n).nextTag = n.nextTag ∧
    (qpError q n).granted = n.granted ∧ (qpError q n).lastAck = n.lastAck ∧ (qpError q n).gens = n.gens ∧
    (qpError q n).idxDedup = n.idxDedup ∧ (qpError q n).shards = n.shards ∧ (qpError q n).openRows = n.openRows ∧
    (qpError q n).openPages = n.openPages ∧ (qpError q n).dups = n.dups ∧ (qpError q n).dupLost = n.dupLost ∧
    (qpError q n).subReqs = n.subReqs ∧ (qpError q n).nextSub = n.nextSub ∧ (qpError q n).walkQ = n.walkQ ∧
    (qpError q n).ctxs = n.ctxs ∧ (qpError q n).engs = n.engs ∧ (qpError q n).lutPages = n.lutPages ∧
    (qpError q n).replaced = n.replaced ∧ (qpError q n).saved = n.saved ∧ (qpError q n).nextWalk = n.nextWalk ∧
    (qpError q n).clvs = n.clvs ∧ (qpError q n).batches = n.batches ∧ (qpError q n).passes = n.passes ∧
    (qpError q n).nextPass = n.nextPass ∧ (qpError q n).stks = n.stks ∧ (qpError q n).poison = n.poison ∧
    (qpError q n).nodeId = n.nodeId ∧ (qpError q n).map = n.map ∧ (qpError q n).units = n.units ∧
    (qpError q n).fusedSpare = n.fusedSpare ∧ (qpError q n).mmu = n.mmu ∧ (qpError q n).ctxDead = n.ctxDead ∧
    (qpError q n).shadows = n.shadows ∧ (qpError q n).nextWork = n.nextWork ∧ (qpError q n).ftl = n.ftl ∧
    (qpError q n).links = n.links ∧ (qpError q n).lanes = n.lanes ∧ (qpError q n).cabling = n.cabling ∧
    (qpError q n).quorum = n.quorum ∧ (qpError q n).quorumLostAt = n.quorumLostAt ∧ (qpError q n).seen = n.seen ∧
    (qpError q n).bad = n.bad ∧ (qpError q n).fenced = n.fenced ∧ (qpError q n).heldMsgs = n.heldMsgs ∧
    (qpError q n).awaits = n.awaits ∧ (qpError q n).fwds = n.fwds ∧ (qpError q n).heldSubs = n.heldSubs ∧
    (qpError q n).oldMaps = n.oldMaps ∧ (qpError q n).council = n.council ∧ (qpError q n).suspicions = n.suspicions ∧
    (qpError q n).mapHeard = n.mapHeard ∧ (qpError q n).mapTimeouts = n.mapTimeouts ∧
    (qpError q n).partialTimes = n.partialTimes ∧ (qpError q n).slowRuns = n.slowRuns ∧ (qpError q n).loadAt = n.loadAt ∧
    (qpError q n).progs = n.progs ∧ (qpError q n).nextProg = n.nextProg ∧ (qpError q n).encoders = n.encoders ∧
    (qpError q n).tnsTimes = n.tnsTimes ∧ (qpError q n).tabs = n.tabs ∧ (qpError q n).routes = n.routes ∧
    (qpError q n).mapJobs = n.mapJobs ∧ (qpError q n).fuses = n.fuses ∧ (qpError q n).nonces = n.nonces ∧
    (qpError q n).image = n.image ∧ (qpError q n).calFlash = n.calFlash ∧ (qpError q n).identity = n.identity ∧
    (qpError q n).running = n.running ∧ (qpError q n).calSet = n.calSet ∧ (qpError q n).attCert = n.attCert ∧
    (qpError q n).bootState = n.bootState ∧ (qpError q n).recovered = n.recovered ∧ (qpError q n).recSource = n.recSource ∧
    (qpError q n).recoverNext = n.recoverNext ∧ (qpError q n).calInvalid = n.calInvalid ∧
    (qpError q n).calPending = n.calPending ∧ (qpError q n).ethMode = n.ethMode ∧ (qpError q n).ethPorts = n.ethPorts ∧
    (qpError q n).discWin = n.discWin ∧ (qpError q n).sampleAt = n.sampleAt ∧ (qpError q n).pwr = n.pwr ∧
    (qpError q n).takeovers = n.takeovers ∧ (qpError q n).pwrfail = n.pwrfail ∧ (qpError q n).afterFatal = n.afterFatal ∧
    (qpError q n).requal = n.requal ∧ (qpError q n).sramCor = n.sramCor ∧ (qpError q n).sramFixed = n.sramFixed ∧
    (qpError q n).hsLost = n.hsLost ∧ (qpError q n).boot = n.boot ∧ (qpError q n).rcv = n.rcv ∧
    (qpError q n).parked = n.parked ∧ (qpError q n).staging = n.staging ∧ (qpError q n).flashJob = n.flashJob ∧
    (qpError q n).chunkOps = n.chunkOps ∧ (qpError q n).i3c = n.i3c ∧ (qpError q n).tap = n.tap ∧ (qpError q n).sched = n.sched := by
  repeat' apply And.intro
  all_goals rfl

/-- `reqMod` changes `reqs` alone. -/
@[simp] theorem reqMod_keeps (i : Nat) (f : Req → Req) (n : Node) :
    (reqMod i f n).tick = n.tick ∧ (reqMod i f n).free = n.free ∧ (reqMod i f n).out = n.out ∧ (reqMod i f n).regs = n.regs ∧
    (reqMod i f n).cnts = n.cnts ∧ (reqMod i f n).pages = n.pages ∧ (reqMod i f n).latches = n.latches ∧
    (reqMod i f n).jnl = n.jnl ∧ (reqMod i f n).jnext = n.jnext ∧ (reqMod i f n).mram = n.mram ∧
    (reqMod i f n).topState = n.topState ∧ (reqMod i f n).stopCause = n.stopCause ∧ (reqMod i f n).tenants = n.tenants ∧
    (reqMod i f n).tenDenied = n.tenDenied ∧ (reqMod i f n).calEntry = n.calEntry ∧ (reqMod i f n).qps = n.qps ∧
    (reqMod i f n).nextQp = n.nextQp ∧ (reqMod i f n).nextReq = n.nextReq ∧ (reqMod i f n).nextTag = n.nextTag ∧
    (reqMod i f n).granted = n.granted ∧ (reqMod i f n).lastAck = n.lastAck ∧ (reqMod i f n).gens = n.gens ∧
    (reqMod i f n).idxDedup = n.idxDedup ∧ (reqMod i f n).shards = n.shards ∧ (reqMod i f n).openRows = n.openRows ∧
    (reqMod i f n).openPages = n.openPages ∧ (reqMod i f n).dups = n.dups ∧ (reqMod i f n).dupLost = n.dupLost ∧
    (reqMod i f n).subReqs = n.subReqs ∧ (reqMod i f n).nextSub = n.nextSub ∧ (reqMod i f n).walkQ = n.walkQ ∧
    (reqMod i f n).ctxs = n.ctxs ∧ (reqMod i f n).engs = n.engs ∧ (reqMod i f n).lutPages = n.lutPages ∧
    (reqMod i f n).replaced = n.replaced ∧ (reqMod i f n).saved = n.saved ∧ (reqMod i f n).nextWalk = n.nextWalk ∧
    (reqMod i f n).clvs = n.clvs ∧ (reqMod i f n).batches = n.batches ∧ (reqMod i f n).passes = n.passes ∧
    (reqMod i f n).nextPass = n.nextPass ∧ (reqMod i f n).stks = n.stks ∧ (reqMod i f n).poison = n.poison ∧
    (reqMod i f n).nodeId = n.nodeId ∧ (reqMod i f n).map = n.map ∧ (reqMod i f n).units = n.units ∧
    (reqMod i f n).fusedSpare = n.fusedSpare ∧ (reqMod i f n).mmu = n.mmu ∧ (reqMod i f n).ctxDead = n.ctxDead ∧
    (reqMod i f n).shadows = n.shadows ∧ (reqMod i f n).nextWork = n.nextWork ∧ (reqMod i f n).ftl = n.ftl ∧
    (reqMod i f n).links = n.links ∧ (reqMod i f n).lanes = n.lanes ∧ (reqMod i f n).cabling = n.cabling ∧
    (reqMod i f n).quorum = n.quorum ∧ (reqMod i f n).quorumLostAt = n.quorumLostAt ∧ (reqMod i f n).seen = n.seen ∧
    (reqMod i f n).bad = n.bad ∧ (reqMod i f n).fenced = n.fenced ∧ (reqMod i f n).heldMsgs = n.heldMsgs ∧
    (reqMod i f n).awaits = n.awaits ∧ (reqMod i f n).fwds = n.fwds ∧ (reqMod i f n).heldSubs = n.heldSubs ∧
    (reqMod i f n).oldMaps = n.oldMaps ∧ (reqMod i f n).council = n.council ∧ (reqMod i f n).suspicions = n.suspicions ∧
    (reqMod i f n).mapHeard = n.mapHeard ∧ (reqMod i f n).mapTimeouts = n.mapTimeouts ∧
    (reqMod i f n).partialTimes = n.partialTimes ∧ (reqMod i f n).slowRuns = n.slowRuns ∧ (reqMod i f n).loadAt = n.loadAt ∧
    (reqMod i f n).progs = n.progs ∧ (reqMod i f n).nextProg = n.nextProg ∧ (reqMod i f n).encoders = n.encoders ∧
    (reqMod i f n).tnsTimes = n.tnsTimes ∧ (reqMod i f n).tabs = n.tabs ∧ (reqMod i f n).routes = n.routes ∧
    (reqMod i f n).mapJobs = n.mapJobs ∧ (reqMod i f n).fuses = n.fuses ∧ (reqMod i f n).nonces = n.nonces ∧
    (reqMod i f n).image = n.image ∧ (reqMod i f n).calFlash = n.calFlash ∧ (reqMod i f n).identity = n.identity ∧
    (reqMod i f n).running = n.running ∧ (reqMod i f n).calSet = n.calSet ∧ (reqMod i f n).attCert = n.attCert ∧
    (reqMod i f n).bootState = n.bootState ∧ (reqMod i f n).recovered = n.recovered ∧ (reqMod i f n).recSource = n.recSource ∧
    (reqMod i f n).recoverNext = n.recoverNext ∧ (reqMod i f n).calInvalid = n.calInvalid ∧
    (reqMod i f n).calPending = n.calPending ∧ (reqMod i f n).ethMode = n.ethMode ∧ (reqMod i f n).ethPorts = n.ethPorts ∧
    (reqMod i f n).discWin = n.discWin ∧ (reqMod i f n).sampleAt = n.sampleAt ∧ (reqMod i f n).pwr = n.pwr ∧
    (reqMod i f n).takeovers = n.takeovers ∧ (reqMod i f n).pwrfail = n.pwrfail ∧ (reqMod i f n).afterFatal = n.afterFatal ∧
    (reqMod i f n).requal = n.requal ∧ (reqMod i f n).sramCor = n.sramCor ∧ (reqMod i f n).sramFixed = n.sramFixed ∧
    (reqMod i f n).hsLost = n.hsLost ∧ (reqMod i f n).boot = n.boot ∧ (reqMod i f n).rcv = n.rcv ∧
    (reqMod i f n).parked = n.parked ∧ (reqMod i f n).staging = n.staging ∧ (reqMod i f n).flashJob = n.flashJob ∧
    (reqMod i f n).chunkOps = n.chunkOps ∧ (reqMod i f n).i3c = n.i3c ∧ (reqMod i f n).tap = n.tap ∧
    (reqMod i f n).sched = n.sched := by
  repeat' apply And.intro
  all_goals rfl

/-- `subMod` changes `subReqs` alone. -/
@[simp] theorem subMod_keeps (i : Nat) (f : SubReq → SubReq) (n : Node) :
    (subMod i f n).tick = n.tick ∧ (subMod i f n).free = n.free ∧ (subMod i f n).out = n.out ∧ (subMod i f n).regs = n.regs ∧
    (subMod i f n).cnts = n.cnts ∧ (subMod i f n).pages = n.pages ∧ (subMod i f n).latches = n.latches ∧
    (subMod i f n).jnl = n.jnl ∧ (subMod i f n).jnext = n.jnext ∧ (subMod i f n).mram = n.mram ∧
    (subMod i f n).topState = n.topState ∧ (subMod i f n).stopCause = n.stopCause ∧ (subMod i f n).tenants = n.tenants ∧
    (subMod i f n).tenDenied = n.tenDenied ∧ (subMod i f n).calEntry = n.calEntry ∧ (subMod i f n).qps = n.qps ∧
    (subMod i f n).nextQp = n.nextQp ∧ (subMod i f n).reqs = n.reqs ∧ (subMod i f n).nextReq = n.nextReq ∧
    (subMod i f n).nextTag = n.nextTag ∧ (subMod i f n).granted = n.granted ∧ (subMod i f n).lastAck = n.lastAck ∧
    (subMod i f n).gens = n.gens ∧ (subMod i f n).idxDedup = n.idxDedup ∧ (subMod i f n).shards = n.shards ∧
    (subMod i f n).openRows = n.openRows ∧ (subMod i f n).openPages = n.openPages ∧ (subMod i f n).dups = n.dups ∧
    (subMod i f n).dupLost = n.dupLost ∧ (subMod i f n).nextSub = n.nextSub ∧ (subMod i f n).walkQ = n.walkQ ∧
    (subMod i f n).ctxs = n.ctxs ∧ (subMod i f n).engs = n.engs ∧ (subMod i f n).lutPages = n.lutPages ∧
    (subMod i f n).replaced = n.replaced ∧ (subMod i f n).saved = n.saved ∧ (subMod i f n).nextWalk = n.nextWalk ∧
    (subMod i f n).clvs = n.clvs ∧ (subMod i f n).batches = n.batches ∧ (subMod i f n).passes = n.passes ∧
    (subMod i f n).nextPass = n.nextPass ∧ (subMod i f n).stks = n.stks ∧ (subMod i f n).poison = n.poison ∧
    (subMod i f n).nodeId = n.nodeId ∧ (subMod i f n).map = n.map ∧ (subMod i f n).units = n.units ∧
    (subMod i f n).fusedSpare = n.fusedSpare ∧ (subMod i f n).mmu = n.mmu ∧ (subMod i f n).ctxDead = n.ctxDead ∧
    (subMod i f n).shadows = n.shadows ∧ (subMod i f n).nextWork = n.nextWork ∧ (subMod i f n).ftl = n.ftl ∧
    (subMod i f n).links = n.links ∧ (subMod i f n).lanes = n.lanes ∧ (subMod i f n).cabling = n.cabling ∧
    (subMod i f n).quorum = n.quorum ∧ (subMod i f n).quorumLostAt = n.quorumLostAt ∧ (subMod i f n).seen = n.seen ∧
    (subMod i f n).bad = n.bad ∧ (subMod i f n).fenced = n.fenced ∧ (subMod i f n).heldMsgs = n.heldMsgs ∧
    (subMod i f n).awaits = n.awaits ∧ (subMod i f n).fwds = n.fwds ∧ (subMod i f n).heldSubs = n.heldSubs ∧
    (subMod i f n).oldMaps = n.oldMaps ∧ (subMod i f n).council = n.council ∧ (subMod i f n).suspicions = n.suspicions ∧
    (subMod i f n).mapHeard = n.mapHeard ∧ (subMod i f n).mapTimeouts = n.mapTimeouts ∧
    (subMod i f n).partialTimes = n.partialTimes ∧ (subMod i f n).slowRuns = n.slowRuns ∧ (subMod i f n).loadAt = n.loadAt ∧
    (subMod i f n).progs = n.progs ∧ (subMod i f n).nextProg = n.nextProg ∧ (subMod i f n).encoders = n.encoders ∧
    (subMod i f n).tnsTimes = n.tnsTimes ∧ (subMod i f n).tabs = n.tabs ∧ (subMod i f n).routes = n.routes ∧
    (subMod i f n).mapJobs = n.mapJobs ∧ (subMod i f n).fuses = n.fuses ∧ (subMod i f n).nonces = n.nonces ∧
    (subMod i f n).image = n.image ∧ (subMod i f n).calFlash = n.calFlash ∧ (subMod i f n).identity = n.identity ∧
    (subMod i f n).running = n.running ∧ (subMod i f n).calSet = n.calSet ∧ (subMod i f n).attCert = n.attCert ∧
    (subMod i f n).bootState = n.bootState ∧ (subMod i f n).recovered = n.recovered ∧ (subMod i f n).recSource = n.recSource ∧
    (subMod i f n).recoverNext = n.recoverNext ∧ (subMod i f n).calInvalid = n.calInvalid ∧
    (subMod i f n).calPending = n.calPending ∧ (subMod i f n).ethMode = n.ethMode ∧ (subMod i f n).ethPorts = n.ethPorts ∧
    (subMod i f n).discWin = n.discWin ∧ (subMod i f n).sampleAt = n.sampleAt ∧ (subMod i f n).pwr = n.pwr ∧
    (subMod i f n).takeovers = n.takeovers ∧ (subMod i f n).pwrfail = n.pwrfail ∧ (subMod i f n).afterFatal = n.afterFatal ∧
    (subMod i f n).requal = n.requal ∧ (subMod i f n).sramCor = n.sramCor ∧ (subMod i f n).sramFixed = n.sramFixed ∧
    (subMod i f n).hsLost = n.hsLost ∧ (subMod i f n).boot = n.boot ∧ (subMod i f n).rcv = n.rcv ∧
    (subMod i f n).parked = n.parked ∧ (subMod i f n).staging = n.staging ∧ (subMod i f n).flashJob = n.flashJob ∧
    (subMod i f n).chunkOps = n.chunkOps ∧ (subMod i f n).i3c = n.i3c ∧ (subMod i f n).tap = n.tap ∧
    (subMod i f n).sched = n.sched := by
  repeat' apply And.intro
  all_goals rfl

/-- `shardMod` changes `shards` alone. -/
@[simp] theorem shardMod_keeps (k : ShardKey) (f : Shard → Shard) (n : Node) :
    (shardMod k f n).tick = n.tick ∧ (shardMod k f n).free = n.free ∧ (shardMod k f n).out = n.out ∧
    (shardMod k f n).regs = n.regs ∧ (shardMod k f n).cnts = n.cnts ∧ (shardMod k f n).pages = n.pages ∧
    (shardMod k f n).latches = n.latches ∧ (shardMod k f n).jnl = n.jnl ∧ (shardMod k f n).jnext = n.jnext ∧
    (shardMod k f n).mram = n.mram ∧ (shardMod k f n).topState = n.topState ∧ (shardMod k f n).stopCause = n.stopCause ∧
    (shardMod k f n).tenants = n.tenants ∧ (shardMod k f n).tenDenied = n.tenDenied ∧ (shardMod k f n).calEntry = n.calEntry ∧
    (shardMod k f n).qps = n.qps ∧ (shardMod k f n).nextQp = n.nextQp ∧ (shardMod k f n).reqs = n.reqs ∧
    (shardMod k f n).nextReq = n.nextReq ∧ (shardMod k f n).nextTag = n.nextTag ∧ (shardMod k f n).granted = n.granted ∧
    (shardMod k f n).lastAck = n.lastAck ∧ (shardMod k f n).gens = n.gens ∧ (shardMod k f n).idxDedup = n.idxDedup ∧
    (shardMod k f n).openRows = n.openRows ∧ (shardMod k f n).openPages = n.openPages ∧ (shardMod k f n).dups = n.dups ∧
    (shardMod k f n).dupLost = n.dupLost ∧ (shardMod k f n).subReqs = n.subReqs ∧ (shardMod k f n).nextSub = n.nextSub ∧
    (shardMod k f n).walkQ = n.walkQ ∧ (shardMod k f n).ctxs = n.ctxs ∧ (shardMod k f n).engs = n.engs ∧
    (shardMod k f n).lutPages = n.lutPages ∧ (shardMod k f n).replaced = n.replaced ∧ (shardMod k f n).saved = n.saved ∧
    (shardMod k f n).nextWalk = n.nextWalk ∧ (shardMod k f n).clvs = n.clvs ∧ (shardMod k f n).batches = n.batches ∧
    (shardMod k f n).passes = n.passes ∧ (shardMod k f n).nextPass = n.nextPass ∧ (shardMod k f n).stks = n.stks ∧
    (shardMod k f n).poison = n.poison ∧ (shardMod k f n).nodeId = n.nodeId ∧ (shardMod k f n).map = n.map ∧
    (shardMod k f n).units = n.units ∧ (shardMod k f n).fusedSpare = n.fusedSpare ∧ (shardMod k f n).mmu = n.mmu ∧
    (shardMod k f n).ctxDead = n.ctxDead ∧ (shardMod k f n).shadows = n.shadows ∧ (shardMod k f n).nextWork = n.nextWork ∧
    (shardMod k f n).ftl = n.ftl ∧ (shardMod k f n).links = n.links ∧ (shardMod k f n).lanes = n.lanes ∧
    (shardMod k f n).cabling = n.cabling ∧ (shardMod k f n).quorum = n.quorum ∧ (shardMod k f n).quorumLostAt = n.quorumLostAt ∧
    (shardMod k f n).seen = n.seen ∧ (shardMod k f n).bad = n.bad ∧ (shardMod k f n).fenced = n.fenced ∧
    (shardMod k f n).heldMsgs = n.heldMsgs ∧ (shardMod k f n).awaits = n.awaits ∧ (shardMod k f n).fwds = n.fwds ∧
    (shardMod k f n).heldSubs = n.heldSubs ∧ (shardMod k f n).oldMaps = n.oldMaps ∧ (shardMod k f n).council = n.council ∧
    (shardMod k f n).suspicions = n.suspicions ∧ (shardMod k f n).mapHeard = n.mapHeard ∧
    (shardMod k f n).mapTimeouts = n.mapTimeouts ∧ (shardMod k f n).partialTimes = n.partialTimes ∧
    (shardMod k f n).slowRuns = n.slowRuns ∧ (shardMod k f n).loadAt = n.loadAt ∧ (shardMod k f n).progs = n.progs ∧
    (shardMod k f n).nextProg = n.nextProg ∧ (shardMod k f n).encoders = n.encoders ∧ (shardMod k f n).tnsTimes = n.tnsTimes ∧
    (shardMod k f n).tabs = n.tabs ∧ (shardMod k f n).routes = n.routes ∧ (shardMod k f n).mapJobs = n.mapJobs ∧
    (shardMod k f n).fuses = n.fuses ∧ (shardMod k f n).nonces = n.nonces ∧ (shardMod k f n).image = n.image ∧
    (shardMod k f n).calFlash = n.calFlash ∧ (shardMod k f n).identity = n.identity ∧ (shardMod k f n).running = n.running ∧
    (shardMod k f n).calSet = n.calSet ∧ (shardMod k f n).attCert = n.attCert ∧ (shardMod k f n).bootState = n.bootState ∧
    (shardMod k f n).recovered = n.recovered ∧ (shardMod k f n).recSource = n.recSource ∧
    (shardMod k f n).recoverNext = n.recoverNext ∧ (shardMod k f n).calInvalid = n.calInvalid ∧
    (shardMod k f n).calPending = n.calPending ∧ (shardMod k f n).ethMode = n.ethMode ∧ (shardMod k f n).ethPorts = n.ethPorts ∧
    (shardMod k f n).discWin = n.discWin ∧ (shardMod k f n).sampleAt = n.sampleAt ∧ (shardMod k f n).pwr = n.pwr ∧
    (shardMod k f n).takeovers = n.takeovers ∧ (shardMod k f n).pwrfail = n.pwrfail ∧
    (shardMod k f n).afterFatal = n.afterFatal ∧ (shardMod k f n).requal = n.requal ∧ (shardMod k f n).sramCor = n.sramCor ∧
    (shardMod k f n).sramFixed = n.sramFixed ∧ (shardMod k f n).hsLost = n.hsLost ∧ (shardMod k f n).boot = n.boot ∧
    (shardMod k f n).rcv = n.rcv ∧ (shardMod k f n).parked = n.parked ∧ (shardMod k f n).staging = n.staging ∧
    (shardMod k f n).flashJob = n.flashJob ∧ (shardMod k f n).chunkOps = n.chunkOps ∧ (shardMod k f n).i3c = n.i3c ∧
    (shardMod k f n).tap = n.tap ∧ (shardMod k f n).sched = n.sched := by
  repeat' apply And.intro
  all_goals rfl

/-- `putRow` changes `openRows` alone. -/
@[simp] theorem putRow_keeps (p r : Nat) (n : Node) :
    (putRow p r n).tick = n.tick ∧ (putRow p r n).free = n.free ∧ (putRow p r n).out = n.out ∧ (putRow p r n).regs = n.regs ∧
    (putRow p r n).cnts = n.cnts ∧ (putRow p r n).pages = n.pages ∧ (putRow p r n).latches = n.latches ∧
    (putRow p r n).jnl = n.jnl ∧ (putRow p r n).jnext = n.jnext ∧ (putRow p r n).mram = n.mram ∧
    (putRow p r n).topState = n.topState ∧ (putRow p r n).stopCause = n.stopCause ∧ (putRow p r n).tenants = n.tenants ∧
    (putRow p r n).tenDenied = n.tenDenied ∧ (putRow p r n).calEntry = n.calEntry ∧ (putRow p r n).qps = n.qps ∧
    (putRow p r n).nextQp = n.nextQp ∧ (putRow p r n).reqs = n.reqs ∧ (putRow p r n).nextReq = n.nextReq ∧
    (putRow p r n).nextTag = n.nextTag ∧ (putRow p r n).granted = n.granted ∧ (putRow p r n).lastAck = n.lastAck ∧
    (putRow p r n).gens = n.gens ∧ (putRow p r n).idxDedup = n.idxDedup ∧ (putRow p r n).shards = n.shards ∧
    (putRow p r n).openPages = n.openPages ∧ (putRow p r n).dups = n.dups ∧ (putRow p r n).dupLost = n.dupLost ∧
    (putRow p r n).subReqs = n.subReqs ∧ (putRow p r n).nextSub = n.nextSub ∧ (putRow p r n).walkQ = n.walkQ ∧
    (putRow p r n).ctxs = n.ctxs ∧ (putRow p r n).engs = n.engs ∧ (putRow p r n).lutPages = n.lutPages ∧
    (putRow p r n).replaced = n.replaced ∧ (putRow p r n).saved = n.saved ∧ (putRow p r n).nextWalk = n.nextWalk ∧
    (putRow p r n).clvs = n.clvs ∧ (putRow p r n).batches = n.batches ∧ (putRow p r n).passes = n.passes ∧
    (putRow p r n).nextPass = n.nextPass ∧ (putRow p r n).stks = n.stks ∧ (putRow p r n).poison = n.poison ∧
    (putRow p r n).nodeId = n.nodeId ∧ (putRow p r n).map = n.map ∧ (putRow p r n).units = n.units ∧
    (putRow p r n).fusedSpare = n.fusedSpare ∧ (putRow p r n).mmu = n.mmu ∧ (putRow p r n).ctxDead = n.ctxDead ∧
    (putRow p r n).shadows = n.shadows ∧ (putRow p r n).nextWork = n.nextWork ∧ (putRow p r n).ftl = n.ftl ∧
    (putRow p r n).links = n.links ∧ (putRow p r n).lanes = n.lanes ∧ (putRow p r n).cabling = n.cabling ∧
    (putRow p r n).quorum = n.quorum ∧ (putRow p r n).quorumLostAt = n.quorumLostAt ∧ (putRow p r n).seen = n.seen ∧
    (putRow p r n).bad = n.bad ∧ (putRow p r n).fenced = n.fenced ∧ (putRow p r n).heldMsgs = n.heldMsgs ∧
    (putRow p r n).awaits = n.awaits ∧ (putRow p r n).fwds = n.fwds ∧ (putRow p r n).heldSubs = n.heldSubs ∧
    (putRow p r n).oldMaps = n.oldMaps ∧ (putRow p r n).council = n.council ∧ (putRow p r n).suspicions = n.suspicions ∧
    (putRow p r n).mapHeard = n.mapHeard ∧ (putRow p r n).mapTimeouts = n.mapTimeouts ∧
    (putRow p r n).partialTimes = n.partialTimes ∧ (putRow p r n).slowRuns = n.slowRuns ∧ (putRow p r n).loadAt = n.loadAt ∧
    (putRow p r n).progs = n.progs ∧ (putRow p r n).nextProg = n.nextProg ∧ (putRow p r n).encoders = n.encoders ∧
    (putRow p r n).tnsTimes = n.tnsTimes ∧ (putRow p r n).tabs = n.tabs ∧ (putRow p r n).routes = n.routes ∧
    (putRow p r n).mapJobs = n.mapJobs ∧ (putRow p r n).fuses = n.fuses ∧ (putRow p r n).nonces = n.nonces ∧
    (putRow p r n).image = n.image ∧ (putRow p r n).calFlash = n.calFlash ∧ (putRow p r n).identity = n.identity ∧
    (putRow p r n).running = n.running ∧ (putRow p r n).calSet = n.calSet ∧ (putRow p r n).attCert = n.attCert ∧
    (putRow p r n).bootState = n.bootState ∧ (putRow p r n).recovered = n.recovered ∧ (putRow p r n).recSource = n.recSource ∧
    (putRow p r n).recoverNext = n.recoverNext ∧ (putRow p r n).calInvalid = n.calInvalid ∧
    (putRow p r n).calPending = n.calPending ∧ (putRow p r n).ethMode = n.ethMode ∧ (putRow p r n).ethPorts = n.ethPorts ∧
    (putRow p r n).discWin = n.discWin ∧ (putRow p r n).sampleAt = n.sampleAt ∧ (putRow p r n).pwr = n.pwr ∧
    (putRow p r n).takeovers = n.takeovers ∧ (putRow p r n).pwrfail = n.pwrfail ∧ (putRow p r n).afterFatal = n.afterFatal ∧
    (putRow p r n).requal = n.requal ∧ (putRow p r n).sramCor = n.sramCor ∧ (putRow p r n).sramFixed = n.sramFixed ∧
    (putRow p r n).hsLost = n.hsLost ∧ (putRow p r n).boot = n.boot ∧ (putRow p r n).rcv = n.rcv ∧
    (putRow p r n).parked = n.parked ∧ (putRow p r n).staging = n.staging ∧ (putRow p r n).flashJob = n.flashJob ∧
    (putRow p r n).chunkOps = n.chunkOps ∧ (putRow p r n).i3c = n.i3c ∧ (putRow p r n).tap = n.tap ∧
    (putRow p r n).sched = n.sched := by
  repeat' apply And.intro
  all_goals rfl

/-- `clvSet` changes `clvs` alone. -/
@[simp] theorem clvSet_keeps (k : Nat) (v : Clv) (n : Node) :
    (clvSet k v n).tick = n.tick ∧ (clvSet k v n).free = n.free ∧ (clvSet k v n).out = n.out ∧ (clvSet k v n).regs = n.regs ∧
    (clvSet k v n).cnts = n.cnts ∧ (clvSet k v n).pages = n.pages ∧ (clvSet k v n).latches = n.latches ∧
    (clvSet k v n).jnl = n.jnl ∧ (clvSet k v n).jnext = n.jnext ∧ (clvSet k v n).mram = n.mram ∧
    (clvSet k v n).topState = n.topState ∧ (clvSet k v n).stopCause = n.stopCause ∧ (clvSet k v n).tenants = n.tenants ∧
    (clvSet k v n).tenDenied = n.tenDenied ∧ (clvSet k v n).calEntry = n.calEntry ∧ (clvSet k v n).qps = n.qps ∧
    (clvSet k v n).nextQp = n.nextQp ∧ (clvSet k v n).reqs = n.reqs ∧ (clvSet k v n).nextReq = n.nextReq ∧
    (clvSet k v n).nextTag = n.nextTag ∧ (clvSet k v n).granted = n.granted ∧ (clvSet k v n).lastAck = n.lastAck ∧
    (clvSet k v n).gens = n.gens ∧ (clvSet k v n).idxDedup = n.idxDedup ∧ (clvSet k v n).shards = n.shards ∧
    (clvSet k v n).openRows = n.openRows ∧ (clvSet k v n).openPages = n.openPages ∧ (clvSet k v n).dups = n.dups ∧
    (clvSet k v n).dupLost = n.dupLost ∧ (clvSet k v n).subReqs = n.subReqs ∧ (clvSet k v n).nextSub = n.nextSub ∧
    (clvSet k v n).walkQ = n.walkQ ∧ (clvSet k v n).ctxs = n.ctxs ∧ (clvSet k v n).engs = n.engs ∧
    (clvSet k v n).lutPages = n.lutPages ∧ (clvSet k v n).replaced = n.replaced ∧ (clvSet k v n).saved = n.saved ∧
    (clvSet k v n).nextWalk = n.nextWalk ∧ (clvSet k v n).batches = n.batches ∧ (clvSet k v n).passes = n.passes ∧
    (clvSet k v n).nextPass = n.nextPass ∧ (clvSet k v n).stks = n.stks ∧ (clvSet k v n).poison = n.poison ∧
    (clvSet k v n).nodeId = n.nodeId ∧ (clvSet k v n).map = n.map ∧ (clvSet k v n).units = n.units ∧
    (clvSet k v n).fusedSpare = n.fusedSpare ∧ (clvSet k v n).mmu = n.mmu ∧ (clvSet k v n).ctxDead = n.ctxDead ∧
    (clvSet k v n).shadows = n.shadows ∧ (clvSet k v n).nextWork = n.nextWork ∧ (clvSet k v n).ftl = n.ftl ∧
    (clvSet k v n).links = n.links ∧ (clvSet k v n).lanes = n.lanes ∧ (clvSet k v n).cabling = n.cabling ∧
    (clvSet k v n).quorum = n.quorum ∧ (clvSet k v n).quorumLostAt = n.quorumLostAt ∧ (clvSet k v n).seen = n.seen ∧
    (clvSet k v n).bad = n.bad ∧ (clvSet k v n).fenced = n.fenced ∧ (clvSet k v n).heldMsgs = n.heldMsgs ∧
    (clvSet k v n).awaits = n.awaits ∧ (clvSet k v n).fwds = n.fwds ∧ (clvSet k v n).heldSubs = n.heldSubs ∧
    (clvSet k v n).oldMaps = n.oldMaps ∧ (clvSet k v n).council = n.council ∧ (clvSet k v n).suspicions = n.suspicions ∧
    (clvSet k v n).mapHeard = n.mapHeard ∧ (clvSet k v n).mapTimeouts = n.mapTimeouts ∧
    (clvSet k v n).partialTimes = n.partialTimes ∧ (clvSet k v n).slowRuns = n.slowRuns ∧ (clvSet k v n).loadAt = n.loadAt ∧
    (clvSet k v n).progs = n.progs ∧ (clvSet k v n).nextProg = n.nextProg ∧ (clvSet k v n).encoders = n.encoders ∧
    (clvSet k v n).tnsTimes = n.tnsTimes ∧ (clvSet k v n).tabs = n.tabs ∧ (clvSet k v n).routes = n.routes ∧
    (clvSet k v n).mapJobs = n.mapJobs ∧ (clvSet k v n).fuses = n.fuses ∧ (clvSet k v n).nonces = n.nonces ∧
    (clvSet k v n).image = n.image ∧ (clvSet k v n).calFlash = n.calFlash ∧ (clvSet k v n).identity = n.identity ∧
    (clvSet k v n).running = n.running ∧ (clvSet k v n).calSet = n.calSet ∧ (clvSet k v n).attCert = n.attCert ∧
    (clvSet k v n).bootState = n.bootState ∧ (clvSet k v n).recovered = n.recovered ∧ (clvSet k v n).recSource = n.recSource ∧
    (clvSet k v n).recoverNext = n.recoverNext ∧ (clvSet k v n).calInvalid = n.calInvalid ∧
    (clvSet k v n).calPending = n.calPending ∧ (clvSet k v n).ethMode = n.ethMode ∧ (clvSet k v n).ethPorts = n.ethPorts ∧
    (clvSet k v n).discWin = n.discWin ∧ (clvSet k v n).sampleAt = n.sampleAt ∧ (clvSet k v n).pwr = n.pwr ∧
    (clvSet k v n).takeovers = n.takeovers ∧ (clvSet k v n).pwrfail = n.pwrfail ∧ (clvSet k v n).afterFatal = n.afterFatal ∧
    (clvSet k v n).requal = n.requal ∧ (clvSet k v n).sramCor = n.sramCor ∧ (clvSet k v n).sramFixed = n.sramFixed ∧
    (clvSet k v n).hsLost = n.hsLost ∧ (clvSet k v n).boot = n.boot ∧ (clvSet k v n).rcv = n.rcv ∧
    (clvSet k v n).parked = n.parked ∧ (clvSet k v n).staging = n.staging ∧ (clvSet k v n).flashJob = n.flashJob ∧
    (clvSet k v n).chunkOps = n.chunkOps ∧ (clvSet k v n).i3c = n.i3c ∧ (clvSet k v n).tap = n.tap ∧
    (clvSet k v n).sched = n.sched := by
  repeat' apply And.intro
  all_goals rfl

/-- `passMod` changes `passes` alone. -/
@[simp] theorem passMod_keeps (k : Nat) (f : Pass → Pass) (n : Node) :
    (passMod k f n).tick = n.tick ∧ (passMod k f n).free = n.free ∧ (passMod k f n).out = n.out ∧
    (passMod k f n).regs = n.regs ∧ (passMod k f n).cnts = n.cnts ∧ (passMod k f n).pages = n.pages ∧
    (passMod k f n).latches = n.latches ∧ (passMod k f n).jnl = n.jnl ∧ (passMod k f n).jnext = n.jnext ∧
    (passMod k f n).mram = n.mram ∧ (passMod k f n).topState = n.topState ∧ (passMod k f n).stopCause = n.stopCause ∧
    (passMod k f n).tenants = n.tenants ∧ (passMod k f n).tenDenied = n.tenDenied ∧ (passMod k f n).calEntry = n.calEntry ∧
    (passMod k f n).qps = n.qps ∧ (passMod k f n).nextQp = n.nextQp ∧ (passMod k f n).reqs = n.reqs ∧
    (passMod k f n).nextReq = n.nextReq ∧ (passMod k f n).nextTag = n.nextTag ∧ (passMod k f n).granted = n.granted ∧
    (passMod k f n).lastAck = n.lastAck ∧ (passMod k f n).gens = n.gens ∧ (passMod k f n).idxDedup = n.idxDedup ∧
    (passMod k f n).shards = n.shards ∧ (passMod k f n).openRows = n.openRows ∧ (passMod k f n).openPages = n.openPages ∧
    (passMod k f n).dups = n.dups ∧ (passMod k f n).dupLost = n.dupLost ∧ (passMod k f n).subReqs = n.subReqs ∧
    (passMod k f n).nextSub = n.nextSub ∧ (passMod k f n).walkQ = n.walkQ ∧ (passMod k f n).ctxs = n.ctxs ∧
    (passMod k f n).engs = n.engs ∧ (passMod k f n).lutPages = n.lutPages ∧ (passMod k f n).replaced = n.replaced ∧
    (passMod k f n).saved = n.saved ∧ (passMod k f n).nextWalk = n.nextWalk ∧ (passMod k f n).clvs = n.clvs ∧
    (passMod k f n).batches = n.batches ∧ (passMod k f n).nextPass = n.nextPass ∧ (passMod k f n).stks = n.stks ∧
    (passMod k f n).poison = n.poison ∧ (passMod k f n).nodeId = n.nodeId ∧ (passMod k f n).map = n.map ∧
    (passMod k f n).units = n.units ∧ (passMod k f n).fusedSpare = n.fusedSpare ∧ (passMod k f n).mmu = n.mmu ∧
    (passMod k f n).ctxDead = n.ctxDead ∧ (passMod k f n).shadows = n.shadows ∧ (passMod k f n).nextWork = n.nextWork ∧
    (passMod k f n).ftl = n.ftl ∧ (passMod k f n).links = n.links ∧ (passMod k f n).lanes = n.lanes ∧
    (passMod k f n).cabling = n.cabling ∧ (passMod k f n).quorum = n.quorum ∧ (passMod k f n).quorumLostAt = n.quorumLostAt ∧
    (passMod k f n).seen = n.seen ∧ (passMod k f n).bad = n.bad ∧ (passMod k f n).fenced = n.fenced ∧
    (passMod k f n).heldMsgs = n.heldMsgs ∧ (passMod k f n).awaits = n.awaits ∧ (passMod k f n).fwds = n.fwds ∧
    (passMod k f n).heldSubs = n.heldSubs ∧ (passMod k f n).oldMaps = n.oldMaps ∧ (passMod k f n).council = n.council ∧
    (passMod k f n).suspicions = n.suspicions ∧ (passMod k f n).mapHeard = n.mapHeard ∧
    (passMod k f n).mapTimeouts = n.mapTimeouts ∧ (passMod k f n).partialTimes = n.partialTimes ∧
    (passMod k f n).slowRuns = n.slowRuns ∧ (passMod k f n).loadAt = n.loadAt ∧ (passMod k f n).progs = n.progs ∧
    (passMod k f n).nextProg = n.nextProg ∧ (passMod k f n).encoders = n.encoders ∧ (passMod k f n).tnsTimes = n.tnsTimes ∧
    (passMod k f n).tabs = n.tabs ∧ (passMod k f n).routes = n.routes ∧ (passMod k f n).mapJobs = n.mapJobs ∧
    (passMod k f n).fuses = n.fuses ∧ (passMod k f n).nonces = n.nonces ∧ (passMod k f n).image = n.image ∧
    (passMod k f n).calFlash = n.calFlash ∧ (passMod k f n).identity = n.identity ∧ (passMod k f n).running = n.running ∧
    (passMod k f n).calSet = n.calSet ∧ (passMod k f n).attCert = n.attCert ∧ (passMod k f n).bootState = n.bootState ∧
    (passMod k f n).recovered = n.recovered ∧ (passMod k f n).recSource = n.recSource ∧
    (passMod k f n).recoverNext = n.recoverNext ∧ (passMod k f n).calInvalid = n.calInvalid ∧
    (passMod k f n).calPending = n.calPending ∧ (passMod k f n).ethMode = n.ethMode ∧ (passMod k f n).ethPorts = n.ethPorts ∧
    (passMod k f n).discWin = n.discWin ∧ (passMod k f n).sampleAt = n.sampleAt ∧ (passMod k f n).pwr = n.pwr ∧
    (passMod k f n).takeovers = n.takeovers ∧ (passMod k f n).pwrfail = n.pwrfail ∧ (passMod k f n).afterFatal = n.afterFatal ∧
    (passMod k f n).requal = n.requal ∧ (passMod k f n).sramCor = n.sramCor ∧ (passMod k f n).sramFixed = n.sramFixed ∧
    (passMod k f n).hsLost = n.hsLost ∧ (passMod k f n).boot = n.boot ∧ (passMod k f n).rcv = n.rcv ∧
    (passMod k f n).parked = n.parked ∧ (passMod k f n).staging = n.staging ∧ (passMod k f n).flashJob = n.flashJob ∧
    (passMod k f n).chunkOps = n.chunkOps ∧ (passMod k f n).i3c = n.i3c ∧ (passMod k f n).tap = n.tap ∧
    (passMod k f n).sched = n.sched := by
  repeat' apply And.intro
  all_goals rfl

/-- `engSet` changes `engs` alone. -/
@[simp] theorem engSet_keeps (e : Nat) (v : Eng) (n : Node) :
    (engSet e v n).tick = n.tick ∧ (engSet e v n).free = n.free ∧ (engSet e v n).out = n.out ∧ (engSet e v n).regs = n.regs ∧
    (engSet e v n).cnts = n.cnts ∧ (engSet e v n).pages = n.pages ∧ (engSet e v n).latches = n.latches ∧
    (engSet e v n).jnl = n.jnl ∧ (engSet e v n).jnext = n.jnext ∧ (engSet e v n).mram = n.mram ∧
    (engSet e v n).topState = n.topState ∧ (engSet e v n).stopCause = n.stopCause ∧ (engSet e v n).tenants = n.tenants ∧
    (engSet e v n).tenDenied = n.tenDenied ∧ (engSet e v n).calEntry = n.calEntry ∧ (engSet e v n).qps = n.qps ∧
    (engSet e v n).nextQp = n.nextQp ∧ (engSet e v n).reqs = n.reqs ∧ (engSet e v n).nextReq = n.nextReq ∧
    (engSet e v n).nextTag = n.nextTag ∧ (engSet e v n).granted = n.granted ∧ (engSet e v n).lastAck = n.lastAck ∧
    (engSet e v n).gens = n.gens ∧ (engSet e v n).idxDedup = n.idxDedup ∧ (engSet e v n).shards = n.shards ∧
    (engSet e v n).openRows = n.openRows ∧ (engSet e v n).openPages = n.openPages ∧ (engSet e v n).dups = n.dups ∧
    (engSet e v n).dupLost = n.dupLost ∧ (engSet e v n).subReqs = n.subReqs ∧ (engSet e v n).nextSub = n.nextSub ∧
    (engSet e v n).walkQ = n.walkQ ∧ (engSet e v n).ctxs = n.ctxs ∧ (engSet e v n).lutPages = n.lutPages ∧
    (engSet e v n).replaced = n.replaced ∧ (engSet e v n).saved = n.saved ∧ (engSet e v n).nextWalk = n.nextWalk ∧
    (engSet e v n).clvs = n.clvs ∧ (engSet e v n).batches = n.batches ∧ (engSet e v n).passes = n.passes ∧
    (engSet e v n).nextPass = n.nextPass ∧ (engSet e v n).stks = n.stks ∧ (engSet e v n).poison = n.poison ∧
    (engSet e v n).nodeId = n.nodeId ∧ (engSet e v n).map = n.map ∧ (engSet e v n).units = n.units ∧
    (engSet e v n).fusedSpare = n.fusedSpare ∧ (engSet e v n).mmu = n.mmu ∧ (engSet e v n).ctxDead = n.ctxDead ∧
    (engSet e v n).shadows = n.shadows ∧ (engSet e v n).nextWork = n.nextWork ∧ (engSet e v n).ftl = n.ftl ∧
    (engSet e v n).links = n.links ∧ (engSet e v n).lanes = n.lanes ∧ (engSet e v n).cabling = n.cabling ∧
    (engSet e v n).quorum = n.quorum ∧ (engSet e v n).quorumLostAt = n.quorumLostAt ∧ (engSet e v n).seen = n.seen ∧
    (engSet e v n).bad = n.bad ∧ (engSet e v n).fenced = n.fenced ∧ (engSet e v n).heldMsgs = n.heldMsgs ∧
    (engSet e v n).awaits = n.awaits ∧ (engSet e v n).fwds = n.fwds ∧ (engSet e v n).heldSubs = n.heldSubs ∧
    (engSet e v n).oldMaps = n.oldMaps ∧ (engSet e v n).council = n.council ∧ (engSet e v n).suspicions = n.suspicions ∧
    (engSet e v n).mapHeard = n.mapHeard ∧ (engSet e v n).mapTimeouts = n.mapTimeouts ∧
    (engSet e v n).partialTimes = n.partialTimes ∧ (engSet e v n).slowRuns = n.slowRuns ∧ (engSet e v n).loadAt = n.loadAt ∧
    (engSet e v n).progs = n.progs ∧ (engSet e v n).nextProg = n.nextProg ∧ (engSet e v n).encoders = n.encoders ∧
    (engSet e v n).tnsTimes = n.tnsTimes ∧ (engSet e v n).tabs = n.tabs ∧ (engSet e v n).routes = n.routes ∧
    (engSet e v n).mapJobs = n.mapJobs ∧ (engSet e v n).fuses = n.fuses ∧ (engSet e v n).nonces = n.nonces ∧
    (engSet e v n).image = n.image ∧ (engSet e v n).calFlash = n.calFlash ∧ (engSet e v n).identity = n.identity ∧
    (engSet e v n).running = n.running ∧ (engSet e v n).calSet = n.calSet ∧ (engSet e v n).attCert = n.attCert ∧
    (engSet e v n).bootState = n.bootState ∧ (engSet e v n).recovered = n.recovered ∧ (engSet e v n).recSource = n.recSource ∧
    (engSet e v n).recoverNext = n.recoverNext ∧ (engSet e v n).calInvalid = n.calInvalid ∧
    (engSet e v n).calPending = n.calPending ∧ (engSet e v n).ethMode = n.ethMode ∧ (engSet e v n).ethPorts = n.ethPorts ∧
    (engSet e v n).discWin = n.discWin ∧ (engSet e v n).sampleAt = n.sampleAt ∧ (engSet e v n).pwr = n.pwr ∧
    (engSet e v n).takeovers = n.takeovers ∧ (engSet e v n).pwrfail = n.pwrfail ∧ (engSet e v n).afterFatal = n.afterFatal ∧
    (engSet e v n).requal = n.requal ∧ (engSet e v n).sramCor = n.sramCor ∧ (engSet e v n).sramFixed = n.sramFixed ∧
    (engSet e v n).hsLost = n.hsLost ∧ (engSet e v n).boot = n.boot ∧ (engSet e v n).rcv = n.rcv ∧
    (engSet e v n).parked = n.parked ∧ (engSet e v n).staging = n.staging ∧ (engSet e v n).flashJob = n.flashJob ∧
    (engSet e v n).chunkOps = n.chunkOps ∧ (engSet e v n).i3c = n.i3c ∧ (engSet e v n).tap = n.tap ∧
    (engSet e v n).sched = n.sched := by
  repeat' apply And.intro
  all_goals rfl

/-- `ctxSet` changes `ctxs` alone. -/
@[simp] theorem ctxSet_keeps (e c : Nat) (v : Option Ctx) (n : Node) :
    (ctxSet e c v n).tick = n.tick ∧ (ctxSet e c v n).free = n.free ∧ (ctxSet e c v n).out = n.out ∧
    (ctxSet e c v n).regs = n.regs ∧ (ctxSet e c v n).cnts = n.cnts ∧ (ctxSet e c v n).pages = n.pages ∧
    (ctxSet e c v n).latches = n.latches ∧ (ctxSet e c v n).jnl = n.jnl ∧ (ctxSet e c v n).jnext = n.jnext ∧
    (ctxSet e c v n).mram = n.mram ∧ (ctxSet e c v n).topState = n.topState ∧ (ctxSet e c v n).stopCause = n.stopCause ∧
    (ctxSet e c v n).tenants = n.tenants ∧ (ctxSet e c v n).tenDenied = n.tenDenied ∧ (ctxSet e c v n).calEntry = n.calEntry ∧
    (ctxSet e c v n).qps = n.qps ∧ (ctxSet e c v n).nextQp = n.nextQp ∧ (ctxSet e c v n).reqs = n.reqs ∧
    (ctxSet e c v n).nextReq = n.nextReq ∧ (ctxSet e c v n).nextTag = n.nextTag ∧ (ctxSet e c v n).granted = n.granted ∧
    (ctxSet e c v n).lastAck = n.lastAck ∧ (ctxSet e c v n).gens = n.gens ∧ (ctxSet e c v n).idxDedup = n.idxDedup ∧
    (ctxSet e c v n).shards = n.shards ∧ (ctxSet e c v n).openRows = n.openRows ∧ (ctxSet e c v n).openPages = n.openPages ∧
    (ctxSet e c v n).dups = n.dups ∧ (ctxSet e c v n).dupLost = n.dupLost ∧ (ctxSet e c v n).subReqs = n.subReqs ∧
    (ctxSet e c v n).nextSub = n.nextSub ∧ (ctxSet e c v n).walkQ = n.walkQ ∧ (ctxSet e c v n).engs = n.engs ∧
    (ctxSet e c v n).lutPages = n.lutPages ∧ (ctxSet e c v n).replaced = n.replaced ∧ (ctxSet e c v n).saved = n.saved ∧
    (ctxSet e c v n).nextWalk = n.nextWalk ∧ (ctxSet e c v n).clvs = n.clvs ∧ (ctxSet e c v n).batches = n.batches ∧
    (ctxSet e c v n).passes = n.passes ∧ (ctxSet e c v n).nextPass = n.nextPass ∧ (ctxSet e c v n).stks = n.stks ∧
    (ctxSet e c v n).poison = n.poison ∧ (ctxSet e c v n).nodeId = n.nodeId ∧ (ctxSet e c v n).map = n.map ∧
    (ctxSet e c v n).units = n.units ∧ (ctxSet e c v n).fusedSpare = n.fusedSpare ∧ (ctxSet e c v n).mmu = n.mmu ∧
    (ctxSet e c v n).ctxDead = n.ctxDead ∧ (ctxSet e c v n).shadows = n.shadows ∧ (ctxSet e c v n).nextWork = n.nextWork ∧
    (ctxSet e c v n).ftl = n.ftl ∧ (ctxSet e c v n).links = n.links ∧ (ctxSet e c v n).lanes = n.lanes ∧
    (ctxSet e c v n).cabling = n.cabling ∧ (ctxSet e c v n).quorum = n.quorum ∧ (ctxSet e c v n).quorumLostAt = n.quorumLostAt ∧
    (ctxSet e c v n).seen = n.seen ∧ (ctxSet e c v n).bad = n.bad ∧ (ctxSet e c v n).fenced = n.fenced ∧
    (ctxSet e c v n).heldMsgs = n.heldMsgs ∧ (ctxSet e c v n).awaits = n.awaits ∧ (ctxSet e c v n).fwds = n.fwds ∧
    (ctxSet e c v n).heldSubs = n.heldSubs ∧ (ctxSet e c v n).oldMaps = n.oldMaps ∧ (ctxSet e c v n).council = n.council ∧
    (ctxSet e c v n).suspicions = n.suspicions ∧ (ctxSet e c v n).mapHeard = n.mapHeard ∧
    (ctxSet e c v n).mapTimeouts = n.mapTimeouts ∧ (ctxSet e c v n).partialTimes = n.partialTimes ∧
    (ctxSet e c v n).slowRuns = n.slowRuns ∧ (ctxSet e c v n).loadAt = n.loadAt ∧ (ctxSet e c v n).progs = n.progs ∧
    (ctxSet e c v n).nextProg = n.nextProg ∧ (ctxSet e c v n).encoders = n.encoders ∧ (ctxSet e c v n).tnsTimes = n.tnsTimes ∧
    (ctxSet e c v n).tabs = n.tabs ∧ (ctxSet e c v n).routes = n.routes ∧ (ctxSet e c v n).mapJobs = n.mapJobs ∧
    (ctxSet e c v n).fuses = n.fuses ∧ (ctxSet e c v n).nonces = n.nonces ∧ (ctxSet e c v n).image = n.image ∧
    (ctxSet e c v n).calFlash = n.calFlash ∧ (ctxSet e c v n).identity = n.identity ∧ (ctxSet e c v n).running = n.running ∧
    (ctxSet e c v n).calSet = n.calSet ∧ (ctxSet e c v n).attCert = n.attCert ∧ (ctxSet e c v n).bootState = n.bootState ∧
    (ctxSet e c v n).recovered = n.recovered ∧ (ctxSet e c v n).recSource = n.recSource ∧
    (ctxSet e c v n).recoverNext = n.recoverNext ∧ (ctxSet e c v n).calInvalid = n.calInvalid ∧
    (ctxSet e c v n).calPending = n.calPending ∧ (ctxSet e c v n).ethMode = n.ethMode ∧ (ctxSet e c v n).ethPorts = n.ethPorts ∧
    (ctxSet e c v n).discWin = n.discWin ∧ (ctxSet e c v n).sampleAt = n.sampleAt ∧ (ctxSet e c v n).pwr = n.pwr ∧
    (ctxSet e c v n).takeovers = n.takeovers ∧ (ctxSet e c v n).pwrfail = n.pwrfail ∧
    (ctxSet e c v n).afterFatal = n.afterFatal ∧ (ctxSet e c v n).requal = n.requal ∧ (ctxSet e c v n).sramCor = n.sramCor ∧
    (ctxSet e c v n).sramFixed = n.sramFixed ∧ (ctxSet e c v n).hsLost = n.hsLost ∧ (ctxSet e c v n).boot = n.boot ∧
    (ctxSet e c v n).rcv = n.rcv ∧ (ctxSet e c v n).parked = n.parked ∧ (ctxSet e c v n).staging = n.staging ∧
    (ctxSet e c v n).flashJob = n.flashJob ∧ (ctxSet e c v n).chunkOps = n.chunkOps ∧ (ctxSet e c v n).i3c = n.i3c ∧
    (ctxSet e c v n).tap = n.tap ∧ (ctxSet e c v n).sched = n.sched := by
  repeat' apply And.intro
  all_goals rfl

/-- `stkSet` changes `stks` alone. -/
@[simp] theorem stkSet_keeps (k : Nat) (v : Stk) (n : Node) :
    (stkSet k v n).tick = n.tick ∧ (stkSet k v n).free = n.free ∧ (stkSet k v n).out = n.out ∧ (stkSet k v n).regs = n.regs ∧
    (stkSet k v n).cnts = n.cnts ∧ (stkSet k v n).pages = n.pages ∧ (stkSet k v n).latches = n.latches ∧
    (stkSet k v n).jnl = n.jnl ∧ (stkSet k v n).jnext = n.jnext ∧ (stkSet k v n).mram = n.mram ∧
    (stkSet k v n).topState = n.topState ∧ (stkSet k v n).stopCause = n.stopCause ∧ (stkSet k v n).tenants = n.tenants ∧
    (stkSet k v n).tenDenied = n.tenDenied ∧ (stkSet k v n).calEntry = n.calEntry ∧ (stkSet k v n).qps = n.qps ∧
    (stkSet k v n).nextQp = n.nextQp ∧ (stkSet k v n).reqs = n.reqs ∧ (stkSet k v n).nextReq = n.nextReq ∧
    (stkSet k v n).nextTag = n.nextTag ∧ (stkSet k v n).granted = n.granted ∧ (stkSet k v n).lastAck = n.lastAck ∧
    (stkSet k v n).gens = n.gens ∧ (stkSet k v n).idxDedup = n.idxDedup ∧ (stkSet k v n).shards = n.shards ∧
    (stkSet k v n).openRows = n.openRows ∧ (stkSet k v n).openPages = n.openPages ∧ (stkSet k v n).dups = n.dups ∧
    (stkSet k v n).dupLost = n.dupLost ∧ (stkSet k v n).subReqs = n.subReqs ∧ (stkSet k v n).nextSub = n.nextSub ∧
    (stkSet k v n).walkQ = n.walkQ ∧ (stkSet k v n).ctxs = n.ctxs ∧ (stkSet k v n).engs = n.engs ∧
    (stkSet k v n).lutPages = n.lutPages ∧ (stkSet k v n).replaced = n.replaced ∧ (stkSet k v n).saved = n.saved ∧
    (stkSet k v n).nextWalk = n.nextWalk ∧ (stkSet k v n).clvs = n.clvs ∧ (stkSet k v n).batches = n.batches ∧
    (stkSet k v n).passes = n.passes ∧ (stkSet k v n).nextPass = n.nextPass ∧ (stkSet k v n).poison = n.poison ∧
    (stkSet k v n).nodeId = n.nodeId ∧ (stkSet k v n).map = n.map ∧ (stkSet k v n).units = n.units ∧
    (stkSet k v n).fusedSpare = n.fusedSpare ∧ (stkSet k v n).mmu = n.mmu ∧ (stkSet k v n).ctxDead = n.ctxDead ∧
    (stkSet k v n).shadows = n.shadows ∧ (stkSet k v n).nextWork = n.nextWork ∧ (stkSet k v n).ftl = n.ftl ∧
    (stkSet k v n).links = n.links ∧ (stkSet k v n).lanes = n.lanes ∧ (stkSet k v n).cabling = n.cabling ∧
    (stkSet k v n).quorum = n.quorum ∧ (stkSet k v n).quorumLostAt = n.quorumLostAt ∧ (stkSet k v n).seen = n.seen ∧
    (stkSet k v n).bad = n.bad ∧ (stkSet k v n).fenced = n.fenced ∧ (stkSet k v n).heldMsgs = n.heldMsgs ∧
    (stkSet k v n).awaits = n.awaits ∧ (stkSet k v n).fwds = n.fwds ∧ (stkSet k v n).heldSubs = n.heldSubs ∧
    (stkSet k v n).oldMaps = n.oldMaps ∧ (stkSet k v n).council = n.council ∧ (stkSet k v n).suspicions = n.suspicions ∧
    (stkSet k v n).mapHeard = n.mapHeard ∧ (stkSet k v n).mapTimeouts = n.mapTimeouts ∧
    (stkSet k v n).partialTimes = n.partialTimes ∧ (stkSet k v n).slowRuns = n.slowRuns ∧ (stkSet k v n).loadAt = n.loadAt ∧
    (stkSet k v n).progs = n.progs ∧ (stkSet k v n).nextProg = n.nextProg ∧ (stkSet k v n).encoders = n.encoders ∧
    (stkSet k v n).tnsTimes = n.tnsTimes ∧ (stkSet k v n).tabs = n.tabs ∧ (stkSet k v n).routes = n.routes ∧
    (stkSet k v n).mapJobs = n.mapJobs ∧ (stkSet k v n).fuses = n.fuses ∧ (stkSet k v n).nonces = n.nonces ∧
    (stkSet k v n).image = n.image ∧ (stkSet k v n).calFlash = n.calFlash ∧ (stkSet k v n).identity = n.identity ∧
    (stkSet k v n).running = n.running ∧ (stkSet k v n).calSet = n.calSet ∧ (stkSet k v n).attCert = n.attCert ∧
    (stkSet k v n).bootState = n.bootState ∧ (stkSet k v n).recovered = n.recovered ∧ (stkSet k v n).recSource = n.recSource ∧
    (stkSet k v n).recoverNext = n.recoverNext ∧ (stkSet k v n).calInvalid = n.calInvalid ∧
    (stkSet k v n).calPending = n.calPending ∧ (stkSet k v n).ethMode = n.ethMode ∧ (stkSet k v n).ethPorts = n.ethPorts ∧
    (stkSet k v n).discWin = n.discWin ∧ (stkSet k v n).sampleAt = n.sampleAt ∧ (stkSet k v n).pwr = n.pwr ∧
    (stkSet k v n).takeovers = n.takeovers ∧ (stkSet k v n).pwrfail = n.pwrfail ∧ (stkSet k v n).afterFatal = n.afterFatal ∧
    (stkSet k v n).requal = n.requal ∧ (stkSet k v n).sramCor = n.sramCor ∧ (stkSet k v n).sramFixed = n.sramFixed ∧
    (stkSet k v n).hsLost = n.hsLost ∧ (stkSet k v n).boot = n.boot ∧ (stkSet k v n).rcv = n.rcv ∧
    (stkSet k v n).parked = n.parked ∧ (stkSet k v n).staging = n.staging ∧ (stkSet k v n).flashJob = n.flashJob ∧
    (stkSet k v n).chunkOps = n.chunkOps ∧ (stkSet k v n).i3c = n.i3c ∧ (stkSet k v n).tap = n.tap ∧
    (stkSet k v n).sched = n.sched := by
  repeat' apply And.intro
  all_goals rfl

/-- `unitSet` changes `units` alone. -/
@[simp] theorem unitSet_keeps (p : Nat) (v : UnitSt) (n : Node) :
    (unitSet p v n).tick = n.tick ∧ (unitSet p v n).free = n.free ∧ (unitSet p v n).out = n.out ∧
    (unitSet p v n).regs = n.regs ∧ (unitSet p v n).cnts = n.cnts ∧ (unitSet p v n).pages = n.pages ∧
    (unitSet p v n).latches = n.latches ∧ (unitSet p v n).jnl = n.jnl ∧ (unitSet p v n).jnext = n.jnext ∧
    (unitSet p v n).mram = n.mram ∧ (unitSet p v n).topState = n.topState ∧ (unitSet p v n).stopCause = n.stopCause ∧
    (unitSet p v n).tenants = n.tenants ∧ (unitSet p v n).tenDenied = n.tenDenied ∧ (unitSet p v n).calEntry = n.calEntry ∧
    (unitSet p v n).qps = n.qps ∧ (unitSet p v n).nextQp = n.nextQp ∧ (unitSet p v n).reqs = n.reqs ∧
    (unitSet p v n).nextReq = n.nextReq ∧ (unitSet p v n).nextTag = n.nextTag ∧ (unitSet p v n).granted = n.granted ∧
    (unitSet p v n).lastAck = n.lastAck ∧ (unitSet p v n).gens = n.gens ∧ (unitSet p v n).idxDedup = n.idxDedup ∧
    (unitSet p v n).shards = n.shards ∧ (unitSet p v n).openRows = n.openRows ∧ (unitSet p v n).openPages = n.openPages ∧
    (unitSet p v n).dups = n.dups ∧ (unitSet p v n).dupLost = n.dupLost ∧ (unitSet p v n).subReqs = n.subReqs ∧
    (unitSet p v n).nextSub = n.nextSub ∧ (unitSet p v n).walkQ = n.walkQ ∧ (unitSet p v n).ctxs = n.ctxs ∧
    (unitSet p v n).engs = n.engs ∧ (unitSet p v n).lutPages = n.lutPages ∧ (unitSet p v n).replaced = n.replaced ∧
    (unitSet p v n).saved = n.saved ∧ (unitSet p v n).nextWalk = n.nextWalk ∧ (unitSet p v n).clvs = n.clvs ∧
    (unitSet p v n).batches = n.batches ∧ (unitSet p v n).passes = n.passes ∧ (unitSet p v n).nextPass = n.nextPass ∧
    (unitSet p v n).stks = n.stks ∧ (unitSet p v n).poison = n.poison ∧ (unitSet p v n).nodeId = n.nodeId ∧
    (unitSet p v n).map = n.map ∧ (unitSet p v n).fusedSpare = n.fusedSpare ∧ (unitSet p v n).mmu = n.mmu ∧
    (unitSet p v n).ctxDead = n.ctxDead ∧ (unitSet p v n).shadows = n.shadows ∧ (unitSet p v n).nextWork = n.nextWork ∧
    (unitSet p v n).ftl = n.ftl ∧ (unitSet p v n).links = n.links ∧ (unitSet p v n).lanes = n.lanes ∧
    (unitSet p v n).cabling = n.cabling ∧ (unitSet p v n).quorum = n.quorum ∧ (unitSet p v n).quorumLostAt = n.quorumLostAt ∧
    (unitSet p v n).seen = n.seen ∧ (unitSet p v n).bad = n.bad ∧ (unitSet p v n).fenced = n.fenced ∧
    (unitSet p v n).heldMsgs = n.heldMsgs ∧ (unitSet p v n).awaits = n.awaits ∧ (unitSet p v n).fwds = n.fwds ∧
    (unitSet p v n).heldSubs = n.heldSubs ∧ (unitSet p v n).oldMaps = n.oldMaps ∧ (unitSet p v n).council = n.council ∧
    (unitSet p v n).suspicions = n.suspicions ∧ (unitSet p v n).mapHeard = n.mapHeard ∧
    (unitSet p v n).mapTimeouts = n.mapTimeouts ∧ (unitSet p v n).partialTimes = n.partialTimes ∧
    (unitSet p v n).slowRuns = n.slowRuns ∧ (unitSet p v n).loadAt = n.loadAt ∧ (unitSet p v n).progs = n.progs ∧
    (unitSet p v n).nextProg = n.nextProg ∧ (unitSet p v n).encoders = n.encoders ∧ (unitSet p v n).tnsTimes = n.tnsTimes ∧
    (unitSet p v n).tabs = n.tabs ∧ (unitSet p v n).routes = n.routes ∧ (unitSet p v n).mapJobs = n.mapJobs ∧
    (unitSet p v n).fuses = n.fuses ∧ (unitSet p v n).nonces = n.nonces ∧ (unitSet p v n).image = n.image ∧
    (unitSet p v n).calFlash = n.calFlash ∧ (unitSet p v n).identity = n.identity ∧ (unitSet p v n).running = n.running ∧
    (unitSet p v n).calSet = n.calSet ∧ (unitSet p v n).attCert = n.attCert ∧ (unitSet p v n).bootState = n.bootState ∧
    (unitSet p v n).recovered = n.recovered ∧ (unitSet p v n).recSource = n.recSource ∧
    (unitSet p v n).recoverNext = n.recoverNext ∧ (unitSet p v n).calInvalid = n.calInvalid ∧
    (unitSet p v n).calPending = n.calPending ∧ (unitSet p v n).ethMode = n.ethMode ∧ (unitSet p v n).ethPorts = n.ethPorts ∧
    (unitSet p v n).discWin = n.discWin ∧ (unitSet p v n).sampleAt = n.sampleAt ∧ (unitSet p v n).pwr = n.pwr ∧
    (unitSet p v n).takeovers = n.takeovers ∧ (unitSet p v n).pwrfail = n.pwrfail ∧ (unitSet p v n).afterFatal = n.afterFatal ∧
    (unitSet p v n).requal = n.requal ∧ (unitSet p v n).sramCor = n.sramCor ∧ (unitSet p v n).sramFixed = n.sramFixed ∧
    (unitSet p v n).hsLost = n.hsLost ∧ (unitSet p v n).boot = n.boot ∧ (unitSet p v n).rcv = n.rcv ∧
    (unitSet p v n).parked = n.parked ∧ (unitSet p v n).staging = n.staging ∧ (unitSet p v n).flashJob = n.flashJob ∧
    (unitSet p v n).chunkOps = n.chunkOps ∧ (unitSet p v n).i3c = n.i3c ∧ (unitSet p v n).tap = n.tap ∧
    (unitSet p v n).sched = n.sched := by
  repeat' apply And.intro
  all_goals rfl

/-- `dmaSet` changes `mmu` alone. -/
@[simp] theorem dmaSet_keeps (c : Nat) (d : Dma) (n : Node) :
    (dmaSet c d n).tick = n.tick ∧ (dmaSet c d n).free = n.free ∧ (dmaSet c d n).out = n.out ∧ (dmaSet c d n).regs = n.regs ∧
    (dmaSet c d n).cnts = n.cnts ∧ (dmaSet c d n).pages = n.pages ∧ (dmaSet c d n).latches = n.latches ∧
    (dmaSet c d n).jnl = n.jnl ∧ (dmaSet c d n).jnext = n.jnext ∧ (dmaSet c d n).mram = n.mram ∧
    (dmaSet c d n).topState = n.topState ∧ (dmaSet c d n).stopCause = n.stopCause ∧ (dmaSet c d n).tenants = n.tenants ∧
    (dmaSet c d n).tenDenied = n.tenDenied ∧ (dmaSet c d n).calEntry = n.calEntry ∧ (dmaSet c d n).qps = n.qps ∧
    (dmaSet c d n).nextQp = n.nextQp ∧ (dmaSet c d n).reqs = n.reqs ∧ (dmaSet c d n).nextReq = n.nextReq ∧
    (dmaSet c d n).nextTag = n.nextTag ∧ (dmaSet c d n).granted = n.granted ∧ (dmaSet c d n).lastAck = n.lastAck ∧
    (dmaSet c d n).gens = n.gens ∧ (dmaSet c d n).idxDedup = n.idxDedup ∧ (dmaSet c d n).shards = n.shards ∧
    (dmaSet c d n).openRows = n.openRows ∧ (dmaSet c d n).openPages = n.openPages ∧ (dmaSet c d n).dups = n.dups ∧
    (dmaSet c d n).dupLost = n.dupLost ∧ (dmaSet c d n).subReqs = n.subReqs ∧ (dmaSet c d n).nextSub = n.nextSub ∧
    (dmaSet c d n).walkQ = n.walkQ ∧ (dmaSet c d n).ctxs = n.ctxs ∧ (dmaSet c d n).engs = n.engs ∧
    (dmaSet c d n).lutPages = n.lutPages ∧ (dmaSet c d n).replaced = n.replaced ∧ (dmaSet c d n).saved = n.saved ∧
    (dmaSet c d n).nextWalk = n.nextWalk ∧ (dmaSet c d n).clvs = n.clvs ∧ (dmaSet c d n).batches = n.batches ∧
    (dmaSet c d n).passes = n.passes ∧ (dmaSet c d n).nextPass = n.nextPass ∧ (dmaSet c d n).stks = n.stks ∧
    (dmaSet c d n).poison = n.poison ∧ (dmaSet c d n).nodeId = n.nodeId ∧ (dmaSet c d n).map = n.map ∧
    (dmaSet c d n).units = n.units ∧ (dmaSet c d n).fusedSpare = n.fusedSpare ∧ (dmaSet c d n).ctxDead = n.ctxDead ∧
    (dmaSet c d n).shadows = n.shadows ∧ (dmaSet c d n).nextWork = n.nextWork ∧ (dmaSet c d n).ftl = n.ftl ∧
    (dmaSet c d n).links = n.links ∧ (dmaSet c d n).lanes = n.lanes ∧ (dmaSet c d n).cabling = n.cabling ∧
    (dmaSet c d n).quorum = n.quorum ∧ (dmaSet c d n).quorumLostAt = n.quorumLostAt ∧ (dmaSet c d n).seen = n.seen ∧
    (dmaSet c d n).bad = n.bad ∧ (dmaSet c d n).fenced = n.fenced ∧ (dmaSet c d n).heldMsgs = n.heldMsgs ∧
    (dmaSet c d n).awaits = n.awaits ∧ (dmaSet c d n).fwds = n.fwds ∧ (dmaSet c d n).heldSubs = n.heldSubs ∧
    (dmaSet c d n).oldMaps = n.oldMaps ∧ (dmaSet c d n).council = n.council ∧ (dmaSet c d n).suspicions = n.suspicions ∧
    (dmaSet c d n).mapHeard = n.mapHeard ∧ (dmaSet c d n).mapTimeouts = n.mapTimeouts ∧
    (dmaSet c d n).partialTimes = n.partialTimes ∧ (dmaSet c d n).slowRuns = n.slowRuns ∧ (dmaSet c d n).loadAt = n.loadAt ∧
    (dmaSet c d n).progs = n.progs ∧ (dmaSet c d n).nextProg = n.nextProg ∧ (dmaSet c d n).encoders = n.encoders ∧
    (dmaSet c d n).tnsTimes = n.tnsTimes ∧ (dmaSet c d n).tabs = n.tabs ∧ (dmaSet c d n).routes = n.routes ∧
    (dmaSet c d n).mapJobs = n.mapJobs ∧ (dmaSet c d n).fuses = n.fuses ∧ (dmaSet c d n).nonces = n.nonces ∧
    (dmaSet c d n).image = n.image ∧ (dmaSet c d n).calFlash = n.calFlash ∧ (dmaSet c d n).identity = n.identity ∧
    (dmaSet c d n).running = n.running ∧ (dmaSet c d n).calSet = n.calSet ∧ (dmaSet c d n).attCert = n.attCert ∧
    (dmaSet c d n).bootState = n.bootState ∧ (dmaSet c d n).recovered = n.recovered ∧ (dmaSet c d n).recSource = n.recSource ∧
    (dmaSet c d n).recoverNext = n.recoverNext ∧ (dmaSet c d n).calInvalid = n.calInvalid ∧
    (dmaSet c d n).calPending = n.calPending ∧ (dmaSet c d n).ethMode = n.ethMode ∧ (dmaSet c d n).ethPorts = n.ethPorts ∧
    (dmaSet c d n).discWin = n.discWin ∧ (dmaSet c d n).sampleAt = n.sampleAt ∧ (dmaSet c d n).pwr = n.pwr ∧
    (dmaSet c d n).takeovers = n.takeovers ∧ (dmaSet c d n).pwrfail = n.pwrfail ∧ (dmaSet c d n).afterFatal = n.afterFatal ∧
    (dmaSet c d n).requal = n.requal ∧ (dmaSet c d n).sramCor = n.sramCor ∧ (dmaSet c d n).sramFixed = n.sramFixed ∧
    (dmaSet c d n).hsLost = n.hsLost ∧ (dmaSet c d n).boot = n.boot ∧ (dmaSet c d n).rcv = n.rcv ∧
    (dmaSet c d n).parked = n.parked ∧ (dmaSet c d n).staging = n.staging ∧ (dmaSet c d n).flashJob = n.flashJob ∧
    (dmaSet c d n).chunkOps = n.chunkOps ∧ (dmaSet c d n).i3c = n.i3c ∧ (dmaSet c d n).tap = n.tap ∧
    (dmaSet c d n).sched = n.sched := by
  repeat' apply And.intro
  all_goals rfl

/-- `quotaSet` changes `mmu` alone. -/
@[simp] theorem quotaSet_keeps (t : Nat) (q : Quota) (n : Node) :
    (quotaSet t q n).tick = n.tick ∧ (quotaSet t q n).free = n.free ∧ (quotaSet t q n).out = n.out ∧
    (quotaSet t q n).regs = n.regs ∧ (quotaSet t q n).cnts = n.cnts ∧ (quotaSet t q n).pages = n.pages ∧
    (quotaSet t q n).latches = n.latches ∧ (quotaSet t q n).jnl = n.jnl ∧ (quotaSet t q n).jnext = n.jnext ∧
    (quotaSet t q n).mram = n.mram ∧ (quotaSet t q n).topState = n.topState ∧ (quotaSet t q n).stopCause = n.stopCause ∧
    (quotaSet t q n).tenants = n.tenants ∧ (quotaSet t q n).tenDenied = n.tenDenied ∧ (quotaSet t q n).calEntry = n.calEntry ∧
    (quotaSet t q n).qps = n.qps ∧ (quotaSet t q n).nextQp = n.nextQp ∧ (quotaSet t q n).reqs = n.reqs ∧
    (quotaSet t q n).nextReq = n.nextReq ∧ (quotaSet t q n).nextTag = n.nextTag ∧ (quotaSet t q n).granted = n.granted ∧
    (quotaSet t q n).lastAck = n.lastAck ∧ (quotaSet t q n).gens = n.gens ∧ (quotaSet t q n).idxDedup = n.idxDedup ∧
    (quotaSet t q n).shards = n.shards ∧ (quotaSet t q n).openRows = n.openRows ∧ (quotaSet t q n).openPages = n.openPages ∧
    (quotaSet t q n).dups = n.dups ∧ (quotaSet t q n).dupLost = n.dupLost ∧ (quotaSet t q n).subReqs = n.subReqs ∧
    (quotaSet t q n).nextSub = n.nextSub ∧ (quotaSet t q n).walkQ = n.walkQ ∧ (quotaSet t q n).ctxs = n.ctxs ∧
    (quotaSet t q n).engs = n.engs ∧ (quotaSet t q n).lutPages = n.lutPages ∧ (quotaSet t q n).replaced = n.replaced ∧
    (quotaSet t q n).saved = n.saved ∧ (quotaSet t q n).nextWalk = n.nextWalk ∧ (quotaSet t q n).clvs = n.clvs ∧
    (quotaSet t q n).batches = n.batches ∧ (quotaSet t q n).passes = n.passes ∧ (quotaSet t q n).nextPass = n.nextPass ∧
    (quotaSet t q n).stks = n.stks ∧ (quotaSet t q n).poison = n.poison ∧ (quotaSet t q n).nodeId = n.nodeId ∧
    (quotaSet t q n).map = n.map ∧ (quotaSet t q n).units = n.units ∧ (quotaSet t q n).fusedSpare = n.fusedSpare ∧
    (quotaSet t q n).ctxDead = n.ctxDead ∧ (quotaSet t q n).shadows = n.shadows ∧ (quotaSet t q n).nextWork = n.nextWork ∧
    (quotaSet t q n).ftl = n.ftl ∧ (quotaSet t q n).links = n.links ∧ (quotaSet t q n).lanes = n.lanes ∧
    (quotaSet t q n).cabling = n.cabling ∧ (quotaSet t q n).quorum = n.quorum ∧ (quotaSet t q n).quorumLostAt = n.quorumLostAt ∧
    (quotaSet t q n).seen = n.seen ∧ (quotaSet t q n).bad = n.bad ∧ (quotaSet t q n).fenced = n.fenced ∧
    (quotaSet t q n).heldMsgs = n.heldMsgs ∧ (quotaSet t q n).awaits = n.awaits ∧ (quotaSet t q n).fwds = n.fwds ∧
    (quotaSet t q n).heldSubs = n.heldSubs ∧ (quotaSet t q n).oldMaps = n.oldMaps ∧ (quotaSet t q n).council = n.council ∧
    (quotaSet t q n).suspicions = n.suspicions ∧ (quotaSet t q n).mapHeard = n.mapHeard ∧
    (quotaSet t q n).mapTimeouts = n.mapTimeouts ∧ (quotaSet t q n).partialTimes = n.partialTimes ∧
    (quotaSet t q n).slowRuns = n.slowRuns ∧ (quotaSet t q n).loadAt = n.loadAt ∧ (quotaSet t q n).progs = n.progs ∧
    (quotaSet t q n).nextProg = n.nextProg ∧ (quotaSet t q n).encoders = n.encoders ∧ (quotaSet t q n).tnsTimes = n.tnsTimes ∧
    (quotaSet t q n).tabs = n.tabs ∧ (quotaSet t q n).routes = n.routes ∧ (quotaSet t q n).mapJobs = n.mapJobs ∧
    (quotaSet t q n).fuses = n.fuses ∧ (quotaSet t q n).nonces = n.nonces ∧ (quotaSet t q n).image = n.image ∧
    (quotaSet t q n).calFlash = n.calFlash ∧ (quotaSet t q n).identity = n.identity ∧ (quotaSet t q n).running = n.running ∧
    (quotaSet t q n).calSet = n.calSet ∧ (quotaSet t q n).attCert = n.attCert ∧ (quotaSet t q n).bootState = n.bootState ∧
    (quotaSet t q n).recovered = n.recovered ∧ (quotaSet t q n).recSource = n.recSource ∧
    (quotaSet t q n).recoverNext = n.recoverNext ∧ (quotaSet t q n).calInvalid = n.calInvalid ∧
    (quotaSet t q n).calPending = n.calPending ∧ (quotaSet t q n).ethMode = n.ethMode ∧ (quotaSet t q n).ethPorts = n.ethPorts ∧
    (quotaSet t q n).discWin = n.discWin ∧ (quotaSet t q n).sampleAt = n.sampleAt ∧ (quotaSet t q n).pwr = n.pwr ∧
    (quotaSet t q n).takeovers = n.takeovers ∧ (quotaSet t q n).pwrfail = n.pwrfail ∧
    (quotaSet t q n).afterFatal = n.afterFatal ∧ (quotaSet t q n).requal = n.requal ∧ (quotaSet t q n).sramCor = n.sramCor ∧
    (quotaSet t q n).sramFixed = n.sramFixed ∧ (quotaSet t q n).hsLost = n.hsLost ∧ (quotaSet t q n).boot = n.boot ∧
    (quotaSet t q n).rcv = n.rcv ∧ (quotaSet t q n).parked = n.parked ∧ (quotaSet t q n).staging = n.staging ∧
    (quotaSet t q n).flashJob = n.flashJob ∧ (quotaSet t q n).chunkOps = n.chunkOps ∧ (quotaSet t q n).i3c = n.i3c ∧
    (quotaSet t q n).tap = n.tap ∧ (quotaSet t q n).sched = n.sched := by
  repeat' apply And.intro
  all_goals rfl

/-- `laneSet` changes `lanes` alone. -/
@[simp] theorem laneSet_keeps (i : Nat) (l : Lane) (n : Node) :
    (laneSet i l n).tick = n.tick ∧ (laneSet i l n).free = n.free ∧ (laneSet i l n).out = n.out ∧
    (laneSet i l n).regs = n.regs ∧ (laneSet i l n).cnts = n.cnts ∧ (laneSet i l n).pages = n.pages ∧
    (laneSet i l n).latches = n.latches ∧ (laneSet i l n).jnl = n.jnl ∧ (laneSet i l n).jnext = n.jnext ∧
    (laneSet i l n).mram = n.mram ∧ (laneSet i l n).topState = n.topState ∧ (laneSet i l n).stopCause = n.stopCause ∧
    (laneSet i l n).tenants = n.tenants ∧ (laneSet i l n).tenDenied = n.tenDenied ∧ (laneSet i l n).calEntry = n.calEntry ∧
    (laneSet i l n).qps = n.qps ∧ (laneSet i l n).nextQp = n.nextQp ∧ (laneSet i l n).reqs = n.reqs ∧
    (laneSet i l n).nextReq = n.nextReq ∧ (laneSet i l n).nextTag = n.nextTag ∧ (laneSet i l n).granted = n.granted ∧
    (laneSet i l n).lastAck = n.lastAck ∧ (laneSet i l n).gens = n.gens ∧ (laneSet i l n).idxDedup = n.idxDedup ∧
    (laneSet i l n).shards = n.shards ∧ (laneSet i l n).openRows = n.openRows ∧ (laneSet i l n).openPages = n.openPages ∧
    (laneSet i l n).dups = n.dups ∧ (laneSet i l n).dupLost = n.dupLost ∧ (laneSet i l n).subReqs = n.subReqs ∧
    (laneSet i l n).nextSub = n.nextSub ∧ (laneSet i l n).walkQ = n.walkQ ∧ (laneSet i l n).ctxs = n.ctxs ∧
    (laneSet i l n).engs = n.engs ∧ (laneSet i l n).lutPages = n.lutPages ∧ (laneSet i l n).replaced = n.replaced ∧
    (laneSet i l n).saved = n.saved ∧ (laneSet i l n).nextWalk = n.nextWalk ∧ (laneSet i l n).clvs = n.clvs ∧
    (laneSet i l n).batches = n.batches ∧ (laneSet i l n).passes = n.passes ∧ (laneSet i l n).nextPass = n.nextPass ∧
    (laneSet i l n).stks = n.stks ∧ (laneSet i l n).poison = n.poison ∧ (laneSet i l n).nodeId = n.nodeId ∧
    (laneSet i l n).map = n.map ∧ (laneSet i l n).units = n.units ∧ (laneSet i l n).fusedSpare = n.fusedSpare ∧
    (laneSet i l n).mmu = n.mmu ∧ (laneSet i l n).ctxDead = n.ctxDead ∧ (laneSet i l n).shadows = n.shadows ∧
    (laneSet i l n).nextWork = n.nextWork ∧ (laneSet i l n).ftl = n.ftl ∧ (laneSet i l n).links = n.links ∧
    (laneSet i l n).cabling = n.cabling ∧ (laneSet i l n).quorum = n.quorum ∧ (laneSet i l n).quorumLostAt = n.quorumLostAt ∧
    (laneSet i l n).seen = n.seen ∧ (laneSet i l n).bad = n.bad ∧ (laneSet i l n).fenced = n.fenced ∧
    (laneSet i l n).heldMsgs = n.heldMsgs ∧ (laneSet i l n).awaits = n.awaits ∧ (laneSet i l n).fwds = n.fwds ∧
    (laneSet i l n).heldSubs = n.heldSubs ∧ (laneSet i l n).oldMaps = n.oldMaps ∧ (laneSet i l n).council = n.council ∧
    (laneSet i l n).suspicions = n.suspicions ∧ (laneSet i l n).mapHeard = n.mapHeard ∧
    (laneSet i l n).mapTimeouts = n.mapTimeouts ∧ (laneSet i l n).partialTimes = n.partialTimes ∧
    (laneSet i l n).slowRuns = n.slowRuns ∧ (laneSet i l n).loadAt = n.loadAt ∧ (laneSet i l n).progs = n.progs ∧
    (laneSet i l n).nextProg = n.nextProg ∧ (laneSet i l n).encoders = n.encoders ∧ (laneSet i l n).tnsTimes = n.tnsTimes ∧
    (laneSet i l n).tabs = n.tabs ∧ (laneSet i l n).routes = n.routes ∧ (laneSet i l n).mapJobs = n.mapJobs ∧
    (laneSet i l n).fuses = n.fuses ∧ (laneSet i l n).nonces = n.nonces ∧ (laneSet i l n).image = n.image ∧
    (laneSet i l n).calFlash = n.calFlash ∧ (laneSet i l n).identity = n.identity ∧ (laneSet i l n).running = n.running ∧
    (laneSet i l n).calSet = n.calSet ∧ (laneSet i l n).attCert = n.attCert ∧ (laneSet i l n).bootState = n.bootState ∧
    (laneSet i l n).recovered = n.recovered ∧ (laneSet i l n).recSource = n.recSource ∧
    (laneSet i l n).recoverNext = n.recoverNext ∧ (laneSet i l n).calInvalid = n.calInvalid ∧
    (laneSet i l n).calPending = n.calPending ∧ (laneSet i l n).ethMode = n.ethMode ∧ (laneSet i l n).ethPorts = n.ethPorts ∧
    (laneSet i l n).discWin = n.discWin ∧ (laneSet i l n).sampleAt = n.sampleAt ∧ (laneSet i l n).pwr = n.pwr ∧
    (laneSet i l n).takeovers = n.takeovers ∧ (laneSet i l n).pwrfail = n.pwrfail ∧ (laneSet i l n).afterFatal = n.afterFatal ∧
    (laneSet i l n).requal = n.requal ∧ (laneSet i l n).sramCor = n.sramCor ∧ (laneSet i l n).sramFixed = n.sramFixed ∧
    (laneSet i l n).hsLost = n.hsLost ∧ (laneSet i l n).boot = n.boot ∧ (laneSet i l n).rcv = n.rcv ∧
    (laneSet i l n).parked = n.parked ∧ (laneSet i l n).staging = n.staging ∧ (laneSet i l n).flashJob = n.flashJob ∧
    (laneSet i l n).chunkOps = n.chunkOps ∧ (laneSet i l n).i3c = n.i3c ∧ (laneSet i l n).tap = n.tap ∧
    (laneSet i l n).sched = n.sched := by
  repeat' apply And.intro
  all_goals rfl

/-- `linkSet` changes `links` alone. -/
@[simp] theorem linkSet_keeps (i : Nat) (l : Link) (n : Node) :
    (linkSet i l n).tick = n.tick ∧ (linkSet i l n).free = n.free ∧ (linkSet i l n).out = n.out ∧
    (linkSet i l n).regs = n.regs ∧ (linkSet i l n).cnts = n.cnts ∧ (linkSet i l n).pages = n.pages ∧
    (linkSet i l n).latches = n.latches ∧ (linkSet i l n).jnl = n.jnl ∧ (linkSet i l n).jnext = n.jnext ∧
    (linkSet i l n).mram = n.mram ∧ (linkSet i l n).topState = n.topState ∧ (linkSet i l n).stopCause = n.stopCause ∧
    (linkSet i l n).tenants = n.tenants ∧ (linkSet i l n).tenDenied = n.tenDenied ∧ (linkSet i l n).calEntry = n.calEntry ∧
    (linkSet i l n).qps = n.qps ∧ (linkSet i l n).nextQp = n.nextQp ∧ (linkSet i l n).reqs = n.reqs ∧
    (linkSet i l n).nextReq = n.nextReq ∧ (linkSet i l n).nextTag = n.nextTag ∧ (linkSet i l n).granted = n.granted ∧
    (linkSet i l n).lastAck = n.lastAck ∧ (linkSet i l n).gens = n.gens ∧ (linkSet i l n).idxDedup = n.idxDedup ∧
    (linkSet i l n).shards = n.shards ∧ (linkSet i l n).openRows = n.openRows ∧ (linkSet i l n).openPages = n.openPages ∧
    (linkSet i l n).dups = n.dups ∧ (linkSet i l n).dupLost = n.dupLost ∧ (linkSet i l n).subReqs = n.subReqs ∧
    (linkSet i l n).nextSub = n.nextSub ∧ (linkSet i l n).walkQ = n.walkQ ∧ (linkSet i l n).ctxs = n.ctxs ∧
    (linkSet i l n).engs = n.engs ∧ (linkSet i l n).lutPages = n.lutPages ∧ (linkSet i l n).replaced = n.replaced ∧
    (linkSet i l n).saved = n.saved ∧ (linkSet i l n).nextWalk = n.nextWalk ∧ (linkSet i l n).clvs = n.clvs ∧
    (linkSet i l n).batches = n.batches ∧ (linkSet i l n).passes = n.passes ∧ (linkSet i l n).nextPass = n.nextPass ∧
    (linkSet i l n).stks = n.stks ∧ (linkSet i l n).poison = n.poison ∧ (linkSet i l n).nodeId = n.nodeId ∧
    (linkSet i l n).map = n.map ∧ (linkSet i l n).units = n.units ∧ (linkSet i l n).fusedSpare = n.fusedSpare ∧
    (linkSet i l n).mmu = n.mmu ∧ (linkSet i l n).ctxDead = n.ctxDead ∧ (linkSet i l n).shadows = n.shadows ∧
    (linkSet i l n).nextWork = n.nextWork ∧ (linkSet i l n).ftl = n.ftl ∧ (linkSet i l n).lanes = n.lanes ∧
    (linkSet i l n).cabling = n.cabling ∧ (linkSet i l n).quorum = n.quorum ∧ (linkSet i l n).quorumLostAt = n.quorumLostAt ∧
    (linkSet i l n).seen = n.seen ∧ (linkSet i l n).bad = n.bad ∧ (linkSet i l n).fenced = n.fenced ∧
    (linkSet i l n).heldMsgs = n.heldMsgs ∧ (linkSet i l n).awaits = n.awaits ∧ (linkSet i l n).fwds = n.fwds ∧
    (linkSet i l n).heldSubs = n.heldSubs ∧ (linkSet i l n).oldMaps = n.oldMaps ∧ (linkSet i l n).council = n.council ∧
    (linkSet i l n).suspicions = n.suspicions ∧ (linkSet i l n).mapHeard = n.mapHeard ∧
    (linkSet i l n).mapTimeouts = n.mapTimeouts ∧ (linkSet i l n).partialTimes = n.partialTimes ∧
    (linkSet i l n).slowRuns = n.slowRuns ∧ (linkSet i l n).loadAt = n.loadAt ∧ (linkSet i l n).progs = n.progs ∧
    (linkSet i l n).nextProg = n.nextProg ∧ (linkSet i l n).encoders = n.encoders ∧ (linkSet i l n).tnsTimes = n.tnsTimes ∧
    (linkSet i l n).tabs = n.tabs ∧ (linkSet i l n).routes = n.routes ∧ (linkSet i l n).mapJobs = n.mapJobs ∧
    (linkSet i l n).fuses = n.fuses ∧ (linkSet i l n).nonces = n.nonces ∧ (linkSet i l n).image = n.image ∧
    (linkSet i l n).calFlash = n.calFlash ∧ (linkSet i l n).identity = n.identity ∧ (linkSet i l n).running = n.running ∧
    (linkSet i l n).calSet = n.calSet ∧ (linkSet i l n).attCert = n.attCert ∧ (linkSet i l n).bootState = n.bootState ∧
    (linkSet i l n).recovered = n.recovered ∧ (linkSet i l n).recSource = n.recSource ∧
    (linkSet i l n).recoverNext = n.recoverNext ∧ (linkSet i l n).calInvalid = n.calInvalid ∧
    (linkSet i l n).calPending = n.calPending ∧ (linkSet i l n).ethMode = n.ethMode ∧ (linkSet i l n).ethPorts = n.ethPorts ∧
    (linkSet i l n).discWin = n.discWin ∧ (linkSet i l n).sampleAt = n.sampleAt ∧ (linkSet i l n).pwr = n.pwr ∧
    (linkSet i l n).takeovers = n.takeovers ∧ (linkSet i l n).pwrfail = n.pwrfail ∧ (linkSet i l n).afterFatal = n.afterFatal ∧
    (linkSet i l n).requal = n.requal ∧ (linkSet i l n).sramCor = n.sramCor ∧ (linkSet i l n).sramFixed = n.sramFixed ∧
    (linkSet i l n).hsLost = n.hsLost ∧ (linkSet i l n).boot = n.boot ∧ (linkSet i l n).rcv = n.rcv ∧
    (linkSet i l n).parked = n.parked ∧ (linkSet i l n).staging = n.staging ∧ (linkSet i l n).flashJob = n.flashJob ∧
    (linkSet i l n).chunkOps = n.chunkOps ∧ (linkSet i l n).i3c = n.i3c ∧ (linkSet i l n).tap = n.tap ∧
    (linkSet i l n).sched = n.sched := by
  repeat' apply And.intro
  all_goals rfl

/-- `linkMod` changes `links` alone. -/
@[simp] theorem linkMod_keeps (i : Nat) (f : Link → Link) (n : Node) :
    (linkMod i f n).tick = n.tick ∧ (linkMod i f n).free = n.free ∧ (linkMod i f n).out = n.out ∧
    (linkMod i f n).regs = n.regs ∧ (linkMod i f n).cnts = n.cnts ∧ (linkMod i f n).pages = n.pages ∧
    (linkMod i f n).latches = n.latches ∧ (linkMod i f n).jnl = n.jnl ∧ (linkMod i f n).jnext = n.jnext ∧
    (linkMod i f n).mram = n.mram ∧ (linkMod i f n).topState = n.topState ∧ (linkMod i f n).stopCause = n.stopCause ∧
    (linkMod i f n).tenants = n.tenants ∧ (linkMod i f n).tenDenied = n.tenDenied ∧ (linkMod i f n).calEntry = n.calEntry ∧
    (linkMod i f n).qps = n.qps ∧ (linkMod i f n).nextQp = n.nextQp ∧ (linkMod i f n).reqs = n.reqs ∧
    (linkMod i f n).nextReq = n.nextReq ∧ (linkMod i f n).nextTag = n.nextTag ∧ (linkMod i f n).granted = n.granted ∧
    (linkMod i f n).lastAck = n.lastAck ∧ (linkMod i f n).gens = n.gens ∧ (linkMod i f n).idxDedup = n.idxDedup ∧
    (linkMod i f n).shards = n.shards ∧ (linkMod i f n).openRows = n.openRows ∧ (linkMod i f n).openPages = n.openPages ∧
    (linkMod i f n).dups = n.dups ∧ (linkMod i f n).dupLost = n.dupLost ∧ (linkMod i f n).subReqs = n.subReqs ∧
    (linkMod i f n).nextSub = n.nextSub ∧ (linkMod i f n).walkQ = n.walkQ ∧ (linkMod i f n).ctxs = n.ctxs ∧
    (linkMod i f n).engs = n.engs ∧ (linkMod i f n).lutPages = n.lutPages ∧ (linkMod i f n).replaced = n.replaced ∧
    (linkMod i f n).saved = n.saved ∧ (linkMod i f n).nextWalk = n.nextWalk ∧ (linkMod i f n).clvs = n.clvs ∧
    (linkMod i f n).batches = n.batches ∧ (linkMod i f n).passes = n.passes ∧ (linkMod i f n).nextPass = n.nextPass ∧
    (linkMod i f n).stks = n.stks ∧ (linkMod i f n).poison = n.poison ∧ (linkMod i f n).nodeId = n.nodeId ∧
    (linkMod i f n).map = n.map ∧ (linkMod i f n).units = n.units ∧ (linkMod i f n).fusedSpare = n.fusedSpare ∧
    (linkMod i f n).mmu = n.mmu ∧ (linkMod i f n).ctxDead = n.ctxDead ∧ (linkMod i f n).shadows = n.shadows ∧
    (linkMod i f n).nextWork = n.nextWork ∧ (linkMod i f n).ftl = n.ftl ∧ (linkMod i f n).lanes = n.lanes ∧
    (linkMod i f n).cabling = n.cabling ∧ (linkMod i f n).quorum = n.quorum ∧ (linkMod i f n).quorumLostAt = n.quorumLostAt ∧
    (linkMod i f n).seen = n.seen ∧ (linkMod i f n).bad = n.bad ∧ (linkMod i f n).fenced = n.fenced ∧
    (linkMod i f n).heldMsgs = n.heldMsgs ∧ (linkMod i f n).awaits = n.awaits ∧ (linkMod i f n).fwds = n.fwds ∧
    (linkMod i f n).heldSubs = n.heldSubs ∧ (linkMod i f n).oldMaps = n.oldMaps ∧ (linkMod i f n).council = n.council ∧
    (linkMod i f n).suspicions = n.suspicions ∧ (linkMod i f n).mapHeard = n.mapHeard ∧
    (linkMod i f n).mapTimeouts = n.mapTimeouts ∧ (linkMod i f n).partialTimes = n.partialTimes ∧
    (linkMod i f n).slowRuns = n.slowRuns ∧ (linkMod i f n).loadAt = n.loadAt ∧ (linkMod i f n).progs = n.progs ∧
    (linkMod i f n).nextProg = n.nextProg ∧ (linkMod i f n).encoders = n.encoders ∧ (linkMod i f n).tnsTimes = n.tnsTimes ∧
    (linkMod i f n).tabs = n.tabs ∧ (linkMod i f n).routes = n.routes ∧ (linkMod i f n).mapJobs = n.mapJobs ∧
    (linkMod i f n).fuses = n.fuses ∧ (linkMod i f n).nonces = n.nonces ∧ (linkMod i f n).image = n.image ∧
    (linkMod i f n).calFlash = n.calFlash ∧ (linkMod i f n).identity = n.identity ∧ (linkMod i f n).running = n.running ∧
    (linkMod i f n).calSet = n.calSet ∧ (linkMod i f n).attCert = n.attCert ∧ (linkMod i f n).bootState = n.bootState ∧
    (linkMod i f n).recovered = n.recovered ∧ (linkMod i f n).recSource = n.recSource ∧
    (linkMod i f n).recoverNext = n.recoverNext ∧ (linkMod i f n).calInvalid = n.calInvalid ∧
    (linkMod i f n).calPending = n.calPending ∧ (linkMod i f n).ethMode = n.ethMode ∧ (linkMod i f n).ethPorts = n.ethPorts ∧
    (linkMod i f n).discWin = n.discWin ∧ (linkMod i f n).sampleAt = n.sampleAt ∧ (linkMod i f n).pwr = n.pwr ∧
    (linkMod i f n).takeovers = n.takeovers ∧ (linkMod i f n).pwrfail = n.pwrfail ∧ (linkMod i f n).afterFatal = n.afterFatal ∧
    (linkMod i f n).requal = n.requal ∧ (linkMod i f n).sramCor = n.sramCor ∧ (linkMod i f n).sramFixed = n.sramFixed ∧
    (linkMod i f n).hsLost = n.hsLost ∧ (linkMod i f n).boot = n.boot ∧ (linkMod i f n).rcv = n.rcv ∧
    (linkMod i f n).parked = n.parked ∧ (linkMod i f n).staging = n.staging ∧ (linkMod i f n).flashJob = n.flashJob ∧
    (linkMod i f n).chunkOps = n.chunkOps ∧ (linkMod i f n).i3c = n.i3c ∧ (linkMod i f n).tap = n.tap ∧
    (linkMod i f n).sched = n.sched := by
  unfold linkMod; (try dsimp only); split <;> (repeat' apply And.intro) <;> rfl

/-- `ethSet` changes `ethPorts` alone. -/
@[simp] theorem ethSet_keeps (p : Nat) (v : EthPort) (n : Node) :
    (ethSet p v n).tick = n.tick ∧ (ethSet p v n).free = n.free ∧ (ethSet p v n).out = n.out ∧ (ethSet p v n).regs = n.regs ∧
    (ethSet p v n).cnts = n.cnts ∧ (ethSet p v n).pages = n.pages ∧ (ethSet p v n).latches = n.latches ∧
    (ethSet p v n).jnl = n.jnl ∧ (ethSet p v n).jnext = n.jnext ∧ (ethSet p v n).mram = n.mram ∧
    (ethSet p v n).topState = n.topState ∧ (ethSet p v n).stopCause = n.stopCause ∧ (ethSet p v n).tenants = n.tenants ∧
    (ethSet p v n).tenDenied = n.tenDenied ∧ (ethSet p v n).calEntry = n.calEntry ∧ (ethSet p v n).qps = n.qps ∧
    (ethSet p v n).nextQp = n.nextQp ∧ (ethSet p v n).reqs = n.reqs ∧ (ethSet p v n).nextReq = n.nextReq ∧
    (ethSet p v n).nextTag = n.nextTag ∧ (ethSet p v n).granted = n.granted ∧ (ethSet p v n).lastAck = n.lastAck ∧
    (ethSet p v n).gens = n.gens ∧ (ethSet p v n).idxDedup = n.idxDedup ∧ (ethSet p v n).shards = n.shards ∧
    (ethSet p v n).openRows = n.openRows ∧ (ethSet p v n).openPages = n.openPages ∧ (ethSet p v n).dups = n.dups ∧
    (ethSet p v n).dupLost = n.dupLost ∧ (ethSet p v n).subReqs = n.subReqs ∧ (ethSet p v n).nextSub = n.nextSub ∧
    (ethSet p v n).walkQ = n.walkQ ∧ (ethSet p v n).ctxs = n.ctxs ∧ (ethSet p v n).engs = n.engs ∧
    (ethSet p v n).lutPages = n.lutPages ∧ (ethSet p v n).replaced = n.replaced ∧ (ethSet p v n).saved = n.saved ∧
    (ethSet p v n).nextWalk = n.nextWalk ∧ (ethSet p v n).clvs = n.clvs ∧ (ethSet p v n).batches = n.batches ∧
    (ethSet p v n).passes = n.passes ∧ (ethSet p v n).nextPass = n.nextPass ∧ (ethSet p v n).stks = n.stks ∧
    (ethSet p v n).poison = n.poison ∧ (ethSet p v n).nodeId = n.nodeId ∧ (ethSet p v n).map = n.map ∧
    (ethSet p v n).units = n.units ∧ (ethSet p v n).fusedSpare = n.fusedSpare ∧ (ethSet p v n).mmu = n.mmu ∧
    (ethSet p v n).ctxDead = n.ctxDead ∧ (ethSet p v n).shadows = n.shadows ∧ (ethSet p v n).nextWork = n.nextWork ∧
    (ethSet p v n).ftl = n.ftl ∧ (ethSet p v n).links = n.links ∧ (ethSet p v n).lanes = n.lanes ∧
    (ethSet p v n).cabling = n.cabling ∧ (ethSet p v n).quorum = n.quorum ∧ (ethSet p v n).quorumLostAt = n.quorumLostAt ∧
    (ethSet p v n).seen = n.seen ∧ (ethSet p v n).bad = n.bad ∧ (ethSet p v n).fenced = n.fenced ∧
    (ethSet p v n).heldMsgs = n.heldMsgs ∧ (ethSet p v n).awaits = n.awaits ∧ (ethSet p v n).fwds = n.fwds ∧
    (ethSet p v n).heldSubs = n.heldSubs ∧ (ethSet p v n).oldMaps = n.oldMaps ∧ (ethSet p v n).council = n.council ∧
    (ethSet p v n).suspicions = n.suspicions ∧ (ethSet p v n).mapHeard = n.mapHeard ∧
    (ethSet p v n).mapTimeouts = n.mapTimeouts ∧ (ethSet p v n).partialTimes = n.partialTimes ∧
    (ethSet p v n).slowRuns = n.slowRuns ∧ (ethSet p v n).loadAt = n.loadAt ∧ (ethSet p v n).progs = n.progs ∧
    (ethSet p v n).nextProg = n.nextProg ∧ (ethSet p v n).encoders = n.encoders ∧ (ethSet p v n).tnsTimes = n.tnsTimes ∧
    (ethSet p v n).tabs = n.tabs ∧ (ethSet p v n).routes = n.routes ∧ (ethSet p v n).mapJobs = n.mapJobs ∧
    (ethSet p v n).fuses = n.fuses ∧ (ethSet p v n).nonces = n.nonces ∧ (ethSet p v n).image = n.image ∧
    (ethSet p v n).calFlash = n.calFlash ∧ (ethSet p v n).identity = n.identity ∧ (ethSet p v n).running = n.running ∧
    (ethSet p v n).calSet = n.calSet ∧ (ethSet p v n).attCert = n.attCert ∧ (ethSet p v n).bootState = n.bootState ∧
    (ethSet p v n).recovered = n.recovered ∧ (ethSet p v n).recSource = n.recSource ∧
    (ethSet p v n).recoverNext = n.recoverNext ∧ (ethSet p v n).calInvalid = n.calInvalid ∧
    (ethSet p v n).calPending = n.calPending ∧ (ethSet p v n).ethMode = n.ethMode ∧ (ethSet p v n).discWin = n.discWin ∧
    (ethSet p v n).sampleAt = n.sampleAt ∧ (ethSet p v n).pwr = n.pwr ∧ (ethSet p v n).takeovers = n.takeovers ∧
    (ethSet p v n).pwrfail = n.pwrfail ∧ (ethSet p v n).afterFatal = n.afterFatal ∧ (ethSet p v n).requal = n.requal ∧
    (ethSet p v n).sramCor = n.sramCor ∧ (ethSet p v n).sramFixed = n.sramFixed ∧ (ethSet p v n).hsLost = n.hsLost ∧
    (ethSet p v n).boot = n.boot ∧ (ethSet p v n).rcv = n.rcv ∧ (ethSet p v n).parked = n.parked ∧
    (ethSet p v n).staging = n.staging ∧ (ethSet p v n).flashJob = n.flashJob ∧ (ethSet p v n).chunkOps = n.chunkOps ∧
    (ethSet p v n).i3c = n.i3c ∧ (ethSet p v n).tap = n.tap ∧ (ethSet p v n).sched = n.sched := by
  repeat' apply And.intro
  all_goals rfl

/-- `pwrMod` changes `pwr` alone. -/
@[simp] theorem pwrMod_keeps (f : PwrSt → PwrSt) (n : Node) :
    (pwrMod f n).tick = n.tick ∧ (pwrMod f n).free = n.free ∧ (pwrMod f n).out = n.out ∧ (pwrMod f n).regs = n.regs ∧
    (pwrMod f n).cnts = n.cnts ∧ (pwrMod f n).pages = n.pages ∧ (pwrMod f n).latches = n.latches ∧ (pwrMod f n).jnl = n.jnl ∧
    (pwrMod f n).jnext = n.jnext ∧ (pwrMod f n).mram = n.mram ∧ (pwrMod f n).topState = n.topState ∧
    (pwrMod f n).stopCause = n.stopCause ∧ (pwrMod f n).tenants = n.tenants ∧ (pwrMod f n).tenDenied = n.tenDenied ∧
    (pwrMod f n).calEntry = n.calEntry ∧ (pwrMod f n).qps = n.qps ∧ (pwrMod f n).nextQp = n.nextQp ∧
    (pwrMod f n).reqs = n.reqs ∧ (pwrMod f n).nextReq = n.nextReq ∧ (pwrMod f n).nextTag = n.nextTag ∧
    (pwrMod f n).granted = n.granted ∧ (pwrMod f n).lastAck = n.lastAck ∧ (pwrMod f n).gens = n.gens ∧
    (pwrMod f n).idxDedup = n.idxDedup ∧ (pwrMod f n).shards = n.shards ∧ (pwrMod f n).openRows = n.openRows ∧
    (pwrMod f n).openPages = n.openPages ∧ (pwrMod f n).dups = n.dups ∧ (pwrMod f n).dupLost = n.dupLost ∧
    (pwrMod f n).subReqs = n.subReqs ∧ (pwrMod f n).nextSub = n.nextSub ∧ (pwrMod f n).walkQ = n.walkQ ∧
    (pwrMod f n).ctxs = n.ctxs ∧ (pwrMod f n).engs = n.engs ∧ (pwrMod f n).lutPages = n.lutPages ∧
    (pwrMod f n).replaced = n.replaced ∧ (pwrMod f n).saved = n.saved ∧ (pwrMod f n).nextWalk = n.nextWalk ∧
    (pwrMod f n).clvs = n.clvs ∧ (pwrMod f n).batches = n.batches ∧ (pwrMod f n).passes = n.passes ∧
    (pwrMod f n).nextPass = n.nextPass ∧ (pwrMod f n).stks = n.stks ∧ (pwrMod f n).poison = n.poison ∧
    (pwrMod f n).nodeId = n.nodeId ∧ (pwrMod f n).map = n.map ∧ (pwrMod f n).units = n.units ∧
    (pwrMod f n).fusedSpare = n.fusedSpare ∧ (pwrMod f n).mmu = n.mmu ∧ (pwrMod f n).ctxDead = n.ctxDead ∧
    (pwrMod f n).shadows = n.shadows ∧ (pwrMod f n).nextWork = n.nextWork ∧ (pwrMod f n).ftl = n.ftl ∧
    (pwrMod f n).links = n.links ∧ (pwrMod f n).lanes = n.lanes ∧ (pwrMod f n).cabling = n.cabling ∧
    (pwrMod f n).quorum = n.quorum ∧ (pwrMod f n).quorumLostAt = n.quorumLostAt ∧ (pwrMod f n).seen = n.seen ∧
    (pwrMod f n).bad = n.bad ∧ (pwrMod f n).fenced = n.fenced ∧ (pwrMod f n).heldMsgs = n.heldMsgs ∧
    (pwrMod f n).awaits = n.awaits ∧ (pwrMod f n).fwds = n.fwds ∧ (pwrMod f n).heldSubs = n.heldSubs ∧
    (pwrMod f n).oldMaps = n.oldMaps ∧ (pwrMod f n).council = n.council ∧ (pwrMod f n).suspicions = n.suspicions ∧
    (pwrMod f n).mapHeard = n.mapHeard ∧ (pwrMod f n).mapTimeouts = n.mapTimeouts ∧ (pwrMod f n).partialTimes = n.partialTimes ∧
    (pwrMod f n).slowRuns = n.slowRuns ∧ (pwrMod f n).loadAt = n.loadAt ∧ (pwrMod f n).progs = n.progs ∧
    (pwrMod f n).nextProg = n.nextProg ∧ (pwrMod f n).encoders = n.encoders ∧ (pwrMod f n).tnsTimes = n.tnsTimes ∧
    (pwrMod f n).tabs = n.tabs ∧ (pwrMod f n).routes = n.routes ∧ (pwrMod f n).mapJobs = n.mapJobs ∧
    (pwrMod f n).fuses = n.fuses ∧ (pwrMod f n).nonces = n.nonces ∧ (pwrMod f n).image = n.image ∧
    (pwrMod f n).calFlash = n.calFlash ∧ (pwrMod f n).identity = n.identity ∧ (pwrMod f n).running = n.running ∧
    (pwrMod f n).calSet = n.calSet ∧ (pwrMod f n).attCert = n.attCert ∧ (pwrMod f n).bootState = n.bootState ∧
    (pwrMod f n).recovered = n.recovered ∧ (pwrMod f n).recSource = n.recSource ∧ (pwrMod f n).recoverNext = n.recoverNext ∧
    (pwrMod f n).calInvalid = n.calInvalid ∧ (pwrMod f n).calPending = n.calPending ∧ (pwrMod f n).ethMode = n.ethMode ∧
    (pwrMod f n).ethPorts = n.ethPorts ∧ (pwrMod f n).discWin = n.discWin ∧ (pwrMod f n).sampleAt = n.sampleAt ∧
    (pwrMod f n).takeovers = n.takeovers ∧ (pwrMod f n).pwrfail = n.pwrfail ∧ (pwrMod f n).afterFatal = n.afterFatal ∧
    (pwrMod f n).requal = n.requal ∧ (pwrMod f n).sramCor = n.sramCor ∧ (pwrMod f n).sramFixed = n.sramFixed ∧
    (pwrMod f n).hsLost = n.hsLost ∧ (pwrMod f n).boot = n.boot ∧ (pwrMod f n).rcv = n.rcv ∧ (pwrMod f n).parked = n.parked ∧
    (pwrMod f n).staging = n.staging ∧ (pwrMod f n).flashJob = n.flashJob ∧ (pwrMod f n).chunkOps = n.chunkOps ∧
    (pwrMod f n).i3c = n.i3c ∧ (pwrMod f n).tap = n.tap ∧ (pwrMod f n).sched = n.sched := by
  repeat' apply And.intro
  all_goals rfl

/-- `ftlMod` changes `ftl` alone. -/
@[simp] theorem ftlMod_keeps (f : Ftl → Ftl) (n : Node) :
    (ftlMod f n).tick = n.tick ∧ (ftlMod f n).free = n.free ∧ (ftlMod f n).out = n.out ∧ (ftlMod f n).regs = n.regs ∧
    (ftlMod f n).cnts = n.cnts ∧ (ftlMod f n).pages = n.pages ∧ (ftlMod f n).latches = n.latches ∧ (ftlMod f n).jnl = n.jnl ∧
    (ftlMod f n).jnext = n.jnext ∧ (ftlMod f n).mram = n.mram ∧ (ftlMod f n).topState = n.topState ∧
    (ftlMod f n).stopCause = n.stopCause ∧ (ftlMod f n).tenants = n.tenants ∧ (ftlMod f n).tenDenied = n.tenDenied ∧
    (ftlMod f n).calEntry = n.calEntry ∧ (ftlMod f n).qps = n.qps ∧ (ftlMod f n).nextQp = n.nextQp ∧
    (ftlMod f n).reqs = n.reqs ∧ (ftlMod f n).nextReq = n.nextReq ∧ (ftlMod f n).nextTag = n.nextTag ∧
    (ftlMod f n).granted = n.granted ∧ (ftlMod f n).lastAck = n.lastAck ∧ (ftlMod f n).gens = n.gens ∧
    (ftlMod f n).idxDedup = n.idxDedup ∧ (ftlMod f n).shards = n.shards ∧ (ftlMod f n).openRows = n.openRows ∧
    (ftlMod f n).openPages = n.openPages ∧ (ftlMod f n).dups = n.dups ∧ (ftlMod f n).dupLost = n.dupLost ∧
    (ftlMod f n).subReqs = n.subReqs ∧ (ftlMod f n).nextSub = n.nextSub ∧ (ftlMod f n).walkQ = n.walkQ ∧
    (ftlMod f n).ctxs = n.ctxs ∧ (ftlMod f n).engs = n.engs ∧ (ftlMod f n).lutPages = n.lutPages ∧
    (ftlMod f n).replaced = n.replaced ∧ (ftlMod f n).saved = n.saved ∧ (ftlMod f n).nextWalk = n.nextWalk ∧
    (ftlMod f n).clvs = n.clvs ∧ (ftlMod f n).batches = n.batches ∧ (ftlMod f n).passes = n.passes ∧
    (ftlMod f n).nextPass = n.nextPass ∧ (ftlMod f n).stks = n.stks ∧ (ftlMod f n).poison = n.poison ∧
    (ftlMod f n).nodeId = n.nodeId ∧ (ftlMod f n).map = n.map ∧ (ftlMod f n).units = n.units ∧
    (ftlMod f n).fusedSpare = n.fusedSpare ∧ (ftlMod f n).mmu = n.mmu ∧ (ftlMod f n).ctxDead = n.ctxDead ∧
    (ftlMod f n).shadows = n.shadows ∧ (ftlMod f n).nextWork = n.nextWork ∧ (ftlMod f n).links = n.links ∧
    (ftlMod f n).lanes = n.lanes ∧ (ftlMod f n).cabling = n.cabling ∧ (ftlMod f n).quorum = n.quorum ∧
    (ftlMod f n).quorumLostAt = n.quorumLostAt ∧ (ftlMod f n).seen = n.seen ∧ (ftlMod f n).bad = n.bad ∧
    (ftlMod f n).fenced = n.fenced ∧ (ftlMod f n).heldMsgs = n.heldMsgs ∧ (ftlMod f n).awaits = n.awaits ∧
    (ftlMod f n).fwds = n.fwds ∧ (ftlMod f n).heldSubs = n.heldSubs ∧ (ftlMod f n).oldMaps = n.oldMaps ∧
    (ftlMod f n).council = n.council ∧ (ftlMod f n).suspicions = n.suspicions ∧ (ftlMod f n).mapHeard = n.mapHeard ∧
    (ftlMod f n).mapTimeouts = n.mapTimeouts ∧ (ftlMod f n).partialTimes = n.partialTimes ∧ (ftlMod f n).slowRuns = n.slowRuns ∧
    (ftlMod f n).loadAt = n.loadAt ∧ (ftlMod f n).progs = n.progs ∧ (ftlMod f n).nextProg = n.nextProg ∧
    (ftlMod f n).encoders = n.encoders ∧ (ftlMod f n).tnsTimes = n.tnsTimes ∧ (ftlMod f n).tabs = n.tabs ∧
    (ftlMod f n).routes = n.routes ∧ (ftlMod f n).mapJobs = n.mapJobs ∧ (ftlMod f n).fuses = n.fuses ∧
    (ftlMod f n).nonces = n.nonces ∧ (ftlMod f n).image = n.image ∧ (ftlMod f n).calFlash = n.calFlash ∧
    (ftlMod f n).identity = n.identity ∧ (ftlMod f n).running = n.running ∧ (ftlMod f n).calSet = n.calSet ∧
    (ftlMod f n).attCert = n.attCert ∧ (ftlMod f n).bootState = n.bootState ∧ (ftlMod f n).recovered = n.recovered ∧
    (ftlMod f n).recSource = n.recSource ∧ (ftlMod f n).recoverNext = n.recoverNext ∧ (ftlMod f n).calInvalid = n.calInvalid ∧
    (ftlMod f n).calPending = n.calPending ∧ (ftlMod f n).ethMode = n.ethMode ∧ (ftlMod f n).ethPorts = n.ethPorts ∧
    (ftlMod f n).discWin = n.discWin ∧ (ftlMod f n).sampleAt = n.sampleAt ∧ (ftlMod f n).pwr = n.pwr ∧
    (ftlMod f n).takeovers = n.takeovers ∧ (ftlMod f n).pwrfail = n.pwrfail ∧ (ftlMod f n).afterFatal = n.afterFatal ∧
    (ftlMod f n).requal = n.requal ∧ (ftlMod f n).sramCor = n.sramCor ∧ (ftlMod f n).sramFixed = n.sramFixed ∧
    (ftlMod f n).hsLost = n.hsLost ∧ (ftlMod f n).boot = n.boot ∧ (ftlMod f n).rcv = n.rcv ∧ (ftlMod f n).parked = n.parked ∧
    (ftlMod f n).staging = n.staging ∧ (ftlMod f n).flashJob = n.flashJob ∧ (ftlMod f n).chunkOps = n.chunkOps ∧
    (ftlMod f n).i3c = n.i3c ∧ (ftlMod f n).tap = n.tap ∧ (ftlMod f n).sched = n.sched := by
  repeat' apply And.intro
  all_goals rfl

/-- `councilMod` changes `council` alone. -/
@[simp] theorem councilMod_keeps (f : Council → Council) (n : Node) :
    (councilMod f n).tick = n.tick ∧ (councilMod f n).free = n.free ∧ (councilMod f n).out = n.out ∧
    (councilMod f n).regs = n.regs ∧ (councilMod f n).cnts = n.cnts ∧ (councilMod f n).pages = n.pages ∧
    (councilMod f n).latches = n.latches ∧ (councilMod f n).jnl = n.jnl ∧ (councilMod f n).jnext = n.jnext ∧
    (councilMod f n).mram = n.mram ∧ (councilMod f n).topState = n.topState ∧ (councilMod f n).stopCause = n.stopCause ∧
    (councilMod f n).tenants = n.tenants ∧ (councilMod f n).tenDenied = n.tenDenied ∧ (councilMod f n).calEntry = n.calEntry ∧
    (councilMod f n).qps = n.qps ∧ (councilMod f n).nextQp = n.nextQp ∧ (councilMod f n).reqs = n.reqs ∧
    (councilMod f n).nextReq = n.nextReq ∧ (councilMod f n).nextTag = n.nextTag ∧ (councilMod f n).granted = n.granted ∧
    (councilMod f n).lastAck = n.lastAck ∧ (councilMod f n).gens = n.gens ∧ (councilMod f n).idxDedup = n.idxDedup ∧
    (councilMod f n).shards = n.shards ∧ (councilMod f n).openRows = n.openRows ∧ (councilMod f n).openPages = n.openPages ∧
    (councilMod f n).dups = n.dups ∧ (councilMod f n).dupLost = n.dupLost ∧ (councilMod f n).subReqs = n.subReqs ∧
    (councilMod f n).nextSub = n.nextSub ∧ (councilMod f n).walkQ = n.walkQ ∧ (councilMod f n).ctxs = n.ctxs ∧
    (councilMod f n).engs = n.engs ∧ (councilMod f n).lutPages = n.lutPages ∧ (councilMod f n).replaced = n.replaced ∧
    (councilMod f n).saved = n.saved ∧ (councilMod f n).nextWalk = n.nextWalk ∧ (councilMod f n).clvs = n.clvs ∧
    (councilMod f n).batches = n.batches ∧ (councilMod f n).passes = n.passes ∧ (councilMod f n).nextPass = n.nextPass ∧
    (councilMod f n).stks = n.stks ∧ (councilMod f n).poison = n.poison ∧ (councilMod f n).nodeId = n.nodeId ∧
    (councilMod f n).map = n.map ∧ (councilMod f n).units = n.units ∧ (councilMod f n).fusedSpare = n.fusedSpare ∧
    (councilMod f n).mmu = n.mmu ∧ (councilMod f n).ctxDead = n.ctxDead ∧ (councilMod f n).shadows = n.shadows ∧
    (councilMod f n).nextWork = n.nextWork ∧ (councilMod f n).ftl = n.ftl ∧ (councilMod f n).links = n.links ∧
    (councilMod f n).lanes = n.lanes ∧ (councilMod f n).cabling = n.cabling ∧ (councilMod f n).quorum = n.quorum ∧
    (councilMod f n).quorumLostAt = n.quorumLostAt ∧ (councilMod f n).seen = n.seen ∧ (councilMod f n).bad = n.bad ∧
    (councilMod f n).fenced = n.fenced ∧ (councilMod f n).heldMsgs = n.heldMsgs ∧ (councilMod f n).awaits = n.awaits ∧
    (councilMod f n).fwds = n.fwds ∧ (councilMod f n).heldSubs = n.heldSubs ∧ (councilMod f n).oldMaps = n.oldMaps ∧
    (councilMod f n).suspicions = n.suspicions ∧ (councilMod f n).mapHeard = n.mapHeard ∧
    (councilMod f n).mapTimeouts = n.mapTimeouts ∧ (councilMod f n).partialTimes = n.partialTimes ∧
    (councilMod f n).slowRuns = n.slowRuns ∧ (councilMod f n).loadAt = n.loadAt ∧ (councilMod f n).progs = n.progs ∧
    (councilMod f n).nextProg = n.nextProg ∧ (councilMod f n).encoders = n.encoders ∧ (councilMod f n).tnsTimes = n.tnsTimes ∧
    (councilMod f n).tabs = n.tabs ∧ (councilMod f n).routes = n.routes ∧ (councilMod f n).mapJobs = n.mapJobs ∧
    (councilMod f n).fuses = n.fuses ∧ (councilMod f n).nonces = n.nonces ∧ (councilMod f n).image = n.image ∧
    (councilMod f n).calFlash = n.calFlash ∧ (councilMod f n).identity = n.identity ∧ (councilMod f n).running = n.running ∧
    (councilMod f n).calSet = n.calSet ∧ (councilMod f n).attCert = n.attCert ∧ (councilMod f n).bootState = n.bootState ∧
    (councilMod f n).recovered = n.recovered ∧ (councilMod f n).recSource = n.recSource ∧
    (councilMod f n).recoverNext = n.recoverNext ∧ (councilMod f n).calInvalid = n.calInvalid ∧
    (councilMod f n).calPending = n.calPending ∧ (councilMod f n).ethMode = n.ethMode ∧ (councilMod f n).ethPorts = n.ethPorts ∧
    (councilMod f n).discWin = n.discWin ∧ (councilMod f n).sampleAt = n.sampleAt ∧ (councilMod f n).pwr = n.pwr ∧
    (councilMod f n).takeovers = n.takeovers ∧ (councilMod f n).pwrfail = n.pwrfail ∧
    (councilMod f n).afterFatal = n.afterFatal ∧ (councilMod f n).requal = n.requal ∧ (councilMod f n).sramCor = n.sramCor ∧
    (councilMod f n).sramFixed = n.sramFixed ∧ (councilMod f n).hsLost = n.hsLost ∧ (councilMod f n).boot = n.boot ∧
    (councilMod f n).rcv = n.rcv ∧ (councilMod f n).parked = n.parked ∧ (councilMod f n).staging = n.staging ∧
    (councilMod f n).flashJob = n.flashJob ∧ (councilMod f n).chunkOps = n.chunkOps ∧ (councilMod f n).i3c = n.i3c ∧
    (councilMod f n).tap = n.tap ∧ (councilMod f n).sched = n.sched := by
  repeat' apply And.intro
  all_goals rfl

/-- `progMod` changes `progs` alone. -/
@[simp] theorem progMod_keeps (i : Nat) (f : Prog → Prog) (n : Node) :
    (progMod i f n).tick = n.tick ∧ (progMod i f n).free = n.free ∧ (progMod i f n).out = n.out ∧
    (progMod i f n).regs = n.regs ∧ (progMod i f n).cnts = n.cnts ∧ (progMod i f n).pages = n.pages ∧
    (progMod i f n).latches = n.latches ∧ (progMod i f n).jnl = n.jnl ∧ (progMod i f n).jnext = n.jnext ∧
    (progMod i f n).mram = n.mram ∧ (progMod i f n).topState = n.topState ∧ (progMod i f n).stopCause = n.stopCause ∧
    (progMod i f n).tenants = n.tenants ∧ (progMod i f n).tenDenied = n.tenDenied ∧ (progMod i f n).calEntry = n.calEntry ∧
    (progMod i f n).qps = n.qps ∧ (progMod i f n).nextQp = n.nextQp ∧ (progMod i f n).reqs = n.reqs ∧
    (progMod i f n).nextReq = n.nextReq ∧ (progMod i f n).nextTag = n.nextTag ∧ (progMod i f n).granted = n.granted ∧
    (progMod i f n).lastAck = n.lastAck ∧ (progMod i f n).gens = n.gens ∧ (progMod i f n).idxDedup = n.idxDedup ∧
    (progMod i f n).shards = n.shards ∧ (progMod i f n).openRows = n.openRows ∧ (progMod i f n).openPages = n.openPages ∧
    (progMod i f n).dups = n.dups ∧ (progMod i f n).dupLost = n.dupLost ∧ (progMod i f n).subReqs = n.subReqs ∧
    (progMod i f n).nextSub = n.nextSub ∧ (progMod i f n).walkQ = n.walkQ ∧ (progMod i f n).ctxs = n.ctxs ∧
    (progMod i f n).engs = n.engs ∧ (progMod i f n).lutPages = n.lutPages ∧ (progMod i f n).replaced = n.replaced ∧
    (progMod i f n).saved = n.saved ∧ (progMod i f n).nextWalk = n.nextWalk ∧ (progMod i f n).clvs = n.clvs ∧
    (progMod i f n).batches = n.batches ∧ (progMod i f n).passes = n.passes ∧ (progMod i f n).nextPass = n.nextPass ∧
    (progMod i f n).stks = n.stks ∧ (progMod i f n).poison = n.poison ∧ (progMod i f n).nodeId = n.nodeId ∧
    (progMod i f n).map = n.map ∧ (progMod i f n).units = n.units ∧ (progMod i f n).fusedSpare = n.fusedSpare ∧
    (progMod i f n).mmu = n.mmu ∧ (progMod i f n).ctxDead = n.ctxDead ∧ (progMod i f n).shadows = n.shadows ∧
    (progMod i f n).nextWork = n.nextWork ∧ (progMod i f n).ftl = n.ftl ∧ (progMod i f n).links = n.links ∧
    (progMod i f n).lanes = n.lanes ∧ (progMod i f n).cabling = n.cabling ∧ (progMod i f n).quorum = n.quorum ∧
    (progMod i f n).quorumLostAt = n.quorumLostAt ∧ (progMod i f n).seen = n.seen ∧ (progMod i f n).bad = n.bad ∧
    (progMod i f n).fenced = n.fenced ∧ (progMod i f n).heldMsgs = n.heldMsgs ∧ (progMod i f n).awaits = n.awaits ∧
    (progMod i f n).fwds = n.fwds ∧ (progMod i f n).heldSubs = n.heldSubs ∧ (progMod i f n).oldMaps = n.oldMaps ∧
    (progMod i f n).council = n.council ∧ (progMod i f n).suspicions = n.suspicions ∧ (progMod i f n).mapHeard = n.mapHeard ∧
    (progMod i f n).mapTimeouts = n.mapTimeouts ∧ (progMod i f n).partialTimes = n.partialTimes ∧
    (progMod i f n).slowRuns = n.slowRuns ∧ (progMod i f n).loadAt = n.loadAt ∧ (progMod i f n).nextProg = n.nextProg ∧
    (progMod i f n).encoders = n.encoders ∧ (progMod i f n).tnsTimes = n.tnsTimes ∧ (progMod i f n).tabs = n.tabs ∧
    (progMod i f n).routes = n.routes ∧ (progMod i f n).mapJobs = n.mapJobs ∧ (progMod i f n).fuses = n.fuses ∧
    (progMod i f n).nonces = n.nonces ∧ (progMod i f n).image = n.image ∧ (progMod i f n).calFlash = n.calFlash ∧
    (progMod i f n).identity = n.identity ∧ (progMod i f n).running = n.running ∧ (progMod i f n).calSet = n.calSet ∧
    (progMod i f n).attCert = n.attCert ∧ (progMod i f n).bootState = n.bootState ∧ (progMod i f n).recovered = n.recovered ∧
    (progMod i f n).recSource = n.recSource ∧ (progMod i f n).recoverNext = n.recoverNext ∧
    (progMod i f n).calInvalid = n.calInvalid ∧ (progMod i f n).calPending = n.calPending ∧
    (progMod i f n).ethMode = n.ethMode ∧ (progMod i f n).ethPorts = n.ethPorts ∧ (progMod i f n).discWin = n.discWin ∧
    (progMod i f n).sampleAt = n.sampleAt ∧ (progMod i f n).pwr = n.pwr ∧ (progMod i f n).takeovers = n.takeovers ∧
    (progMod i f n).pwrfail = n.pwrfail ∧ (progMod i f n).afterFatal = n.afterFatal ∧ (progMod i f n).requal = n.requal ∧
    (progMod i f n).sramCor = n.sramCor ∧ (progMod i f n).sramFixed = n.sramFixed ∧ (progMod i f n).hsLost = n.hsLost ∧
    (progMod i f n).boot = n.boot ∧ (progMod i f n).rcv = n.rcv ∧ (progMod i f n).parked = n.parked ∧
    (progMod i f n).staging = n.staging ∧ (progMod i f n).flashJob = n.flashJob ∧ (progMod i f n).chunkOps = n.chunkOps ∧
    (progMod i f n).i3c = n.i3c ∧ (progMod i f n).tap = n.tap ∧ (progMod i f n).sched = n.sched := by
  repeat' apply And.intro
  all_goals rfl

/-- `tabMod` changes `tabs` alone. -/
@[simp] theorem tabMod_keeps (h g : Nat) (f : TabSt → TabSt) (n : Node) :
    (tabMod h g f n).tick = n.tick ∧ (tabMod h g f n).free = n.free ∧ (tabMod h g f n).out = n.out ∧
    (tabMod h g f n).regs = n.regs ∧ (tabMod h g f n).cnts = n.cnts ∧ (tabMod h g f n).pages = n.pages ∧
    (tabMod h g f n).latches = n.latches ∧ (tabMod h g f n).jnl = n.jnl ∧ (tabMod h g f n).jnext = n.jnext ∧
    (tabMod h g f n).mram = n.mram ∧ (tabMod h g f n).topState = n.topState ∧ (tabMod h g f n).stopCause = n.stopCause ∧
    (tabMod h g f n).tenants = n.tenants ∧ (tabMod h g f n).tenDenied = n.tenDenied ∧ (tabMod h g f n).calEntry = n.calEntry ∧
    (tabMod h g f n).qps = n.qps ∧ (tabMod h g f n).nextQp = n.nextQp ∧ (tabMod h g f n).reqs = n.reqs ∧
    (tabMod h g f n).nextReq = n.nextReq ∧ (tabMod h g f n).nextTag = n.nextTag ∧ (tabMod h g f n).granted = n.granted ∧
    (tabMod h g f n).lastAck = n.lastAck ∧ (tabMod h g f n).gens = n.gens ∧ (tabMod h g f n).idxDedup = n.idxDedup ∧
    (tabMod h g f n).shards = n.shards ∧ (tabMod h g f n).openRows = n.openRows ∧ (tabMod h g f n).openPages = n.openPages ∧
    (tabMod h g f n).dups = n.dups ∧ (tabMod h g f n).dupLost = n.dupLost ∧ (tabMod h g f n).subReqs = n.subReqs ∧
    (tabMod h g f n).nextSub = n.nextSub ∧ (tabMod h g f n).walkQ = n.walkQ ∧ (tabMod h g f n).ctxs = n.ctxs ∧
    (tabMod h g f n).engs = n.engs ∧ (tabMod h g f n).lutPages = n.lutPages ∧ (tabMod h g f n).replaced = n.replaced ∧
    (tabMod h g f n).saved = n.saved ∧ (tabMod h g f n).nextWalk = n.nextWalk ∧ (tabMod h g f n).clvs = n.clvs ∧
    (tabMod h g f n).batches = n.batches ∧ (tabMod h g f n).passes = n.passes ∧ (tabMod h g f n).nextPass = n.nextPass ∧
    (tabMod h g f n).stks = n.stks ∧ (tabMod h g f n).poison = n.poison ∧ (tabMod h g f n).nodeId = n.nodeId ∧
    (tabMod h g f n).map = n.map ∧ (tabMod h g f n).units = n.units ∧ (tabMod h g f n).fusedSpare = n.fusedSpare ∧
    (tabMod h g f n).mmu = n.mmu ∧ (tabMod h g f n).ctxDead = n.ctxDead ∧ (tabMod h g f n).shadows = n.shadows ∧
    (tabMod h g f n).nextWork = n.nextWork ∧ (tabMod h g f n).ftl = n.ftl ∧ (tabMod h g f n).links = n.links ∧
    (tabMod h g f n).lanes = n.lanes ∧ (tabMod h g f n).cabling = n.cabling ∧ (tabMod h g f n).quorum = n.quorum ∧
    (tabMod h g f n).quorumLostAt = n.quorumLostAt ∧ (tabMod h g f n).seen = n.seen ∧ (tabMod h g f n).bad = n.bad ∧
    (tabMod h g f n).fenced = n.fenced ∧ (tabMod h g f n).heldMsgs = n.heldMsgs ∧ (tabMod h g f n).awaits = n.awaits ∧
    (tabMod h g f n).fwds = n.fwds ∧ (tabMod h g f n).heldSubs = n.heldSubs ∧ (tabMod h g f n).oldMaps = n.oldMaps ∧
    (tabMod h g f n).council = n.council ∧ (tabMod h g f n).suspicions = n.suspicions ∧ (tabMod h g f n).mapHeard = n.mapHeard ∧
    (tabMod h g f n).mapTimeouts = n.mapTimeouts ∧ (tabMod h g f n).partialTimes = n.partialTimes ∧
    (tabMod h g f n).slowRuns = n.slowRuns ∧ (tabMod h g f n).loadAt = n.loadAt ∧ (tabMod h g f n).progs = n.progs ∧
    (tabMod h g f n).nextProg = n.nextProg ∧ (tabMod h g f n).encoders = n.encoders ∧ (tabMod h g f n).tnsTimes = n.tnsTimes ∧
    (tabMod h g f n).routes = n.routes ∧ (tabMod h g f n).mapJobs = n.mapJobs ∧ (tabMod h g f n).fuses = n.fuses ∧
    (tabMod h g f n).nonces = n.nonces ∧ (tabMod h g f n).image = n.image ∧ (tabMod h g f n).calFlash = n.calFlash ∧
    (tabMod h g f n).identity = n.identity ∧ (tabMod h g f n).running = n.running ∧ (tabMod h g f n).calSet = n.calSet ∧
    (tabMod h g f n).attCert = n.attCert ∧ (tabMod h g f n).bootState = n.bootState ∧ (tabMod h g f n).recovered = n.recovered ∧
    (tabMod h g f n).recSource = n.recSource ∧ (tabMod h g f n).recoverNext = n.recoverNext ∧
    (tabMod h g f n).calInvalid = n.calInvalid ∧ (tabMod h g f n).calPending = n.calPending ∧
    (tabMod h g f n).ethMode = n.ethMode ∧ (tabMod h g f n).ethPorts = n.ethPorts ∧ (tabMod h g f n).discWin = n.discWin ∧
    (tabMod h g f n).sampleAt = n.sampleAt ∧ (tabMod h g f n).pwr = n.pwr ∧ (tabMod h g f n).takeovers = n.takeovers ∧
    (tabMod h g f n).pwrfail = n.pwrfail ∧ (tabMod h g f n).afterFatal = n.afterFatal ∧ (tabMod h g f n).requal = n.requal ∧
    (tabMod h g f n).sramCor = n.sramCor ∧ (tabMod h g f n).sramFixed = n.sramFixed ∧ (tabMod h g f n).hsLost = n.hsLost ∧
    (tabMod h g f n).boot = n.boot ∧ (tabMod h g f n).rcv = n.rcv ∧ (tabMod h g f n).parked = n.parked ∧
    (tabMod h g f n).staging = n.staging ∧ (tabMod h g f n).flashJob = n.flashJob ∧ (tabMod h g f n).chunkOps = n.chunkOps ∧
    (tabMod h g f n).i3c = n.i3c ∧ (tabMod h g f n).tap = n.tap ∧ (tabMod h g f n).sched = n.sched := by
  repeat' apply And.intro
  all_goals rfl

/-- `rcvMod` changes `rcv` alone. -/
@[simp] theorem rcvMod_keeps (f : RecovSt → RecovSt) (n : Node) :
    (rcvMod f n).tick = n.tick ∧ (rcvMod f n).free = n.free ∧ (rcvMod f n).out = n.out ∧ (rcvMod f n).regs = n.regs ∧
    (rcvMod f n).cnts = n.cnts ∧ (rcvMod f n).pages = n.pages ∧ (rcvMod f n).latches = n.latches ∧ (rcvMod f n).jnl = n.jnl ∧
    (rcvMod f n).jnext = n.jnext ∧ (rcvMod f n).mram = n.mram ∧ (rcvMod f n).topState = n.topState ∧
    (rcvMod f n).stopCause = n.stopCause ∧ (rcvMod f n).tenants = n.tenants ∧ (rcvMod f n).tenDenied = n.tenDenied ∧
    (rcvMod f n).calEntry = n.calEntry ∧ (rcvMod f n).qps = n.qps ∧ (rcvMod f n).nextQp = n.nextQp ∧
    (rcvMod f n).reqs = n.reqs ∧ (rcvMod f n).nextReq = n.nextReq ∧ (rcvMod f n).nextTag = n.nextTag ∧
    (rcvMod f n).granted = n.granted ∧ (rcvMod f n).lastAck = n.lastAck ∧ (rcvMod f n).gens = n.gens ∧
    (rcvMod f n).idxDedup = n.idxDedup ∧ (rcvMod f n).shards = n.shards ∧ (rcvMod f n).openRows = n.openRows ∧
    (rcvMod f n).openPages = n.openPages ∧ (rcvMod f n).dups = n.dups ∧ (rcvMod f n).dupLost = n.dupLost ∧
    (rcvMod f n).subReqs = n.subReqs ∧ (rcvMod f n).nextSub = n.nextSub ∧ (rcvMod f n).walkQ = n.walkQ ∧
    (rcvMod f n).ctxs = n.ctxs ∧ (rcvMod f n).engs = n.engs ∧ (rcvMod f n).lutPages = n.lutPages ∧
    (rcvMod f n).replaced = n.replaced ∧ (rcvMod f n).saved = n.saved ∧ (rcvMod f n).nextWalk = n.nextWalk ∧
    (rcvMod f n).clvs = n.clvs ∧ (rcvMod f n).batches = n.batches ∧ (rcvMod f n).passes = n.passes ∧
    (rcvMod f n).nextPass = n.nextPass ∧ (rcvMod f n).stks = n.stks ∧ (rcvMod f n).poison = n.poison ∧
    (rcvMod f n).nodeId = n.nodeId ∧ (rcvMod f n).map = n.map ∧ (rcvMod f n).units = n.units ∧
    (rcvMod f n).fusedSpare = n.fusedSpare ∧ (rcvMod f n).mmu = n.mmu ∧ (rcvMod f n).ctxDead = n.ctxDead ∧
    (rcvMod f n).shadows = n.shadows ∧ (rcvMod f n).nextWork = n.nextWork ∧ (rcvMod f n).ftl = n.ftl ∧
    (rcvMod f n).links = n.links ∧ (rcvMod f n).lanes = n.lanes ∧ (rcvMod f n).cabling = n.cabling ∧
    (rcvMod f n).quorum = n.quorum ∧ (rcvMod f n).quorumLostAt = n.quorumLostAt ∧ (rcvMod f n).seen = n.seen ∧
    (rcvMod f n).bad = n.bad ∧ (rcvMod f n).fenced = n.fenced ∧ (rcvMod f n).heldMsgs = n.heldMsgs ∧
    (rcvMod f n).awaits = n.awaits ∧ (rcvMod f n).fwds = n.fwds ∧ (rcvMod f n).heldSubs = n.heldSubs ∧
    (rcvMod f n).oldMaps = n.oldMaps ∧ (rcvMod f n).council = n.council ∧ (rcvMod f n).suspicions = n.suspicions ∧
    (rcvMod f n).mapHeard = n.mapHeard ∧ (rcvMod f n).mapTimeouts = n.mapTimeouts ∧ (rcvMod f n).partialTimes = n.partialTimes ∧
    (rcvMod f n).slowRuns = n.slowRuns ∧ (rcvMod f n).loadAt = n.loadAt ∧ (rcvMod f n).progs = n.progs ∧
    (rcvMod f n).nextProg = n.nextProg ∧ (rcvMod f n).encoders = n.encoders ∧ (rcvMod f n).tnsTimes = n.tnsTimes ∧
    (rcvMod f n).tabs = n.tabs ∧ (rcvMod f n).routes = n.routes ∧ (rcvMod f n).mapJobs = n.mapJobs ∧
    (rcvMod f n).fuses = n.fuses ∧ (rcvMod f n).nonces = n.nonces ∧ (rcvMod f n).image = n.image ∧
    (rcvMod f n).calFlash = n.calFlash ∧ (rcvMod f n).identity = n.identity ∧ (rcvMod f n).running = n.running ∧
    (rcvMod f n).calSet = n.calSet ∧ (rcvMod f n).attCert = n.attCert ∧ (rcvMod f n).bootState = n.bootState ∧
    (rcvMod f n).recovered = n.recovered ∧ (rcvMod f n).recSource = n.recSource ∧ (rcvMod f n).recoverNext = n.recoverNext ∧
    (rcvMod f n).calInvalid = n.calInvalid ∧ (rcvMod f n).calPending = n.calPending ∧ (rcvMod f n).ethMode = n.ethMode ∧
    (rcvMod f n).ethPorts = n.ethPorts ∧ (rcvMod f n).discWin = n.discWin ∧ (rcvMod f n).sampleAt = n.sampleAt ∧
    (rcvMod f n).pwr = n.pwr ∧ (rcvMod f n).takeovers = n.takeovers ∧ (rcvMod f n).pwrfail = n.pwrfail ∧
    (rcvMod f n).afterFatal = n.afterFatal ∧ (rcvMod f n).requal = n.requal ∧ (rcvMod f n).sramCor = n.sramCor ∧
    (rcvMod f n).sramFixed = n.sramFixed ∧ (rcvMod f n).hsLost = n.hsLost ∧ (rcvMod f n).boot = n.boot ∧
    (rcvMod f n).parked = n.parked ∧ (rcvMod f n).staging = n.staging ∧ (rcvMod f n).flashJob = n.flashJob ∧
    (rcvMod f n).chunkOps = n.chunkOps ∧ (rcvMod f n).i3c = n.i3c ∧ (rcvMod f n).tap = n.tap ∧ (rcvMod f n).sched = n.sched := by
  repeat' apply And.intro
  all_goals rfl

/-- `workDrop` changes `shadows` alone. -/
@[simp] theorem workDrop_keeps (i : Nat) (n : Node) :
    (workDrop i n).tick = n.tick ∧ (workDrop i n).free = n.free ∧ (workDrop i n).out = n.out ∧ (workDrop i n).regs = n.regs ∧
    (workDrop i n).cnts = n.cnts ∧ (workDrop i n).pages = n.pages ∧ (workDrop i n).latches = n.latches ∧
    (workDrop i n).jnl = n.jnl ∧ (workDrop i n).jnext = n.jnext ∧ (workDrop i n).mram = n.mram ∧
    (workDrop i n).topState = n.topState ∧ (workDrop i n).stopCause = n.stopCause ∧ (workDrop i n).tenants = n.tenants ∧
    (workDrop i n).tenDenied = n.tenDenied ∧ (workDrop i n).calEntry = n.calEntry ∧ (workDrop i n).qps = n.qps ∧
    (workDrop i n).nextQp = n.nextQp ∧ (workDrop i n).reqs = n.reqs ∧ (workDrop i n).nextReq = n.nextReq ∧
    (workDrop i n).nextTag = n.nextTag ∧ (workDrop i n).granted = n.granted ∧ (workDrop i n).lastAck = n.lastAck ∧
    (workDrop i n).gens = n.gens ∧ (workDrop i n).idxDedup = n.idxDedup ∧ (workDrop i n).shards = n.shards ∧
    (workDrop i n).openRows = n.openRows ∧ (workDrop i n).openPages = n.openPages ∧ (workDrop i n).dups = n.dups ∧
    (workDrop i n).dupLost = n.dupLost ∧ (workDrop i n).subReqs = n.subReqs ∧ (workDrop i n).nextSub = n.nextSub ∧
    (workDrop i n).walkQ = n.walkQ ∧ (workDrop i n).ctxs = n.ctxs ∧ (workDrop i n).engs = n.engs ∧
    (workDrop i n).lutPages = n.lutPages ∧ (workDrop i n).replaced = n.replaced ∧ (workDrop i n).saved = n.saved ∧
    (workDrop i n).nextWalk = n.nextWalk ∧ (workDrop i n).clvs = n.clvs ∧ (workDrop i n).batches = n.batches ∧
    (workDrop i n).passes = n.passes ∧ (workDrop i n).nextPass = n.nextPass ∧ (workDrop i n).stks = n.stks ∧
    (workDrop i n).poison = n.poison ∧ (workDrop i n).nodeId = n.nodeId ∧ (workDrop i n).map = n.map ∧
    (workDrop i n).units = n.units ∧ (workDrop i n).fusedSpare = n.fusedSpare ∧ (workDrop i n).mmu = n.mmu ∧
    (workDrop i n).ctxDead = n.ctxDead ∧ (workDrop i n).nextWork = n.nextWork ∧ (workDrop i n).ftl = n.ftl ∧
    (workDrop i n).links = n.links ∧ (workDrop i n).lanes = n.lanes ∧ (workDrop i n).cabling = n.cabling ∧
    (workDrop i n).quorum = n.quorum ∧ (workDrop i n).quorumLostAt = n.quorumLostAt ∧ (workDrop i n).seen = n.seen ∧
    (workDrop i n).bad = n.bad ∧ (workDrop i n).fenced = n.fenced ∧ (workDrop i n).heldMsgs = n.heldMsgs ∧
    (workDrop i n).awaits = n.awaits ∧ (workDrop i n).fwds = n.fwds ∧ (workDrop i n).heldSubs = n.heldSubs ∧
    (workDrop i n).oldMaps = n.oldMaps ∧ (workDrop i n).council = n.council ∧ (workDrop i n).suspicions = n.suspicions ∧
    (workDrop i n).mapHeard = n.mapHeard ∧ (workDrop i n).mapTimeouts = n.mapTimeouts ∧
    (workDrop i n).partialTimes = n.partialTimes ∧ (workDrop i n).slowRuns = n.slowRuns ∧ (workDrop i n).loadAt = n.loadAt ∧
    (workDrop i n).progs = n.progs ∧ (workDrop i n).nextProg = n.nextProg ∧ (workDrop i n).encoders = n.encoders ∧
    (workDrop i n).tnsTimes = n.tnsTimes ∧ (workDrop i n).tabs = n.tabs ∧ (workDrop i n).routes = n.routes ∧
    (workDrop i n).mapJobs = n.mapJobs ∧ (workDrop i n).fuses = n.fuses ∧ (workDrop i n).nonces = n.nonces ∧
    (workDrop i n).image = n.image ∧ (workDrop i n).calFlash = n.calFlash ∧ (workDrop i n).identity = n.identity ∧
    (workDrop i n).running = n.running ∧ (workDrop i n).calSet = n.calSet ∧ (workDrop i n).attCert = n.attCert ∧
    (workDrop i n).bootState = n.bootState ∧ (workDrop i n).recovered = n.recovered ∧ (workDrop i n).recSource = n.recSource ∧
    (workDrop i n).recoverNext = n.recoverNext ∧ (workDrop i n).calInvalid = n.calInvalid ∧
    (workDrop i n).calPending = n.calPending ∧ (workDrop i n).ethMode = n.ethMode ∧ (workDrop i n).ethPorts = n.ethPorts ∧
    (workDrop i n).discWin = n.discWin ∧ (workDrop i n).sampleAt = n.sampleAt ∧ (workDrop i n).pwr = n.pwr ∧
    (workDrop i n).takeovers = n.takeovers ∧ (workDrop i n).pwrfail = n.pwrfail ∧ (workDrop i n).afterFatal = n.afterFatal ∧
    (workDrop i n).requal = n.requal ∧ (workDrop i n).sramCor = n.sramCor ∧ (workDrop i n).sramFixed = n.sramFixed ∧
    (workDrop i n).hsLost = n.hsLost ∧ (workDrop i n).boot = n.boot ∧ (workDrop i n).rcv = n.rcv ∧
    (workDrop i n).parked = n.parked ∧ (workDrop i n).staging = n.staging ∧ (workDrop i n).flashJob = n.flashJob ∧
    (workDrop i n).chunkOps = n.chunkOps ∧ (workDrop i n).i3c = n.i3c ∧ (workDrop i n).tap = n.tap ∧
    (workDrop i n).sched = n.sched := by
  repeat' apply And.intro
  all_goals rfl

@[simp] theorem emit_sets (o : Out) (n : Node) : (emit o n).out = n.out ++ [o] := rfl

@[simp] theorem bump_sets (a k : Nat) (n : Node) : (bump a k n).cnts = sset 0 n.cnts a (sget 0 n.cnts a + k) := rfl

@[simp] theorem regPut_sets (a : Nat) (v : Word) (n : Node) : (regPut a v n).regs = sset (w32 (regReset a)) n.regs a v := rfl

@[simp] theorem pageSet_sets (p : Nat) (v : PageSt) (n : Node) : (pageSet p v n).pages = sset PageSt.empty n.pages p v := rfl

@[simp] theorem qpMod_sets (q : Nat) (f : Qp → Qp) (n : Node) : (qpMod q f n).qps = lmodify (fun x => x.num = q) f n.qps := rfl

@[simp] theorem tenantMod_sets (t : Nat) (f : Tenant → Tenant) (n : Node) : (tenantMod t f n).tenants = lmodify (fun x => x.tid = t) f n.tenants := rfl

@[simp] theorem reqMod_sets (i : Nat) (f : Req → Req) (n : Node) : (reqMod i f n).reqs = lmodify (fun x => x.id = i) f n.reqs := rfl

@[simp] theorem subMod_sets (i : Nat) (f : SubReq → SubReq) (n : Node) : (subMod i f n).subReqs = lmodify (fun x => x.id = i) f n.subReqs := rfl

@[simp] theorem shardMod_sets (k : ShardKey) (f : Shard → Shard) (n : Node) : (shardMod k f n).shards = lmodify (fun x => x.key = k) f n.shards := rfl

@[simp] theorem putRow_sets (p r : Nat) (n : Node) : (putRow p r n).openRows = sset emptyRow n.openRows p r := rfl

@[simp] theorem clvSet_sets (k : Nat) (v : Clv) (n : Node) : (clvSet k v n).clvs = sset clvIdle n.clvs k v := rfl

@[simp] theorem engSet_sets (e : Nat) (v : Eng) (n : Node) : (engSet e v n).engs = sset engEmpty n.engs e v := rfl

@[simp] theorem ctxSet_sets (e c : Nat) (v : Option Ctx) (n : Node) : (ctxSet e c v n).ctxs = sset none n.ctxs (e * 512 + c) v := rfl

@[simp] theorem stkSet_sets (k : Nat) (v : Stk) (n : Node) : (stkSet k v n).stks = sset stkEmpty n.stks k v := rfl

@[simp] theorem unitSet_sets (p : Nat) (v : UnitSt) (n : Node) : (unitSet p v n).units = sset (unitFused n p) n.units p v := rfl

@[simp] theorem jnlAdd_sets (e : EvRec) (n : Node) : (jnlAdd e n).jnext = (n.jnext + 1) % 2 ^ 32 := rfl

@[simp] theorem ftlMod_sets (f : Ftl → Ftl) (n : Node) : (ftlMod f n).ftl = f n.ftl := rfl

@[simp] theorem councilMod_sets (f : Council → Council) (n : Node) : (councilMod f n).council = f n.council := rfl

@[simp] theorem pwrMod_sets (f : PwrSt → PwrSt) (n : Node) : (pwrMod f n).pwr = f n.pwr := rfl

@[simp] theorem fresh_sets (n : Node) : (fresh n).2.free = n.free + 1 := rfl

end Sys2Proof.Machine
end

