-- ==== Sys2Proof/Laws/Effects.lean ====
section
/-!
SUPPORT. Sys2Proof/Laws/Effects.lean: for each shared operation of more than one update (a report, an answer, a message) one lemma that
says once what it can change: the node afterwards is the node before with those fields.
-/
namespace Sys2Proof.Machine

/-- What no step of a fold changes is as before. -/
theorem foldl_field {α β : Type} (F : Node → β) (g : Node → α → Node) (h : ∀ n x, F (g n x) = F n) (l : List α) (n : Node) :
    F (l.foldl g n) = F n := by
  induction l generalizing n with
  | nil => rfl
  | cons x l ih => rw [List.foldl_cons, ih, h]

theorem withIbi_frame (f : Node → Node) (n : Node) :
    withIbi f n = { (f n) with
      out := (withIbi f n).out, i3c := (withIbi f n).i3c } := by
  unfold withIbi; dsimp only; split <;> rfl

theorem ringAdd_frame (p : Nat) (e : EvRec) (n : Node) :
    ringAdd p e n = { n with
      pages := (ringAdd p e n).pages, jnl := (ringAdd p e n).jnl, jnext := (ringAdd p e n).jnext } := by
  unfold ringAdd; dsimp only; repeat' split
  all_goals rfl

theorem stage_frame (c : Nat) (e : EvRec) (n : Node) :
    stage c e n = { n with
      mram := (stage c e n).mram } := by
  unfold stage; split <;> rfl

theorem captureReport_frame (p c : Nat) (lo hi : Word) (n : Node) :
    captureReport p c lo hi n = { n with
      pages := (captureReport p c lo hi n).pages, cnts := (captureReport p c lo hi n).cnts } := by
  rfl

theorem reportSev_frame (b : Blk) (i c v : Nat) (lo hi : Word) (n : Node) :
    reportSev b i c v lo hi n = { n with
      pages := (reportSev b i c v lo hi n).pages, cnts := (reportSev b i c v lo hi n).cnts, jnl := (reportSev b i c v lo hi
      n).jnl, jnext := (reportSev b i c v lo hi n).jnext, mram := (reportSev b i c v lo hi n).mram, out := (reportSev
      b i c v lo hi n).out, i3c := (reportSev b i c v lo hi n).i3c } := by
  let F : Node → Node := fun m => { m with
      pages := [], cnts := [], jnl := [], jnext := 0, mram := Node.reset.mram, out := [], i3c := Node.reset.i3c }
  have h : F (reportSev b i c v lo hi n) = F n := by
    have h4 : ∀ f m, F (withIbi f m) = F (f m) := fun f m => (congrArg F (withIbi_frame f m)).trans rfl
    unfold reportSev
    rw [h4]
    dsimp only
    rw [foldl_field F _ (fun m x => (congrArg F (stage_frame x _ m)).trans rfl)]
    split
    · rfl
    · exact (congrArg F (ringAdd_frame _ _ _)).trans rfl
  exact (show reportSev b i c v lo hi n = { (F (reportSev b i c v lo hi n)) with
      pages := (reportSev b i c v lo hi n).pages, cnts := (reportSev b i c v lo hi n).cnts, jnl := (reportSev b i c v lo hi
      n).jnl, jnext := (reportSev b i c v lo hi n).jnext, mram := (reportSev b i c v lo hi n).mram, out := (reportSev
      b i c v lo hi n).out, i3c := (reportSev b i c v lo hi n).i3c } from rfl).trans (by rw [h])

theorem report_frame (b : Blk) (i c lo hi : Nat) (n : Node) :
    report b i c lo hi n = { n with
      pages := (report b i c lo hi n).pages, cnts := (report b i c lo hi n).cnts, jnl := (report b i c lo hi n).jnl, jnext
      := (report b i c lo hi n).jnext, mram := (report b i c lo hi n).mram, out := (report b i c lo hi n).out, i3c :=
      (report b i c lo hi n).i3c } := by
  exact reportSev_frame b i c (severityOf b c) (w32 lo) (w32 hi) n

theorem qpSend_frame (q : Nat) (e : Bool) (k : Nat) (o : Out) (n : Node) :
    qpSend q e k o n = { n with
      qps := (qpSend q e k o n).qps, out := (qpSend q e k o n).out } := by
  rfl

theorem errSlotWrite_frame (x : Qp) (e : ErrHdr) (n : Node) :
    errSlotWrite x e n = { n with
      qps := (errSlotWrite x e n).qps, out := (errSlotWrite x e n).out } := by
  unfold errSlotWrite; split <;> rfl

theorem writeResponse_frame (t : RespTo) (b : Blob) (r : Resp) (n : Node) :
    writeResponse t b r n = { n with
      qps := (writeResponse t b r n).qps, cnts := (writeResponse t b r n).cnts, out := (writeResponse t b r n).out } := by
  unfold writeResponse; dsimp only; repeat' split
  all_goals first | rfl | (unfold errSlotWrite; split <;> rfl)

theorem answerStatus_frame (t : RespTo) (o k s e : Nat) (n : Node) :
    answerStatus t o k s e n = { n with
      qps := (answerStatus t o k s e n).qps, cnts := (answerStatus t o k s e n).cnts, out := (answerStatus t o k s e n).out } := by
  exact writeResponse_frame t bempty _ n

theorem police_frame (t : Nat) (n : Node) :
    (police t n).2 = { n with
      tenants := (police t n).2.tenants, calEntry := (police t n).2.calEntry } := by
  unfold police catchUp; dsimp only; repeat' split
  all_goals rfl

theorem admitEntry_frame (t : Nat) (n : Node) :
    (admitEntry t n).2 = { n with
      tenants := (admitEntry t n).2.tenants, cnts := (admitEntry t n).2.cnts } := by
  unfold admitEntry; dsimp only; repeat' split
  all_goals rfl

theorem reqNew_frame (x : Qp) (t : RespTo) (d : Blob) (h g a l : Nat) (n : Node) :
    (reqNew x t d h g a l n).2 = { n with
      reqs := (reqNew x t d h g a l n).2.reqs, nextReq := (reqNew x t d h g a l n).2.nextReq } := by
  rfl

theorem finish_frame (r : Req) (b : Blob) (p : Resp) (n : Node) :
    finish r b p n = { n with
      tenants := (finish r b p n).tenants, qps := (finish r b p n).qps, reqs := (finish r b p n).reqs, cnts := (finish r b p
      n).cnts, pwr := (finish r b p n).pwr, out := (finish r b p n).out } := by
  let F : Node → Node := fun m => { m with
      tenants := [], qps := [], reqs := [], cnts := [], pwr := Node.reset.pwr, out := [] }
  have h : F (finish r b p n) = F n := (congrArg F (writeResponse_frame _ _ _ n)).trans rfl
  exact (show finish r b p n = { (F (finish r b p n)) with
      tenants := (finish r b p n).tenants, qps := (finish r b p n).qps, reqs := (finish r b p n).reqs, cnts := (finish r b p
      n).cnts, pwr := (finish r b p n).pwr, out := (finish r b p n).out } from rfl).trans (by rw [h])

theorem mgmtAnswer_frame (i s d r e : Nat) (p : Bool) (b : Blob) (n : Node) :
    mgmtAnswer i s d r e p b n = { n with
      tenants := (mgmtAnswer i s d r e p b n).tenants, qps := (mgmtAnswer i s d r e p b n).qps, reqs := (mgmtAnswer i s d r
      e p b n).reqs, cnts := (mgmtAnswer i s d r e p b n).cnts, pwr := (mgmtAnswer i s d r e p b n).pwr, out :=
      (mgmtAnswer i s d r e p b n).out } := by
  unfold mgmtAnswer; split
  · rfl
  · exact finish_frame _ _ _ n

theorem routeLink_frame (d c : Nat) (a : Option Nat) (n : Node) :
    (routeLink d c a n).2 = { n with
      free := (routeLink d c a n).2.free } := by
  unfold routeLink pick; dsimp only; repeat' split
  all_goals rfl

theorem sendHdr_frame (s d l e c t : Nat) (m : Msg) (n : Node) :
    sendHdr s d l e c t m n = { n with
      pages := (sendHdr s d l e c t m n).pages, cnts := (sendHdr s d l e c t m n).cnts, jnl := (sendHdr s d l e c t m
      n).jnl, jnext := (sendHdr s d l e c t m n).jnext, mram := (sendHdr s d l e c t m n).mram, out := (sendHdr s d l
      e c t m n).out, i3c := (sendHdr s d l e c t m n).i3c, free := (sendHdr s d l e c t m n).free } := by
  let F : Node → Node := fun m => { m with
      pages := [], cnts := [], jnl := [], jnext := 0, mram := Node.reset.mram, out := [], i3c := Node.reset.i3c, free := 0 }
  have h : F (sendHdr s d l e c t m n) = F n := by
    have hr : F (routeLink d (msgClass m).1 none n).2 = F n := (congrArg F (routeLink_frame d (msgClass m).1 none n)).trans rfl
    unfold sendHdr sendOver
    split
    · rfl
    · split
      · rename_i k n' he
        rw [he] at hr
        exact hr
      · rename_i n' he
        rw [he] at hr
        exact ((congrArg F (report_frame .frt 0 0x03 _ _ n')).trans rfl).trans hr
  exact (show sendHdr s d l e c t m n = { (F (sendHdr s d l e c t m n)) with
      pages := (sendHdr s d l e c t m n).pages, cnts := (sendHdr s d l e c t m n).cnts, jnl := (sendHdr s d l e c t m
      n).jnl, jnext := (sendHdr s d l e c t m n).jnext, mram := (sendHdr s d l e c t m n).mram, out := (sendHdr s d l
      e c t m n).out, i3c := (sendHdr s d l e c t m n).i3c, free := (sendHdr s d l e c t m n).free } from rfl).trans (by rw [h])

theorem sendTag_frame (d t : Nat) (m : Msg) (n : Node) :
    sendTag d t m n = { n with
      pages := (sendTag d t m n).pages, cnts := (sendTag d t m n).cnts, jnl := (sendTag d t m n).jnl, jnext := (sendTag d t
      m n).jnext, mram := (sendTag d t m n).mram, out := (sendTag d t m n).out, i3c := (sendTag d t m n).i3c, free :=
      (sendTag d t m n).free } := by
  exact sendHdr_frame n.nodeId.toNat d (msgLevel n d m) n.map.epoch 0 t m n

theorem send_frame (d : Nat) (m : Msg) (n : Node) :
    send d m n = { n with
      pages := (send d m n).pages, cnts := (send d m n).cnts, jnl := (send d m n).jnl, jnext := (send d m n).jnext, mram :=
      (send d m n).mram, out := (send d m n).out, i3c := (send d m n).i3c, free := (send d m n).free, nextTag := (send
      d m n).nextTag } := by
  let F : Node → Node := fun m => { m with
      pages := [], cnts := [], jnl := [], jnext := 0, mram := Node.reset.mram, out := [], i3c := Node.reset.i3c, free := 0,
      nextTag := 0 }
  have h : F (send d m n) = F n := (congrArg F (sendTag_frame d n.nextTag m _)).trans rfl
  exact (show send d m n = { (F (send d m n)) with
      pages := (send d m n).pages, cnts := (send d m n).cnts, jnl := (send d m n).jnl, jnext := (send d m n).jnext, mram :=
      (send d m n).mram, out := (send d m n).out, i3c := (send d m n).i3c, free := (send d m n).free, nextTag := (send
      d m n).nextTag } from rfl).trans (by rw [h])

theorem sendAwait_frame (d : Nat) (m : Msg) (n : Node) :
    sendAwait d m n = { n with
      pages := (sendAwait d m n).pages, cnts := (sendAwait d m n).cnts, jnl := (sendAwait d m n).jnl, jnext := (sendAwait d
      m n).jnext, mram := (sendAwait d m n).mram, out := (sendAwait d m n).out, i3c := (sendAwait d m n).i3c, free :=
      (sendAwait d m n).free, nextTag := (sendAwait d m n).nextTag, awaits := (sendAwait d m n).awaits } := by
  let F : Node → Node := fun m => { m with
      pages := [], cnts := [], jnl := [], jnext := 0, mram := Node.reset.mram, out := [], i3c := Node.reset.i3c, free := 0,
      nextTag := 0, awaits := [] }
  have h : F (sendAwait d m n) = F n := (congrArg F (sendTag_frame d n.nextTag m _)).trans rfl
  exact (show sendAwait d m n = { (F (sendAwait d m n)) with
      pages := (sendAwait d m n).pages, cnts := (sendAwait d m n).cnts, jnl := (sendAwait d m n).jnl, jnext := (sendAwait d
      m n).jnext, mram := (sendAwait d m n).mram, out := (sendAwait d m n).out, i3c := (sendAwait d m n).i3c, free :=
      (sendAwait d m n).free, nextTag := (sendAwait d m n).nextTag, awaits := (sendAwait d m n).awaits } from rfl).trans (by rw [h])

end Sys2Proof.Machine
end

