-- ==== Sys2Proof/Laws/Run.lean ====
section
/-!
SUPPORT. Sys2Proof/Laws/Run.lean: one lemma for each way a command reaches the node: running an effect, receiving a SEND, an MGMT
operation past its checks, a fabric message past its checks.
-/
namespace Sys2Proof.Machine

theorem run_live {s : State} (h : Live s) (f : Node → Node) : run s f = .next { s with node := f s.node } := by
  unfold run
  rw [show nodeStopped s.node = false from h]
  rfl

theorem run_stopped {s : State} (h : nodeStopped s.node = true) (f : Node → Node) : run s f = .next s := by
  unfold run
  rw [h]
  rfl

theorem runPath_live {s : State} (h : Live s) (p : Path) (f : Node → Node) : runPath p s f = .next { s with node := f s.node } := by
  have hr : s.node.boot.inReset = false := by
    have this : nodeStopped s.node = false := h
    simp only [nodeStopped, Bool.or_eq_false_iff] at this; exact this.2
  cases p <;> simp [runPath, run_live h, runAlways, hr]

/-- A SEND that passes the ring and policing is given to its request class (R296-R298). -/
theorem receive_received {s : State} {q : Nat} {d : Blob} {x : Qp} (h : Received s q d x) (nx : Qp → RespTo → Node → Node) :
    receive q d nx s.node = nx x (respTo q s.node.tick d) (policed s x) := by
  have h1 := h.found
  have h2 : ¬ x.cfg.ringDepth ≤ x.slots.length := Nat.not_le.mpr h.room
  have h3 : ¬ 2 ^ x.cfg.slotLog2 < d.len := Nat.not_lt.mpr h.fits
  have h4 : ¬ d.len < 64 := Nat.not_lt.mpr h.whole
  have h5 := h.credit
  simp [receive, h1, h.rts, h2, h3, h4, h5, policed]

theorem police_staging (tid : Nat) (n : Node) :
    (police tid n).2.staging = n.staging ∧ (police tid n).2.flashJob = n.flashJob ∧ (police tid n).2.council = n.council ∧
    (police tid n).2.mapJobs = n.mapJobs ∧ (police tid n).2.quorum = n.quorum ∧ (police tid n).2.nextReq = n.nextReq := by
  unfold police catchUp tenantMod
  constructor
  all_goals (repeat' constructor)
  all_goals (dsimp only; split <;> split <;> (try split) <;> rfl)

theorem admitEntry_keeps (tid : Nat) (n : Node) :
    (admitEntry tid n).2.staging = n.staging ∧ (admitEntry tid n).2.flashJob = n.flashJob ∧ (admitEntry tid n).2.council = n.council ∧
    (admitEntry tid n).2.mapJobs = n.mapJobs ∧ (admitEntry tid n).2.quorum = n.quorum ∧ (admitEntry tid n).2.nextReq = n.nextReq := by
  unfold admitEntry tenantMod bump
  repeat' constructor
  all_goals (dsimp only; (repeat' split) <;> rfl)

theorem mapBusy_false {n : Node} (h : mapBusy n = false) : n.council.prop = none ∧ n.mapJobs = [] := by
  unfold mapBusy at h
  simp only [Bool.or_eq_false_iff, Bool.not_eq_false'] at h
  exact ⟨by simpa using h.1, by simpa using h.2⟩

theorem mgmtIn_ready {o : MgmtOp} {act : Nat → Blob → Node → Node} {d : Blob} {x : Qp} {t : RespTo} {n m : Node}
    (h1 : mgmtBad x o d n = none) (h2 : x.cfg.tid = 0) (h3 : admitEntry x.cfg.tid n = (none, m))
    (h4 : handleBusy (reqNew x t d o.handle 0 0 0 m).2 m.nextReq o.handle = false) (h5 : m.flashJob = none)
    (h6 : mapBusy m = false) (h7 : o.map = true → m.quorum = true) :
    mgmtIn o act d x t n = act m.nextReq (mPayload n d) (reqNew x t d o.handle 0 0 0 m).2 := by
  have hr : reqNew x t d o.handle 0 0 0 m = (m.nextReq, (reqNew x t d o.handle 0 0 0 m).2) := rfl
  have hf : (reqNew x t d o.handle 0 0 0 m).2.flashJob = none := h5
  have hb : mapBusy (reqNew x t d o.handle 0 0 0 m).2 = false := h6
  have hq : (o.map && !(reqNew x t d o.handle 0 0 0 m).2.quorum) = false := by
    have : (reqNew x t d o.handle 0 0 0 m).2.quorum = m.quorum := rfl
    rw [this]
    cases hm : o.map with
    | false => rfl
    | true => simp [h7 hm]
  unfold mgmtIn
  rw [h1]
  simp only [h2, ne_eq, not_true_eq_false, ite_false]
  rw [h2] at h3
  rw [h3]
  dsimp only
  rw [hr]
  dsimp only
  rw [h4, hf, hb, hq]
  rfl

/-- An MGMT request that passes its checks runs its operation (R386-R392). -/
theorem mgmtRun_ready {s : State} {q : Nat} {d : Blob} {x : Qp} {o : MgmtOp} (h : MgmtReady s q d x o)
    (act : Nat → Blob → Node → Node) :
    mgmtRun o act q d s = .next { s with node := act s.node.nextReq (mPayload s.node d) (mgmtEntered s q d x o) } := by
  have hp := police_staging x.cfg.tid s.node
  have ha := admitEntry_keeps x.cfg.tid (policed s x)
  have hn : (admitEntry x.cfg.tid (policed s x)).2.nextReq = s.node.nextReq := by rw [ha.2.2.2.2.2]; exact hp.2.2.2.2.2
  have hpay : mPayload (policed s x) d = mPayload s.node d := by unfold mPayload; rw [show (policed s x).staging = s.node.staging from hp.1]
  have hmb := mapBusy_false h.busy
  have hc : (admitEntry x.cfg.tid (policed s x)).2.council = s.node.council := by rw [ha.2.2.1]; exact hp.2.2.1
  have hj : (admitEntry x.cfg.tid (policed s x)).2.mapJobs = s.node.mapJobs := by rw [ha.2.2.2.1]; exact hp.2.2.2.1
  have key := mgmtIn_ready (act := act) (t := respTo q s.node.tick d) (m := (admitEntry x.cfg.tid (policed s x)).2)
    h.header h.tid (by rw [← h.place]) (by rw [hn]; exact h.handle)
    (by rw [ha.2.1]; exact hp.2.1.trans h.flash) (by unfold mapBusy; rw [hc, hj]; exact h.busy)
    (fun hm => by rw [ha.2.2.2.2.1]; exact hp.2.2.2.2.1.trans (h.quorum hm))
  rw [hn, hpay] at key
  unfold mgmtRun
  rw [run_live h.live, receive_received h.toReceived, key]
  rfl

/-- A message that passes the checks of a receiver acts on the node (R266-R273). -/
theorem fabricIn_taken {n : Node} {h : MsgHdr} {m : Msg} (t : Taken n h m) (act : Node → Node) :
    fabricIn h m act n = act (heard n h m) := by
  have h1 := t.formed
  have h2 : ¬ 6 < h.hops.toNat := Nat.not_lt.mpr t.hops
  have h3 := t.member
  have h4 := t.here
  have h5 := t.fresh
  unfold fabricIn heard
  rw [h1, h3]
  dsimp only
  rw [h5]
  simp only [Bool.false_eq_true, ite_false, h2, h4, ne_eq, not_true_eq_false]
  rcases t.epoch with he | hc
  · split
    · simp_all [quorumCheck]
    · have : ¬ n.map.epoch < h.epoch.toNat := Nat.not_lt.mpr he
      simp [this]
  · simp [hc]

end Sys2Proof.Machine
end

