-- ==== Sys2Proof/Laws/Sparse.lean ====
section
/-!
SUPPORT. Sys2Proof/Laws/Sparse.lean: reading a sparse store after a write, and the canonical form that a write keeps.
-/
namespace Sys2Proof.Machine

variable {α : Type}

theorem sget_sdel_self (d : α) (m : Sparse α) (k : Nat) : sget d (sdel m k) k = d := by
  induction m with
  | nil => rfl
  | cons x m ih =>
    obtain ⟨a, w⟩ := x
    by_cases h : a = k
    · simpa [sdel, h] using ih
    · simpa [sdel, h, sget] using ih

theorem sget_sdel_ne (d : α) (m : Sparse α) {k j : Nat} (h : j ≠ k) : sget d (sdel m k) j = sget d m j := by
  induction m with
  | nil => rfl
  | cons x m ih =>
    obtain ⟨a, w⟩ := x
    by_cases ha : a = k
    · have hj : ¬ k = j := fun e => h e.symm
      simpa [sdel, ha, sget, hj] using ih
    · simp [sdel, ha, sget, ih]

theorem sget_sins_self (d : α) (m : Sparse α) (k : Nat) (v : α) : sget d (sins m k v) k = v := by
  induction m with
  | nil => simp [sins, sget]
  | cons x m ih =>
    obtain ⟨a, w⟩ := x
    by_cases h1 : k < a
    · simp [sins, h1, sget]
    · by_cases h2 : k = a
      · simp [sins, h2, sget]
      · have h3 : ¬ a = k := fun e => h2 e.symm
        simpa [sins, h1, h2, sget, h3] using ih

theorem sget_sins_ne (d : α) (m : Sparse α) {k j : Nat} (v : α) (h : j ≠ k) : sget d (sins m k v) j = sget d m j := by
  have hk : ¬ k = j := fun e => h e.symm
  induction m with
  | nil => simp [sins, sget, hk]
  | cons x m ih =>
    obtain ⟨a, w⟩ := x
    by_cases h1 : k < a
    · simp [sins, h1, sget, hk]
    · by_cases h2 : k = a
      · subst h2; simp [sins, sget, hk]
      · simp [sins, h1, h2, sget, ih]

/-- A store reads back what was written. -/
@[simp] theorem sget_sset_self [DecidableEq α] (d : α) (m : Sparse α) (k : Nat) (v : α) : sget d (sset d m k v) k = v := by
  unfold sset
  split
  · next h => rw [h]; exact sget_sdel_self d m k
  · exact sget_sins_self d m k v

/-- A write leaves every other key as it was, also under another default. -/
theorem sget_sset_ne [DecidableEq α] (d e : α) (m : Sparse α) {k j : Nat} (v : α) (h : j ≠ k) :
    sget e (sset d m k v) j = sget e m j := by
  unfold sset
  split
  · exact sget_sdel_ne e m h
  · exact sget_sins_ne e m v h

theorem canonicalFrom_weaken [DecidableEq α] (d : Nat → α) {a b : Nat} {m : Sparse α} (hab : a ≤ b)
    (h : canonicalFrom d b m = true) : canonicalFrom d a m = true := by
  cases m with
  | nil => rfl
  | cons x m =>
    obtain ⟨k, w⟩ := x
    simp only [canonicalFrom, Bool.and_eq_true, decide_eq_true_eq] at h ⊢
    exact ⟨⟨Nat.le_trans hab h.1.1, h.1.2⟩, h.2⟩

theorem canonicalFrom_sdel [DecidableEq α] (d : Nat → α) (b k : Nat) (m : Sparse α) (h : canonicalFrom d b m = true) :
    canonicalFrom d b (sdel m k) = true := by
  induction m generalizing b with
  | nil => rfl
  | cons x m ih =>
    obtain ⟨a, w⟩ := x
    simp only [canonicalFrom, Bool.and_eq_true, decide_eq_true_eq] at h
    by_cases ha : a = k
    · have hr := ih (a + 1) h.2
      simp only [sdel, ha, if_true]
      rw [ha] at hr h
      exact canonicalFrom_weaken d (Nat.le_succ_of_le h.1.1) hr
    · simp only [sdel, ha, if_false, canonicalFrom, Bool.and_eq_true, decide_eq_true_eq]
      exact ⟨h.1, ih (a + 1) h.2⟩

theorem canonicalFrom_sins [DecidableEq α] (d : Nat → α) (b k : Nat) (v : α) (m : Sparse α) (hb : b ≤ k) (hv : v ≠ d k)
    (h : canonicalFrom d b m = true) : canonicalFrom d b (sins m k v) = true := by
  induction m generalizing b with
  | nil => simp [sins, canonicalFrom, hb, hv]
  | cons x m ih =>
    obtain ⟨a, w⟩ := x
    simp only [canonicalFrom, Bool.and_eq_true, decide_eq_true_eq] at h
    by_cases h1 : k < a
    · simp only [sins, h1, if_true, canonicalFrom, Bool.and_eq_true, decide_eq_true_eq]
      exact ⟨⟨hb, hv⟩, ⟨Nat.succ_le_of_lt h1, h.1.2⟩, h.2⟩
    · by_cases h2 : k = a
      · subst h2
        simp only [sins, Nat.lt_irrefl, if_false, if_true, canonicalFrom, Bool.and_eq_true, decide_eq_true_eq]
        exact ⟨⟨hb, hv⟩, h.2⟩
      · simp only [sins, h1, h2, if_false, canonicalFrom, Bool.and_eq_true, decide_eq_true_eq]
        exact ⟨h.1, ih (a + 1) (by omega) h.2⟩

/-- A write keeps the canonical form. -/
theorem canonicalFrom_sset [DecidableEq α] (d : Nat → α) (k : Nat) (v : α) (m : Sparse α) (h : canonicalFrom d 0 m = true) :
    canonicalFrom d 0 (sset (d k) m k v) = true := by
  unfold sset
  split
  · exact canonicalFrom_sdel d 0 k m h
  · next hv => exact canonicalFrom_sins d 0 k v m (Nat.zero_le k) hv h

/-- What `lpushMax` holds: the newest `k`. -/
theorem lpushMax_length (k : Nat) (l : List α) (x : α) : (lpushMax k l x).length = Nat.min k (l.length + 1) := by
  unfold lpushMax
  dsimp only
  split
  · next h => simp only [List.length_append, List.length_cons, List.length_nil] at h ⊢; exact (Nat.min_eq_right h).symm
  · next h =>
    simp only [List.length_append, List.length_cons, List.length_nil, List.length_drop] at h ⊢
    rw [show Nat.min k (l.length + 1) = k from Nat.min_eq_left (by omega)]
    omega

theorem lmodify_length (p : α → Bool) (f : α → α) (l : List α) : (lmodify p f l).length = l.length := by simp [lmodify]

/-- The elements that are not meant stay. -/
theorem mem_lmodify_of_not {p : α → Bool} {f : α → α} {l : List α} {x : α} (hx : x ∈ l) (hp : p x = false) :
    x ∈ lmodify p f l := by
  simp only [lmodify, List.mem_map]
  exact ⟨x, hx, by simp [hp]⟩

end Sys2Proof.Machine
end

