-- ==== Sys2Proof/Tests/Slice0.lean ====
section
/-!
SUPPORT. Sys2Proof/Tests/Slice0.lean: for every clause of every statement with hypotheses a state and operands that meet all of them
together (test_<statement>_<clause>), an ill-formed command for each check of WellFormed, and small tests of single steps against
numbers worked out by hand from the manual.
-/
namespace Sys2Proof.Tests
open Sys2Proof Sys2Proof.Machine
set_option Elab.async false

/-! ### Records of zeros to start from -/

def shardKey0 : ShardKey := { handle := 0, gen := 0, shard := 0 }
def lut0 : Lut := { scale := 0, minsum := 0, gen := 0, m := 0, zeroSpan := false, handle := 0, e := [] }
def subRequestMsg0 : SubRequestMsg := {
  epoch := 0, key := shardKey0, k := 0, ef := 0, rerankDepth := 0, widen := 0, requireFull := false, budgetUs := 0, token :=
  none, tid := 0, lut := lut0, filter := [], qvec := [], forwarded := false }
def partialMsg0 : PartialMsg := {
  shard := 0, status := 0, failed := false, shortfall := false, widenUsed := 0, energy := 0, forwarded := false, records := [] }
def misrouteMsg0 : MisrouteMsg := { epoch := 0, newHolder := none }
def subBatchMsg0 : SubBatchMsg := {
  epoch := 0, key := shardKey0, tid := 0, reqId := 0, ackDurable := false, records := [], forwarded := false }
def subBatchAnswerMsg0 : SubBatchAnswerMsg := {
  words := [], duplicate := false, draining := false, energy := 0, forwarded := false }
def jRec0 : JRec := { msn := 0, ckey := 0, kind := 0, lid := 0, oldId := 0, attr := 0, full := bempty }
def reqEntry0 : ReqEntry := { tid := 0, reqId := 0, crc := 0, firstMsn := 0, count := 0, words := [] }
def stepRec0 : StepRec := { key := shardKey0, firstMsn := 0, lastMsn := 0, recs := [], reqs := [] }
def bagItem0 : BagItem := { row := 0, bag := 0, pos := 0, fseq := 0 }
def subBagMsg0 : SubBagMsg := { handle := 0, gen := 0, mean := false, width := 0, items := [], forwarded := false }
def pooledMsg0 : PooledMsg := {
  bag := 0, firstPos := 0, energy := 0, status := 0, detail := 0, saturated := false, rows := 0, hints := [], forwarded :=
  false, elems := [] }
def rowOpMsg0 : RowOpMsg := { handle := 0, gen := 0, row := 0, fseq := 0, op := 0, elems := [], forwarded := false }
def rowAnswerMsg0 : RowAnswerMsg := {
  row := 0, rseq := 0, status := 0, detail := 0, saturated := false, home := 0, energy := 0, forwarded := false }
def rowMoveMsg0 : RowMoveMsg := { handle := 0, gen := 0, row := 0, rseq := 0, record := 0, mirror := false }
def rowRefMsg0 : RowRefMsg := { handle := 0, gen := 0, row := 0 }
def redirectMsg0 : RedirectMsg := { handle := 0, gen := 0, row := 0, home := 0 }
def shardRole0 : ShardRole := {
  key := shardKey0, floor := 0, primary := none, partner := none, replicas := [], incoming := none, committed := 0 }
def cMap0 : CMap := {
  epoch := 0, prevDigest := 0, minCompat := 0, council := [], spareTarget := 0, members := [], slices := [], shards := [],
  tables := [], gens := [], trunks := [], descs := [] }
def ballot0 : Ballot := { round := 0, node := 0 }
def prepareMsg0 : PrepareMsg := { epoch := 0, ballot := ballot0 }
def promiseMsg0 : PromiseMsg := { epoch := 0, ballot := ballot0, accepted := none }
def acceptMsg0 : AcceptMsg := { epoch := 0, ballot := ballot0, map := cMap0 }
def commitMsg0 : CommitMsg := { epoch := 0, ballot := ballot0, digest := 0 }
def joinMsg0 : JoinMsg := { serial := 0, compat := 0, sled := 0, former := none, report := bempty, certs := bempty, trunks := [] }
def copyMsg0 : CopyMsg := { key := shardKey0, obj := .code, off := 0, data := bempty }
def rebuildReadMsg0 : RebuildReadMsg := { key := shardKey0, firstMsn := 0, lastMsn := 0, lids := [] }
def rebuildDataMsg0 : RebuildDataMsg := { key := shardKey0, recs := [], reqs := [], fulls := [] }
def population0 : Population := { dimms := [], pkgs := [] }
def memberLoad0 : MemberLoad := { node := 0, reads := 0, free := 0 }
def evRec0 : EvRec := { tick := 0, code := 0, sev := 0, page := 0, lo := 0, hi := 0, lastDelta := 0, rep := 0, seq := 0 }
def tenantCfg0 : TenantCfg := {
  mode := 0, rate := 0, burst := 0, cir := 0, cbs := 0, pir := 0, pbs := 0, admitMax := 0, qpMax := 0 }
def tenant0 : Tenant := {
  tid := 0, cfg := tenantCfg0, next := none, started := false, balance := 0, peak := 0, held := 0, holds := [] }
def qpWrite0 : QpWrite := { psn := 0, err := false }
def qpCfg0 : QpCfg := {
  tid := 0, mtu := 0, lport := 0, slotLog2 := 0, ringDepth := 0, dscp := 0, remoteQpn := 0, rqPsn := 0, sqPsn := 0, rnrTimer :=
  0, retryCnt := 0, rnrRetry := 0, ackTimeout := 0, errAddr := 0, errRkey := 0, gid := 0 }
def qp0 : Qp := {
  num := 0, cfg := qpCfg0, state := 0, slots := [], sqPsn := 0, unacked := [], errQueue := [], retries := 0, rnrs := 0, rate :=
  0, lastCnp := 0, lastCut := none, cnpSent := none, samples := [] }
def sub0 : Sub := {
  tag := 0, olds := [], dst := 0, shard := 0, msg := .epochFetch 0, rerouted := false, rerun := false, parked := false, sent :=
  false, sentAt := 0, state := 0 }
def req0 : Req := {
  id := 0, qp := 0, tid := 0, op := 0, d := bempty, arrive := 0, deadline := 0, epoch := 0, handle := 0, gen := 0, auxGen := 0,
  rebound := false, rerouted := false, vec := none, fanned := false, subs := [], records := [], widened := false, widenUsed :=
  0, fullShard := false, energy := 0, words := [], duplicate := false, tabHandle := 0, tabGen := 0, pooled := [], sats := 0,
  detail := 0, mce := none, prog := none }
def dRow0 : DRow := { kind := 0, base := 0, first := 0, last := 0, ents := [], bad := false, asked := false, release := 0 }
def pStep0 : PStep := {
  step := stepRec0, opened := 0, closed := false, sent := false, sentAt := 0, written := false, accepted := false, here :=
  false, there := false, answers := [] }
def dupEnt0 : DupEnt := { key := shardKey0, tid := 0, reqId := 0, crc := 0, words := [], at_ := none }
def shard0 : Shard := {
  key := shardKey0, slice := 0, state := 0, role := 0, entryId := 0, entryLvl := 0, committed := 0, lastMsn := 0, idHigh := 0,
  reuse := [], sweepAt := 0, bases := [], code := [], adj := [], upper := [], attr := [], idmap := [], keyidx := [], full := [],
  pages := [], drows := [], steps := [], doneSteps := [], journal := [], ckpt := 0, waiting := [], copyPoint := none, forwarded
  := 0, fwdQ := [], fwdKeys := [], foldWalks := [], folded := 0, level0 := 0, repaired := 0, ages := [], sealed := none,
  sealSent := false }
def cand0 : Cand := {
  lid := 0, sum := 0, walk := false, delta := false, key := 0, exact := false, sat := false, dist := 0, read := 0 }
def walkEnd0 : WalkEnd := { status := 0, list := [], expansions := 0, evals := 0 }
def subReq0 : SubReq := {
  id := 0, msg := subRequestMsg0, src := 0, tag := 0, arrive := 0, budgetEnd := 0, width := 0, walkEnd := none, snap := none,
  lutAddr := 0, steps := 0, walk := none, delta := none, prev := [], rerank := [], reranking := false, mce := none, energy := 0
  }
def ctx0 : Ctx := {
  state := 0, role := 0, fold := false, shadow := false, key := shardKey0, width := 0, degree := 0, level := 0, base0 := false,
  snap := 0, deadline := 0, salt := 0, lutAddr := 0, lut := lut0, expansions := 0, evals := 0, tierFaults := 0, skips := 0,
  curId := 0, curSum := 0, curTop := 0, curUp := 0, idHigh := 0, sub := 0, expandCap := 0, filter := 0, cand := [], res := [],
  stage := .pop, arrived := false, lutWait := false, buf := 0, bufBad := false, asked := [], codes := [], todo := [], sums :=
  [], entered := [], page := none, order := 0, issued := 0, spent := 0, bad := false }
def emit0 : Emit := { sum := 0, slot := 0, folded := false, lid := 0, row := (false, 0) }
def batch0 : Batch := { key := shardKey0, opened := 0, subs := [] }
def pass0 : Pass := {
  num := 0, key := shardKey0, begun := 0, subs := [], started := false, units := [], more := [], ended := [], lists := [], bad
  := false, failed := false }
def ten0 : Ten := { fmt := 0, dims := [], vals := [] }
def tDesc0 : TDesc := { fmt := 0, role := 0, rank := 0, seq := 0, dims := [], off := 0, scale := 0 }
def tOp0 : TOp := { code := 0, flags := 0, in0 := 0, in1 := 0, in2 := 0, out := 0, aux := 0, a0 := 0, a1 := 0, a2 := 0, a3 := 0 }
def prog0 : Prog := {
  id := 0, cls := 0, state := 0, handle := 0, gen := 0, need := 0, arrays := [], ops := [], descs := [], seqLen := 0, tens :=
  [], op := 0, ran := false, begun := 0, deadline := none, req := none, key := none, restarted := false, saturated := false,
  zeroNorm := false, pages := [], base := 0, avoid := [] }
def rowOut0 : RowOut := { row := 0, towards := 0, fseq := 0, conf := none }
def rowAck0 : RowAck := { tag := 0, dst := 0, rtag := 0, ans := rowAnswerMsg0 }
def tabSt0 : TabSt := {
  handle := 0, gen := 0, desc := bempty, owner := 0, base := 0, rows := [], image := [], imgUas := [], here := [], away := [],
  redirect := [], waits := [], served := [], acks := [], restoring := [], bad := [], reads := [], updates := [], lastReads :=
  [], lastUpd := [], total := [], hot := [], overLim := 0, reserved := 0, windowAt := 0, outN := [], inN := [], fwdN := [] }
def unitSt0 : UnitSt := { state := 0, fused := 0, aged := 0, cur := 0, charges := [], leaving := none }
def pgEnt0 : PgEnt := {
  allowed := 0, home := 0, pinned := false, open_ := false, moving := false, heat := 0, tid := 0, internal := false, frame := 0,
  defHome := 0, promoted := false, order := 0, target := 0, tframe := 0, dirty := 0, hold := false, heldN := 0, retire := false,
  clean := none, acc := 0, idleAt := 0, ceTicks := [], waiters := [] }
def objRange0 : ObjRange := {
  base := 0, pages := 0, allowed := 0, defHome := 0, open_ := false, internal := false, pinned := false, tid := 0, what := 0,
  key := shardKey0 }
def quota0 : Quota := { stack := 0, dimm := 0, flash := 0, promo := 0, usedStack := 0, usedDimm := 0, usedFlash := 0 }
def dma0 : Dma := {
  state := 0, tid := 0, cls := 0, total := 0, progress := 0, deadline := 0, job := none, addr := 0, write := false, data :=
  bempty, page := none }
def fMap0 : FMap := { mstate := 0, blk := 0, page := 0, slot := 0, seq := 0, tid := 0, data := bempty }
def wUnit0 : WUnit := {
  ua := 0, seq := 0, stream := 0, tid := 0, data := bempty, at_ := 0, blk := 0, page := 0, slot := 0, stage := 0, jour := none,
  ckpt := none }
def fRead0 : FRead := { ua := 0, cls := 0, at_ := 0, onMap := false, blk := 0 }
def root0 : Root := { ckptSeq := 0, seq := 0, pool := 0, reserve := 0, health := [], opens := [], resv := [], map := [] }
def link0 : Link := {
  state := 0, cabled := [], active := [], spare := none, peer := 0, serial := 0, compat := 0, rxSeq := 0, acked := 0, replays :=
  0, credits := [], heard := 0 }
def lane0 : Lane := { state := 0, link := none, pos := 0, rate := 0, peer := 0, peerLane := 0 }
def await0 : Await := { tag := 0, dst := 0, m := .epochFetch 0, at_ := 0 }
def fwd0 : Fwd := { key := shardKey0, table := false, towards := 0, at_ := 0 }
def proposal0 : Proposal := {
  epoch := 0, ballot := ballot0, change := .reform, own := cMap0, map := cMap0, phase := 0, promises := [], accepts := [],
  backoff := none }
def suspicion0 : Suspicion := { node := 0, at_ := 0, nonces := [] }
def shadowWork0 : ShadowWork := { id := 0, page := 0, ended := 0, on := none, differs := false, lo := 0, hi := 0 }
def tftp0 : Tftp := { blk := 0, next_ := 0, data := bempty, client := bempty }
def flashJob0 : FlashJob := { cal := false, data := bempty, req := 0, at_ := 0 }
def chunkOp0 : ChunkOp := { id := 0, data := bempty, at_ := 0 }

/-! ### A small composition: node 1 (this one) and node 2, index 7, table 8, encoder 9 -/

/-- A byte string from (offset, length, value). -/
def mk (len : Nat) (l : List (Nat × Nat × Nat)) : Blob :=
  { len := len, bits := l.foldl (fun a p => a + (p.2.2 % 2 ^ (8 * p.2.1)) <<< (8 * p.1)) 0 }

def member1 : Member := { node := 1, serial := 11, sled := 0, compat := 3, state := .active }
def member2 : Member := { node := 2, serial := 22, sled := 1, compat := 3, state := .active }
def k7 : ShardKey := { handle := 7, gen := 0, shard := 0 }
def here1 : Place := { node := 1, slice := 0 }
def there2 : Place := { node := 2, slice := 0 }
def role7 : ShardRole := { shardRole0 with key := k7, floor := 3, primary := some here1, partner := some there2 }
def trole8 : TableRole := { key := { handle := 8, gen := 0, shard := 0 }, home := some here1, partner := none }
def map5 : CMap :=
  { cMap0 with
    epoch := 5, minCompat := 3, council := [2], spareTarget := 0, members := [member1, member2], shards := [role7], tables := [trole8],
    gens := [{ handle := 7, gen := 0 }, { handle := 8, gen := 0 }, { handle := 9, gen := 0 }] }
/-- D 8, M 16, DEGREE 16, one shard, REPLICAS 1, FP32 vectors (R57). -/
def desc7 : Blob := mk 64 [(0, 4, 7), (8, 1, 16), (9, 1, 16), (10, 2, 8), (13, 1, 1), (14, 2, 1), (16, 2, 1000), (18, 2, 16), (20, 4, 4096), (24, 4, 1)]
def gen7 : IdxGen := { handle := 7, gen := 0, desc := desc7, codebook := some { len := 1024, bits := 0 }, owner := 0 }
def shard7 : Shard := { shard0 with key := k7, state := 1, entryId := lidNone, bases := [0, 0, 0, 0, 0, 0, 0, 0] }
/-- 100 rows of 2 FP32 values in one shard (R197). -/
def desc8 : Blob := mk 64 [(0, 4, 8), (8, 8, 100), (16, 2, 1), (18, 2, 2), (0x14, 2, 1), (0x18, 4, 16)]
def tab8 : TabSt := { tabSt0 with handle := 8, desc := desc8 }
def tenA : Tenant := { tenant0 with cfg := { tenantCfg0 with rate := 1000, burst := 16, admitMax := 8, qpMax := 8 }, started := true, balance := 16 }
def qp3 : Qp := { qp0 with num := 3, cfg := { qpCfg0 with slotLog2 := 12, ringDepth := 8, retryCnt := 7 }, state := 1 }
def link2 : Link := { link0 with state := 2, cabled := [0, 1], active := [0, 1], peer := 2, serial := 22, compat := 3 }

/-- The state after reset with changes. -/
def R (f : Node → Node) : State := { State.reset with node := f State.reset.node }

/-- The composition, with changes. -/
def W (f : Node → Node) : State := R (fun n => f { n with
  nodeId := 1, map := map5, quorum := true, qps := [qp3], tenants := [tenA], gens := [gen7], shards := [shard7], tabs := [tab8],
  links := [(0, some link2)] })

def hdr (m : Msg) : MsgHdr :=
  { cls := BitVec.ofNat 4 (msgClass m).1, compat := 3, src := 2, dst := 1, epoch := 5, hops := 0, typ := BitVec.ofNat 8 (msgClass m).2,
    len := 1, tag := 9, flits := 1, reserved := false }

/-- A QUERY of 8 FP32 zeros for index 7 (R14), K results, answered at 0x1000. -/
def qd (k : Nat) : Blob :=
  mk 128 [(0, 4, 0x01100002), (4, 2, 16), (6, 2, k), (8, 4, 7), (0x10, 8, 77), (0x18, 8, 0x1000), (0x20, 4, 5), (0x24, 4, 4096), (0x2C, 2, 8), (0x2E, 2, 64)]

theorem Received.of {s : State} {q : Nat} {d : Blob} {x : Qp} (h : nodeStopped s.node = false ∧ qpFind s.node q = some x ∧
    x.state = 1 ∧ x.slots.length < x.cfg.ringDepth ∧ d.len ≤ 2 ^ x.cfg.slotLog2 ∧ 64 ≤ d.len ∧ (police x.cfg.tid s.node).1 = true) :
    Received s q d x := ⟨h.1, h.2.1, h.2.2.1, h.2.2.2.1, h.2.2.2.2.1, h.2.2.2.2.2.1, h.2.2.2.2.2.2⟩

theorem Admitted.of {s : State} {q : Nat} {d : Blob} {x : Qp} (h : Received s q d x)
    (h2 : (admitEntry x.cfg.tid (policed s x)).1 = none ∧ ∀ r ∈ s.node.reqs, r.id < s.node.nextReq) : Admitted s q d x :=
  ⟨h, h2.1, h2.2⟩

theorem QueryReady.of {s : State} {q : Nat} {d : Blob} {x : Qp} {g : IdxGen} (h : Admitted s q d x)
    (h2 : admitsClients s.node = true ∧ queryHeaderBad x d (policed s x) = none ∧ currentIdx s.node (bword d 8) = some g ∧ queryItemsBad g d (policed s x) = none ∧
      hasRights s.node false x.cfg.tid g.handle = true ∧ (qKind d = 0 ∨ hasRights s.node false x.cfg.tid (qAux d) = true)) : QueryReady s q d x g :=
  ⟨h, h2.1, h2.2.1, h2.2.2.1, h2.2.2.2.1, h2.2.2.2.2.1, h2.2.2.2.2.2⟩

theorem MutateReady.of {s : State} {q : Nat} {d : Blob} {x : Qp} {g : IdxGen} {l : List MutRec} (h : Admitted s q d x)
    (h2 : admitsClients s.node = true ∧ mutateHeaderBad x d (policed s x) = none ∧ currentIdx s.node (bword d 8) = some g ∧ mutateRecs d = .inr l ∧
      hasRights s.node true x.cfg.tid g.handle = true) : MutateReady s q d x g l :=
  ⟨h, h2.1, h2.2.1, h2.2.2.1, h2.2.2.2.1, h2.2.2.2.2⟩

theorem LookupReady.of {s : State} {q op : Nat} {d : Blob} {x : Qp} {t : TabSt} (h : Admitted s q d x)
    (h2 : admitsClients s.node = true ∧ lookupHeaderBad x op d (some t) = none ∧ currentTab s.node (bword d 8) = some t ∧ lookupItemsBad op d t = none ∧
      hasRights s.node (decide (op ≠ 0)) x.cfg.tid (bword d 8) = true) : LookupReady s q op d x t :=
  ⟨h, h2.1, h2.2.1, h2.2.2.1, h2.2.2.2.1, h2.2.2.2.2⟩

theorem Taken.of {n : Node} {h : MsgHdr} {m : Msg} (h1 : malformed h m = false ∧ h.hops.toNat ≤ 6 ∧ foreign n h m = false ∧
    h.dst = n.nodeId ∧ (n.seen.filter (fun x => n.tick ≤ x.2.2 + ticksMs 10)).any (fun x => x.1 = h.src.toNat && x.2.1 = seenTag h m) = false ∧
    (h.epoch.toNat ≤ n.map.epoch ∨ h.cls.toNat = 0)) : Taken n h m := ⟨h1.1, h1.2.1, h1.2.2.1, h1.2.2.2.1, h1.2.2.2.2.1, h1.2.2.2.2.2⟩

theorem MgmtReady.of {s : State} {q : Nat} {d : Blob} {x : Qp} {o : MgmtOp} (h : Admitted s q d x)
    (h2 : mgmtBad x o d (policed s x) = none ∧ x.cfg.tid = 0 ∧ handleBusy (mgmtEntered s q d x o) s.node.nextReq o.handle = false ∧
      s.node.flashJob = none ∧ mapBusy s.node = false ∧ (o.map = true → s.node.quorum = true)) : MgmtReady s q d x o :=
  ⟨h, h2.1, h2.2.1, h2.2.2.1, h2.2.2.2.1, h2.2.2.2.2.1, h2.2.2.2.2.2⟩

/-- A DELETE record of a key (R152). -/
def delRec (k : Nat) : Blob := mk 32 [(0, 8, k), (8, 4, 0x20000004)]

/-- A MUTATE of index 7 with these records (R14, R152). -/
def md (l : List Blob) : Blob :=
  bconcat (mk 64 [(0, 4, 0x02100000 + (1 + (l.length + 1) / 2)), (6, 2, l.length), (8, 4, 7), (0x10, 8, 78), (0x18, 8, 0x1000), (0x20, 4, 5),
    (0x24, 4, 4096), (0x32, 2, if l = [] then 0 else 64), (0x34, 4, 32 * l.length)] :: l ++ if l.length % 2 = 1 then [mk 32 []] else [])

/-- A LOOKUP of table 8 (R14): rows for a POOL, or one update record. -/
def ld (op items : Nat) (l : List Nat) : Blob :=
  mk 192 ([(0, 4, 0x03100003 + op * 2 ^ 16), (5, 1, if op = 0 then 1 else 0), (6, 2, items), (8, 4, 8), (0x10, 8, 79), (0x18, 8, 0x1000), (0x20, 4, 5),
    (0x24, 4, 4096), (0x28, 2, if op = 0 then 64 else 0), (0x2A, 2, if items = 0 then 0 else 128), (64, 2, if op = 0 then items else 0)] ++
    l.mapIdx (fun i v => (128 + 8 * i, 8, v)))

def mbatch : SubBatchMsg := { subBatchMsg0 with epoch := 5, key := k7, records := [{ off := 64, body := delRec 5 }] }
def msub : Sub := { sub0 with tag := 9, dst := 2, msg := .subBatch mbatch, sent := true }
def mreq : Req := { req0 with qp := 3, op := 2, d := md [delRec 5], epoch := 5, handle := 7, deadline := 10000000, subs := [msub] }
def zeros8 : List F32 := [0, 0, 0, 0, 0, 0, 0, 0]
def qmsg : SubRequestMsg := { subRequestMsg0 with epoch := 5, key := k7, k := 1, ef := 16, budgetUs := 1000 }
def qsub : Sub := { sub0 with tag := 9, dst := 2, msg := .subRequest qmsg, sent := true }
def qreq : Req := { req0 with qp := 3, op := 1, d := qd 1, epoch := 5, handle := 7, deadline := 10000000, vec := some zeros8 }
def qreqF : Req := { qreq with fanned := true, subs := [qsub] }
/-- The index under COSINE, where a zero vector is refused. -/
def gen7c : IdxGen := { gen7 with desc := mk 64 [(0, 4, 7), (5, 1, 2), (8, 1, 16), (9, 1, 16), (10, 2, 8), (13, 1, 1), (14, 2, 1), (16, 2, 1000), (18, 2, 16), (20, 4, 4096), (24, 4, 1)] }
def lut7 : Lut := (buildLut gen7 { len := 1024, bits := 0 } zeros8).getD lut0
def qs : SubReq := { subReq0 with msg := qmsg, src := 2, tag := 9, budgetEnd := 100000 }
def qsS : SubReq := { qs with snap := some 0 }
def qsW : SubReq := { qs with msg := { qmsg with k := 16, widen := 3, budgetUs := 1000 }, width := 0 }

/-- Key 5 as local id 4 in the key index (R43). -/
def shardI : Shard := { shard7 with keyidx := [(0, slotMk 5 4)], idmap := [(4, idmapMk 5 0)], idHigh := 5 }
def pstep0 : PStep := { pStep0 with step := { stepRec0 with key := k7 } }
def pstepS : PStep := { pStep0 with step := { stepRec0 with key := k7, firstMsn := 1, lastMsn := 1 }, closed := true, sent := true }
def pstepA : PStep := { pStep0 with
  step := { stepRec0 with key := k7, firstMsn := 1, lastMsn := 1, recs := [{ jRec0 with kind := 2, msn := 1, lid := 4 }] }, closed := true,
  sent := true, accepted := true }
def stepM : StepRec := { stepRec0 with key := k7, firstMsn := 1, lastMsn := 1, recs := [{ jRec0 with kind := 2, msn := 1, lid := 4 }] }
/-- The map with the shard's primary at node 2, and with node 2 an incoming holder without a role. -/
def roleP : ShardRole := { role7 with primary := some there2, partner := some here1 }
def mapP : CMap := { map5 with shards := [roleP] }
def roleQ : ShardRole := { role7 with primary := some here1, partner := none, incoming := some 2 }
def mapQ : CMap := { map5 with shards := [roleQ] }
/-- A USED delta row of one entry, M 16, local id 4, MSN 1, with its CRC-16 (R52). -/
def row4 : Nat := 1 + 1 <<< 80 + 1 <<< 88 + 8 <<< 96 + 16 <<< 104 + (tailMk false 4 0 <<< 64) <<< 128 + 29003 <<< 8176
/-- One delta row with the entry of local id 4, MSN 1 (R52). -/
def ent4 : DEnt := { code := 0, folded := false, lid := 4, msn := 1 }
def foldShard (f : Shard → Shard) : Shard :=
  f { shard7 with
    committed := 1, lastMsn := 1, pages := [0], drows := [{ dRow0 with kind := 1, base := 1, first := 1, last := 1, ents := [(1, 4)] }],
    idmap := [(4, idmapMk 5 0)], idHigh := 5 }
def foldNode (f : Shard → Shard) (n : Node) : Node := putRow (pageRow 0 0) row4 { n with shards := [foldShard f] }

/-- The CRC-16 run with its register as a numeral after every byte, so that the kernel holds no long sum. -/
def crcRun : Nat → Nat → Nat → Nat
  | 0, _, c => c
  | k + 1, bits, 0 => crcRun k (bits / 256) (crc16Byte 0 (bits % 256))
  | k + 1, bits, c + 1 => crcRun k (bits / 256) (crc16Byte (c + 1) (bits % 256))

theorem crcRun_eq (k bits c : Nat) : crcRun k bits c = crc16Run k bits c := by
  induction k generalizing bits c with
  | zero => cases c <;> rfl
  | succ k ih => cases c <;> simp [crcRun, crc16Run, ih]

theorem row4_good : rowBad row4 0 8 16 = false := by
  have h : crc16 { len := 1022, bits := row4 % 2 ^ 8176 } = rowCrc row4 := by
    rw [crc16, ← crcRun_eq]; decide +kernel
  unfold rowBad
  rw [h]
  decide +kernel

/-- A shard with one delta row that passes the controller's check: the reads change nothing, and its unfolded entries are the row's. -/
theorem oneRow {n : Node} {key : ShardKey} {s : Shard} {d : DRow} (h : shardFind n key = some s) (hd : s.drows = [d]) (hk : d.kind = 1)
    (hb : d.bad = false) (hr : placeBad n s 0 = false) :
    ctlReads key (fun _ => true) n = n ∧
    unfoldedEnts n s = ((rowEnts (openRow n (physRow s 0))).filter (fun e => !e.folded)).map (fun e => (0, e)) := by
  refine ⟨?_, ?_⟩
  · simp [ctlReads, ctlRead, h, hd, hk, hb, hr]
  · simp [unfoldedEnts, goodRows, hd, hk, hb, hr]

theorem foldRow {f : Shard → Shard} (h : shardFind (W (foldNode f)).node k7 = some (foldShard f))
    (hd : (foldShard f).drows = [{ dRow0 with kind := 1, base := 1, first := 1, last := 1, ents := [(1, 4)] }])
    (hr : openRow (W (foldNode f)).node (physRow (foldShard f) 0) = row4)
    (hs : shardCB (W (foldNode f)).node (foldShard f).key = 8 ∧ (foldShard f).key.shard = 0) :
    ctlReads k7 (fun _ => true) (W (foldNode f)).node = (W (foldNode f)).node ∧
    unfoldedEnts (W (foldNode f)).node (foldShard f) = ((rowEnts row4).filter (fun e => !e.folded)).map (fun e => (0, e)) := by
  have := oneRow h hd rfl rfl (by rw [placeBad, hr, hs.1, hs.2]; exact row4_good)
  rw [hr] at this
  exact this

/-- The three shards of the witnesses: item 4 deleted, its folding walk ended, and another item as entry. -/
def foldDel (s : Shard) : Shard := { s with idmap := [(4, idmapMk 5 1)] }
def foldDone (s : Shard) : Shard := { s with foldWalks := [(1, [])] }
def foldOther (s : Shard) : Shard := { s with entryId := 6 }

theorem foldDel_row : ctlReads k7 (fun _ => true) (W (foldNode foldDel)).node = (W (foldNode foldDel)).node ∧
    unfoldedEnts (W (foldNode foldDel)).node (foldShard foldDel) = ((rowEnts row4).filter (fun e => !e.folded)).map (fun e => (0, e)) :=
  foldRow (by decide +kernel) (by decide +kernel) (by decide +kernel) (by decide +kernel)
theorem foldDone_row : ctlReads k7 (fun _ => true) (W (foldNode foldDone)).node = (W (foldNode foldDone)).node ∧
    unfoldedEnts (W (foldNode foldDone)).node (foldShard foldDone) = ((rowEnts row4).filter (fun e => !e.folded)).map (fun e => (0, e)) :=
  foldRow (by decide +kernel) (by decide +kernel) (by decide +kernel) (by decide +kernel)
theorem foldOther_row : ctlReads k7 (fun _ => true) (W (foldNode foldOther)).node = (W (foldNode foldOther)).node ∧
    unfoldedEnts (W (foldNode foldOther)).node (foldShard foldOther) = ((rowEnts row4).filter (fun e => !e.folded)).map (fun e => (0, e)) :=
  foldRow (by decide +kernel) (by decide +kernel) (by decide +kernel) (by decide +kernel)

/-- Local id 6 with an edge to local id 4, which is deleted. -/
def repShard : Shard := { shard7 with
  committed := 3, adj := [(6, blk0Mk 1 true true 0 0 [4])], idmap := [(4, idmapMk 5 2), (6, idmapMk 8 0)] }
def badShard : Shard := { shard7 with drows := [{ dRow0 with kind := 2, bad := true }], pages := [0] }
/-- A walk is due: engine 5 holds the LUT, the entry's code page is mapped. -/
def walkShard : Shard := { shard7 with entryId := 4 }
def walkNode (n : Node) : Node :=
  let n : Node := { n with subReqs := [qsS], shards := if n.shards = [shard7] then [walkShard] else n.shards }
  ptSet 0 (some pgEnt0) (engSet 5 { engEmpty with luts := [0], ready := [0] } n)
def ctx7 : Ctx := { ctx0 with state := 1, key := k7, width := 16, degree := 16, deadline := 100000 }
def pass5 : Pass := { pass0 with key := k7, subs := [0], started := true, units := [5] }
def encP : Prog := { prog0 with
  state := 1, ran := true, req := some 0, descs := [{ tDesc0 with role := 3 }], ops := [tOp0], tens := [(0, { ten0 with dims := [8], vals := [0, 0, 0, 0, 0, 0, 0, 0] })] }
/-- A LOOKUP of row 99 in progress, and an update of it. -/
def lbag : SubBagMsg := { subBagMsg0 with handle := 8, width := 2, items := [{ bagItem0 with row := 99 }] }
def lsub : Sub := { sub0 with tag := 9, dst := 2, msg := .subBag lbag, sent := true }
def lreq : Req := { req0 with qp := 3, op := 3, d := ld 0 1 [99], epoch := 5, handle := 8, tabHandle := 8, deadline := 10000000, subs := [lsub] }
def urow : RowOpMsg := { rowOpMsg0 with handle := 8, row := 99, op := 1, elems := [0, 0] }
def usub : Sub := { sub0 with tag := 9, dst := 2, msg := .rowOp urow, sent := true }
def ureq : Req := { req0 with qp := 3, op := 3, d := ld 1 1 [99, 0], epoch := 5, handle := 8, tabHandle := 8, deadline := 10000000, subs := [usub] }
def hotTab : TabSt := { tab8 with
  desc := mk 64 [(0, 4, 8), (8, 8, 100), (16, 2, 1), (18, 2, 2), (0x17, 1, 10)], overLim := 2, hot := [(0, 5)], reads := [(0, 50)] }

def pgM : PgEnt := { pgEnt0 with home := 3, moving := true, target := 1, tframe := 7 }
def pgHot : PgEnt := { pgEnt0 with home := 2, allowed := 7, heat := 15 }
def moveNode (n : Node) : Node :=
  let n : Node := ptSet 0 (some pgHot) (quotaSet 0 { quota0 with usedStack := 1 } n)
  { n with tick := ticksMs 1 }
def dmaNode (n : Node) : Node :=
  let n : Node := ptSet 0 (some { pgEnt0 with home := 1 }) (dmaSet 0 { dma0 with state := 1, total := 1 } n)
  { n with mmu := { n.mmu with objs := [{ objRange0 with pages := 1 }] } }
/-- A formatted flash pool, with changes. -/
def ftlW (f : Ftl → Ftl) (n : Node) : Node := { n with ftl := f { n.ftl with pool := 2 } }
def block0 : BlockId := { ch := 0, ce := 0, lun := 0, plane := 0, block := 0 }
def wUnit1 : WUnit := { wUnit0 with stage := 1 }

def cable1 : Cable := { link := 3, lanes := [4, 5], serial := 22, peers := [0, 1], spare := some 6, peerSpare := 2 }
def trained1 : LaneInfo := { ok := true, peerNode := 2, peerSerial := 22, peerCompat := 3, peerLane := 0 }
def awaitR : Await := { await0 with tag := 9, dst := 2, m := .rebuildRead { rebuildReadMsg0 with key := k7 } }
def onC (l : List (BitVec 12)) (n : Node) : Node := { n with map := { map5 with council := l } }
def prop6 (p : Proposal) (n : Node) : Node := { n with council := { n.council with prop := some p } }
def attrObj : ObjRange := { objRange0 with key := k7, what := 4, pages := 1 }

def frame1 : FrameInfo := { port := 15, forUs := true, fcsOk := true, src := { len := 6, bits := 0x665544332211 } }
def qpE : Qp := { qp3 with unacked := [{ qpWrite0 with psn := 4, err := true }], errQueue := [{ hdr := bempty, imm := 1, arrive := none }], cfg := { qp3.cfg with rnrRetry := 2 }, rnrs := 1 }

def pwrW (f : PwrSt → PwrSt) (n : Node) : Node := { n with pwr := f n.pwr }

def work1 : ShadowWork := { shadowWork0 with id := 1, page := pageOf .gwe 0 }
def work2 : ShadowWork := { work1 with on := some (pageOf .gwe 1), differs := true }
/-- Out of reset, as the board controller sees it. -/
def up (f : Node → Node) : State := W (fun n => f { n with topState := 2 })
/-- A MGMT descriptor with an inline payload (R14, R387). -/
def gd (op ret : Nat) (l : List (Nat × Nat × Nat)) (p : Blob) : Blob :=
  let units := 1 + (p.len + 63) / 64
  bconcat [mk 64 ([(0, 4, 0x04100000 + units), (6, 2, op), (0x10, 8, 80), (0x18, 8, 0x1000), (0x20, 4, 5), (0x24, 4, 64 + ret)] ++
    (if p.len = 0 then [] else [(0x30, 4, 64), (0x34, 4, p.len)]) ++ l), p, mk ((units - 1) * 64 - p.len) []]
def tenPay : Blob := mk 32 [(0, 4, 0x00500000), (4, 4, 0x00010001), (8, 4, 0x00010001), (12, 4, 0x00010001), (16, 4, 0x00010001)]
def qpPay : Blob := mk 64 [(0, 4, 0x40C00), (4, 4, 0x80000), (8, 4, 2), (20, 4, 0x11008), (40, 4, 1)]
def segW (rw : Bool) (n : Node) : Node := { n with mmu := { n.mmu with segments := [{ tid := 0, addr := 0, pages := 1, base := 0, rw := rw }] } }
def idxPay : Blob := mk 64 [(0, 4, 10), (8, 1, 16), (9, 1, 16), (10, 2, 8), (13, 1, 1), (14, 2, 1), (16, 2, 1000), (18, 2, 16), (20, 4, 4096), (24, 4, 1)]
def tabPay : Blob := mk 64 [(0, 4, 11), (8, 8, 100), (16, 2, 1), (18, 2, 8), (0x14, 2, 10)]
def qp14 : Qp := { qp3 with cfg := { qp3.cfg with slotLog2 := 14 } }
/-- A REG_WRITE of four staged bytes of zeros; its CRC-32C is 0x48674BC7. -/
def stagedD : Blob := mk 64 [(0, 4, 0x04110001), (6, 2, 0x58), (0x24, 4, 64), (0x28, 8, 0x100), (0x34, 4, 4)]
def stagedC : Blob := mk 64 [(0, 4, 0x04110001), (6, 2, 0x58), (0x24, 4, 64), (0x28, 8, 0x100), (0x34, 4, 4), (0x38, 4, 0x48674BC7)]

def zeros4 : Blob := { len := 4, bits := 0 }
theorem crc4 : crc32c zeros4 = 0x48674BC7 := by simp [zeros4, crc32c, crc32cRun, crc32cByte, crc32cBit]
theorem stagedC_good : mgmtBad qp3 (opRegWrite stagedC) stagedC (policed (W id) qp3) = none := by
  unfold mgmtBad
  rw [show mPayload (policed (W id) qp3) stagedC = zeros4 by decide +kernel, crc4]
  decide +kernel

/-- The same for CRC-32C. -/
def crc32Run : Nat → Nat → Nat → Nat
  | 0, _, c => c
  | k + 1, bits, 0 => crc32Run k (bits / 256) (crc32cByte 0 (bits % 256))
  | k + 1, bits, c + 1 => crc32Run k (bits / 256) (crc32cByte (c + 1) (bits % 256))

theorem crc32Run_eq (k bits c : Nat) : crc32Run k bits c = crc32cRun k bits c := by
  induction k generalizing bits c with
  | zero => cases c <;> rfl
  | succ k ih => cases c <;> simp [crc32Run, crc32cRun, ih]

/-- Flits of 256 bytes with a header and a CRC-32C (R259): SEQ 0; SEQ 1; SEQ 1 as NAK; SEQ 2. -/
def flit0 : Blob := mk 252 [(0, 8, 0)]
def flit1 : Blob := mk 252 [(0, 8, 2 ^ 52)]
def flit1n : Blob := mk 252 [(0, 8, 2 ^ 52 + 2 ^ 39)]
def flit2 : Blob := mk 252 [(0, 8, 2 ^ 53)]

theorem flit_good {l : Link} {d : Blob} {crc : Word} (hl : flitSize l = 256 ∧ d.len = 252)
    (hc : crc.toNat = crc32Run 252 d.bits 0xFFFFFFFF ^^^ 0xFFFFFFFF) : flitCrcOk l d crc = true := by
  simp only [flitCrcOk, hl.1, hl.2, hc, crc32c, crc32Run_eq]
  decide

/-- A decoded slot of 4,096 zeros for UA 0 with its CRC-32C (R240). -/
def slotHdr0 : BitVec 256 := 2566472073#256 <<< 128
def slotData0 : Blob := { len := 4096, bits := 0 }
theorem slot_good : readJudged 0 (.soft slotHdr0 slotData0) ≠ .uncorrectable := by
  have h : slotGood 0 slotHdr0 slotData0 = true := by
    have hc : crc32c (bslice slotData0 0 4096) = 2566472073 := by rw [crc32c, ← crc32Run_eq]; decide +kernel
    rw [slotGood, hc]; decide +kernel
  simp [readJudged, h]

/-- Page 0 alone is mapped: no other page waits for a frame. -/
theorem noOther {e : PgEnt} (p : Nat) (e' : PgEnt) (hp : p ≠ 0) (h : ptGet (W (ptSet 0 (some e))).node p = some e') :
    e'.waiters ≠ [] → e'.home = 3 → e'.moving = true := by
  have : ptGet (W (ptSet 0 (some e))).node p = none := by simp [ptGet, ptSet, W, R, State.reset, Node.reset, sget, sset, sins, Ne.symm hp]
  rw [this] at h; cases h
/-! ### The hypotheses of the statements are met together -/

theorem test_IdleStepTicks_0 : ∃ (s : State), s.pending = [] :=
  ⟨State.reset, by decide +kernel⟩

theorem test_StoppedNodeUnchanged_0 : ∃ (c : Instr) (s : State), nodeStopped s.node = true ∧ actsStopped c = false :=
  ⟨.cnp 3, R (fun n => { n with topState := 4 }), by decide +kernel⟩

theorem test_StoppedNodeStaysInert_0 : ∃ (s t : State), Inert s ∧ step s = .next t :=
  ⟨R (fun n => { n with topState := 4 }), R (fun n => { n with topState := 4, tick := 1 }), ⟨by decide, by decide⟩, rfl⟩

theorem test_StoresOkKept_0 : ∃ (s t : State), StoresOk s.node ∧ step s = .next t :=
  ⟨State.reset, R (fun n => { n with tick := 1 }),
    ⟨by decide, by decide, by decide, by decide, by decide, by decide, by decide, by decide, by decide, by decide, by decide, fun _ h => absurd h (by simp [State.reset, Node.reset]), by decide, by decide⟩,
    rfl⟩

theorem test_FuseCountNeverFalls_0 : ∃ (s t : State), step s = .next t :=
  ⟨State.reset, R (fun n => { n with tick := 1 }), rfl⟩

theorem test_ResetPinAndTopReset_0 : ∃ (s : State) (ns : Nat), s.node.boot.inReset = false ∧ 10000 ≤ ns :=
  ⟨State.reset, 10000, by decide +kernel⟩

theorem test_ResetPinAndTopReset_1 : ∃ (s : State) (ns : Nat), ns < 1000 :=
  ⟨State.reset, 999, by decide +kernel⟩

theorem test_ResetPinAndTopReset_2 : ∃ (s : State) (straps : BitVec 4), s.node.boot.inReset = true :=
  ⟨R (fun n => { n with boot := { n.boot with inReset := true } }), 1, by decide +kernel⟩

theorem test_ResetPinAndTopReset_3 : ∃ (s : State) (v : Word), Live s ∧ wbits v 31 16 = 0x5A17 ∧ wbits v 0 0 = 1 :=
  ⟨State.reset, 0x5A170001, by decide +kernel⟩

theorem test_ResetPinAndTopReset_4 : ∃ (s : State) (v : Word), (wbits v 31 16 ≠ 0x5A17 ∨ wbits v 0 0 ≠ 1) :=
  ⟨State.reset, 0x5A160001, by decide +kernel⟩

theorem test_TestPort_4 : ∃ (s : State) (pins : Nat), s.node.boot.inReset = true :=
  ⟨R (fun n => { n with boot := { n.boot with inReset := true } }), 0, by decide +kernel⟩

theorem test_TestPort_5 : ∃ (s : State), s.node.boot.inReset = true :=
  ⟨R (fun n => { n with boot := { n.boot with inReset := true } }), by decide +kernel⟩

theorem test_TestPort_6 : ∃ (s : State), s.node.boot.inReset = true :=
  ⟨R (fun n => { n with boot := { n.boot with inReset := true } }), by decide +kernel⟩

theorem test_TestPort_7 : ∃ (s : State) (pins : Nat), s.node.boot.inReset = false :=
  ⟨State.reset, 0, by decide +kernel⟩

theorem test_RomAndFuses_0 : ∃ (s : State) (p : Population), Live s ∧ s.node.topState = 0 ∧ s.node.bootState = 0 :=
  ⟨State.reset, population0, by decide +kernel⟩

theorem test_RomAndFuses_1 : ∃ (s : State), Live s ∧ s.node.bootState = 2 :=
  ⟨R (fun n => { n with bootState := 2 }), by decide +kernel⟩

theorem test_RomAndFuses_2 : ∃ (s : State), Live s :=
  ⟨State.reset, by decide +kernel⟩

theorem test_RecoverySources_0 : ∃ (s : State) (blk : Option Nat) (client : Blob), Live s ∧ s.node.topState = 1 ∧
    s.node.recSource = 0 ∧ s.node.rcv.tftp.any (fun t => t.client ≠ client) = false ∧ blk ≠ some 0 :=
  ⟨R (fun n => { n with topState := 1 }), some 8192, bempty, by decide +kernel⟩

theorem test_RecoverySources_1 : ∃ (s : State) (block : Nat) (data : Blob) (w : Tftp), Live s ∧ s.node.topState = 1 ∧
    s.node.rcv.tftp = some w ∧ block = w.next_ % 65536 ∧ data.len ≤ w.blk :=
  ⟨R (fun n => { n with topState := 1, rcv := { n.rcv with tftp := some { tftp0 with blk := 512, next_ := 1 } } }), 1, mk 512 [],
    { tftp0 with blk := 512, next_ := 1 }, by decide +kernel⟩

theorem test_RecoverySources_1_short : ∃ (s : State) (block : Nat) (data : Blob) (w : Tftp), Live s ∧ s.node.topState = 1 ∧
    s.node.rcv.tftp = some w ∧ block = w.next_ % 65536 ∧ data.len ≤ w.blk :=
  ⟨R (fun n => { n with topState := 1, rcv := { n.rcv with tftp := some { tftp0 with blk := 512, next_ := 65536 } } }), 0,
    mk 511 [], { tftp0 with blk := 512, next_ := 65536 }, by decide +kernel⟩

theorem test_RecoverySources_2 : ∃ (s : State) (crc : Word), Live s ∧ s.node.topState = 1 ∧ s.node.recSource = 0 ∧ crc32c
    s.node.rcv.page = crc.toNat ∧ (s.node.rcv.chunk = 0 ∨ s.node.rcv.chunk = s.node.rcv.next_) :=
  ⟨R (fun n => { n with topState := 1, rcv := { n.rcv with page := { len := 0, bits := 0 } } }), 0, by decide +kernel⟩

theorem test_RecoverySources_3 : ∃ (s : State) (source : Nat), Live s ∧ s.node.topState = 1 ∧ source ≠ 0 ∧ s.node.recSource =
    source ∧ s.node.flashJob = none :=
  ⟨R (fun n => { n with topState := 1, recSource := 2 }), 2, by decide +kernel⟩

theorem test_RecoverySources_4 : ∃ (s : State) (j : FlashJob), Live s ∧ s.node.flashJob = some j :=
  ⟨R (fun n => { n with flashJob := some { flashJob0 with cal := true } }), { flashJob0 with cal := true }, by decide +kernel⟩

theorem test_RecoverySources_4_image : ∃ (s : State) (j : FlashJob), Live s ∧ s.node.flashJob = some j :=
  ⟨R (fun n => { n with flashJob := some flashJob0 }), flashJob0, by decide +kernel⟩

theorem test_RegisterReads_0 : ∃ (s : State) (addr : BitVec 24) (b : Blk) (i : Nat), Live s ∧ addr.toNat % 4 = 0 ∧ addr.toNat <
    0x800000 ∧ regKind addr.toNat = some .rc ∧ blkOfPage (addr.toNat / 0x1000) = some (b, i) ∧ isLo b (addr.toNat % 0x1000) =
    false ∧ isLo b (addr.toNat % 0x1000 - 4) = false ∧ freeBits b (addr.toNat % 0x1000) = 0 ∧ b ≠ .rdma ∧ pageOf b i * 0x1000 +
    addr.toNat % 0x1000 = addr.toNat :=
  ⟨State.reset, 0x011114, .frt, 0, by decide +kernel⟩

theorem test_RegisterReads_1 : ∃ (s : State) (q : Nat) (addr : BitVec 24) (b : Blk) (i : Nat), Live s ∧ addr.toNat % 4 = 0 ∧
    addr.toNat < 0x800000 ∧ regKind addr.toNat = some .lo64 ∧ blkOfPage (addr.toNat / 0x1000) = some (b, i) ∧ isLo b (addr.toNat
    % 0x1000) = true ∧ isLo b (addr.toNat % 0x1000 - 4) = false ∧ freeBits b (addr.toNat % 0x1000) = 0 ∧ pageOf b i * 0x1000 +
    addr.toNat % 0x1000 = addr.toNat :=
  ⟨State.reset, 3, 0x100120, .gwe, 0, by decide +kernel⟩

theorem test_RegisterReads_2 : ∃ (s : State) (q : Nat) (addr : BitVec 24) (k : RegKind) (b : Blk) (i : Nat), Live s ∧ addr.toNat
    % 4 = 0 ∧ addr.toNat < 0x800000 ∧ regKind addr.toNat = some k ∧ blkOfPage (addr.toNat / 0x1000) = some (b, i) ∧ 4 ≤
    addr.toNat % 0x1000 ∧ isLo b (addr.toNat % 0x1000 - 4) = true :=
  ⟨State.reset, 3, 0x100124, .hi64, .gwe, 0, by decide +kernel⟩

theorem test_RegisterWrites_0 : ∃ (s : State) (p : Path) (addr : BitVec 24) (v : Word) (r m : Nat) (b : Blk) (i : Nat), Live s ∧
    p ≠ .i3c ∧ addr.toNat % 4 = 0 ∧ addr.toNat < 0x800000 ∧ regKind addr.toNat = some (.rw r m) ∧ blkOfPage (addr.toNat /
    0x1000) = some (b, i) ∧ 0x100 ≤ addr.toNat % 0x1000 ∧ [Blk.top, .pwr, .thm, .recb, .boot, .mmu, .ftl, .svc, .gwe, .mce,
    .tns, .msc, .eth, .pl].contains b = false :=
  ⟨State.reset, .qp 3, 0x01110C, 0, 838991972, 0xFFFFFFFF, .frt, 0, by decide +kernel⟩

theorem test_RegisterWrites_1 : ∃ (s : State) (p : Path) (addr : BitVec 24) (v : Word), Live s ∧ p ≠ .i3c ∧ addr.toNat <
    0x800000 ∧ (regKind addr.toNat = none ∨ regKind addr.toNat = some .ro ∨ regKind addr.toNat = some .rc ∨ regKind addr.toNat =
    some .lo64 ∨ regKind addr.toNat = some .hi64) :=
  ⟨State.reset, .firmware, 0x011114, 1, by decide +kernel⟩

theorem test_RegisterWrites_1_none : ∃ (s : State) (p : Path) (addr : BitVec 24) (v : Word), Live s ∧ p ≠ .i3c ∧ addr.toNat <
    0x800000 ∧ (regKind addr.toNat = none ∨ regKind addr.toNat = some .ro ∨ regKind addr.toNat = some .rc ∨ regKind addr.toNat =
    some .lo64 ∨ regKind addr.toNat = some .hi64) :=
  ⟨State.reset, .firmware, 0x7FF000, 1, by decide +kernel⟩

theorem test_HeaderCommands_0 : ∃ (s : State) (page : BitVec 12), Live s ∧ (blkOfPage page.toNat).isSome :=
  ⟨State.reset, 0x100, by decide +kernel⟩

theorem test_HeaderCommands_1 : ∃ (s : State) (page : BitVec 12) (v : Word), Live s ∧ (blkOfPage page.toNat).isSome :=
  ⟨State.reset, 0x100, 2, by decide +kernel⟩

theorem test_HeaderCommands_2 : ∃ (s : State) (page : BitVec 12) (v : Word), Live s ∧ (blkOfPage page.toNat).isSome :=
  ⟨State.reset, 0x100, 7, by decide +kernel⟩

theorem test_HeaderCommands_3 : ∃ (s : State) (page : BitVec 12), Live s ∧ (blkOfPage page.toNat).isSome ∧ page ≠ 0 :=
  ⟨State.reset, 1, by decide +kernel⟩

theorem test_RecorderFreeze_0 : ∃ (s : State) (page : BitVec 12), Live s ∧ (blkOfPage page.toNat).isSome ∧ (pageGet s.node
    page.toNat).frozen = false :=
  ⟨State.reset, 0x100, by decide +kernel⟩

theorem test_RecorderFreeze_1 : ∃ (s : State) (page : BitVec 12) (c : Instr), Live s ∧ (blkOfPage page.toNat).isSome ∧ (pageGet
    s.node page.toNat).frozen = true ∧ (c = .recorderUnfreeze page ∨ c = .freezeTimeout page) :=
  ⟨R (pageSet 0x100 { PageSt.empty with frozen := true }), 0x100, .freezeTimeout 0x100, by decide +kernel⟩

theorem test_RecorderFreeze_2 : ∃ (s : State) (page : BitVec 12), Live s ∧ (blkOfPage page.toNat).isSome ∧ (pageGet s.node
    page.toNat).frozen = false :=
  ⟨State.reset, 0x100, by decide +kernel⟩

theorem test_RecorderFreeze_3 : ∃ (s : State) (page : BitVec 12), Live s ∧ (blkOfPage page.toNat).isSome ∧ (pageGet s.node
    page.toNat).frozen = true :=
  ⟨R (pageSet 0x100 { PageSt.empty with frozen := true }), 0x100, by decide +kernel⟩

theorem test_DrainBits_0 : ∃ (s : State) (e : Fin 72) (v : Word), Live s :=
  ⟨R (unitSet (pageOf .gwe 71) unitSt0), 71, 0x80000000, by decide +kernel⟩

theorem test_DrainBits_1 : ∃ (s : State) (m : Fin 18) (v : Word), Live s :=
  ⟨R (unitSet (pageOf .mce 0) { unitSt0 with state := 2 }), 0, 0, by decide +kernel⟩

theorem test_DrainBits_2 : ∃ (s : State) (i : Fin 104) (v : Word), Live s :=
  ⟨R (unitSet (pageOf .tns 103) unitSt0), 103, 0x80000000, by decide +kernel⟩

theorem test_DrainBits_3 : ∃ (s : State) (i : Fin 72) (v : Word), Live s :=
  ⟨State.reset, 0, 0x80000000, by decide +kernel⟩

theorem test_QueryAdmission_0 : ∃ (s : State) (q : Nat) (d : Blob) (x : Qp) (g : IdxGen), QueryReady s q d x g ∧ qKind d = 0 ∧
    echoK d ≠ 0 ∧ g.codebook.isSome = true :=
  ⟨W id, 3, qd 1, qp3, gen7,
    (QueryReady.of (Admitted.of (Received.of (by decide +kernel)) (by decide +kernel)) (by decide +kernel)), by decide +kernel⟩

theorem test_QueryAdmission_0_most : ∃ (s : State) (q : Nat) (d : Blob) (x : Qp) (g : IdxGen), QueryReady s q d x g ∧ qKind d =
    0 ∧ echoK d ≠ 0 ∧ g.codebook.isSome = true :=
  ⟨W id, 3, qd 252, qp3, gen7,
    (QueryReady.of (Admitted.of (Received.of (by decide +kernel)) (by decide +kernel)) (by decide +kernel)), by decide +kernel⟩

theorem test_QueryAdmission_1 : ∃ (s : State) (q : Nat) (d : Blob) (x : Qp) (g : IdxGen), QueryReady s q d x g ∧ echoK d = 0 :=
  ⟨W id, 3, qd 0, qp3, gen7,
    (QueryReady.of (Admitted.of (Received.of (by decide +kernel)) (by decide +kernel)) (by decide +kernel)), by decide +kernel⟩

theorem test_QueryAdmission_2 : ∃ (s : State) (q : Nat) (d : Blob) (x : Qp) (o : Nat), Received s q d x ∧ queryHeaderBad x d
    (policed s x) = some o ∧ 64 ≤ bword d 0x24 :=
  ⟨W id, 3, qd 4097, qp3, 4, (Received.of (by decide +kernel)), by decide +kernel⟩

theorem test_QueryAdmission_3 : ∃ (s : State) (q : Nat) (d : Blob) (x : Qp), Received s q d x ∧ 64 ≤ bword d 0x24 :=
  ⟨W id, 3, qd 1, qp3, (Received.of (by decide +kernel)), by decide +kernel⟩

theorem test_MutateAdmission_0 : ∃ (s : State) (q : Nat) (d : Blob) (x : Qp) (g : IdxGen), MutateReady s q d x g [] :=
  ⟨W id, 3, md [], qp3, gen7,
    (MutateReady.of (Admitted.of (Received.of (by decide +kernel)) (by decide +kernel)) (by decide +kernel))⟩

theorem test_MutateAdmission_1 : ∃ (s : State) (q : Nat) (d : Blob) (x : Qp) (g : IdxGen) (m : MutRec) (p : BitVec 12),
    MutateReady s q d x g [m] ∧ primaryOf s.node
    { handle := g.handle, gen := g.gen, shard := shardOf (bnum m.body 0 8) (gShards g) } = some p ∧ hasRoute s.node p.toNat =
    true ∧ (∀ r ∈ s.node.reqs, r.op ≠ 2) :=
  ⟨W id, 3, md [delRec 5], qp3, gen7, { off := 64, body := delRec 5 }, 1,
    (MutateReady.of (Admitted.of (Received.of (by decide +kernel)) (by decide +kernel)) (by decide +kernel)), by decide +kernel⟩

theorem test_MutateAdmission_2 : ∃ (s : State) (h : MsgHdr) (m : SubBatchAnswerMsg) (r : Req) (sb : Sub) (b : SubBatchMsg) (w :
    BitVec 128) (m0 : MutRec) (x : Qp), Live s ∧ Taken s.node h (.subBatchAnswer m) ∧ tagOwner s.node h.tag.toNat = some (r, sb)
    ∧ reqFind s.node r.id = some r ∧ sb.msg = .subBatch b ∧ r.subs = [sb] ∧ r.op = 2 ∧ r.words = [] ∧ b.records = [m0] ∧
    m.draining = false ∧ m.words = [w] ∧ qpFind s.node r.qp = some x ∧ x.state = 1 ∧ 64 ≤ bword r.d 0x24 :=
  ⟨W (fun n => { n with reqs := [mreq] }), hdr (.subBatchAnswer { subBatchAnswerMsg0 with words := [0] }),
    { subBatchAnswerMsg0 with words := [0] }, mreq, msub, mbatch, 0, { off := 64, body := delRec 5 }, qp3, by decide +kernel,
    (Taken.of (by decide +kernel)), by decide +kernel⟩

theorem test_MutateAdmission_3 : ∃ (s : State) (req : Nat) (r : Req), Live s ∧ reqFind s.node req = some r ∧ r.op = 2 ∧
    r.subs.any (fun sb => sb.state = 0) = true ∧ (∀ sb ∈ r.subs, sb.state = 0 → ∃ m, sb.msg = .subBatch m) :=
  ⟨W (fun n => { n with reqs := [mreq] }), 0, mreq, by decide +kernel, by decide +kernel, by decide +kernel, by decide +kernel,
    (fun sb h _ => by simp [mreq] at h; exact ⟨mbatch, by rw [h]; rfl⟩)⟩

theorem test_LookupAdmission_0 : ∃ (s : State) (q : Nat) (d : Blob) (x : Qp) (tb : TabSt), LookupReady s q 0 d x tb ∧ bnum d 6 2
    = 0 :=
  ⟨W id, 3, ld 0 0 [], qp3, tab8,
    (LookupReady.of (Admitted.of (Received.of (by decide +kernel)) (by decide +kernel)) (by decide +kernel)), by decide +kernel⟩

theorem test_LookupAdmission_1 : ∃ (s : State) (q : Nat) (d : Blob) (x : Qp) (tb : TabSt) (p : BitVec 12) (row : Nat),
    LookupReady s q 0 d x tb ∧ bnum d 6 2 = 1 ∧ bnum d 5 1 = 1 ∧ bnum d (bnum d 0x2A 2) 8 = row ∧ rowOuts s.node q tb.handle row
    = [] ∧ routeOf s.node tb.handle row = none ∧ defaultHome s.node tb row = some p ∧ hasRoute s.node p.toNat = true :=
  ⟨W id, 3, ld 0 1 [99], qp3, tab8, 1, 99,
    (LookupReady.of (Admitted.of (Received.of (by decide +kernel)) (by decide +kernel)) (by decide +kernel)), by decide +kernel⟩

theorem test_LookupAdmission_2 : ∃ (s : State) (q : Nat) (d : Blob) (x : Qp) (tb : TabSt) (p : BitVec 12) (row op : Nat) (c :
    Instr), LookupReady s q op d x tb ∧ ((c = .lookupWrite q d ∧ op = 1) ∨ (c = .lookupAdd q d ∧ op = 2)) ∧ bnum d 6 2 = 1 ∧
    bnum d (bnum d 0x2A 2) 8 = row ∧ rowOuts s.node q tb.handle row = [] ∧ routeOf s.node tb.handle row = none ∧ defaultHome
    s.node tb row = some p ∧ hasRoute s.node p.toNat = true :=
  ⟨W id, 3, ld 1 1 [99, 0], qp3, tab8, 1, 99, 1, .lookupWrite 3 (ld 1 1 [99, 0]),
    (LookupReady.of (Admitted.of (Received.of (by decide +kernel)) (by decide +kernel)) (by decide +kernel)), by decide +kernel⟩

theorem test_QueryProgress_0 : ∃ (s : State) (req : Nat) (r : Req) (v : List F32) (g : IdxGen) (b : Blob) (lut : Lut) (p :
    BitVec 12), Live s ∧ reqFind s.node req = some r ∧ r.op = 1 ∧ r.fanned = false ∧ r.vec = some v ∧ genFind s.node r.handle
    r.gen = some g ∧ vecBad g r v = false ∧ g.codebook = some b ∧ buildLut g b (storedVec g v) = some lut ∧ epochsSince r.epoch
    s.node.map.epoch ≤ 1 ∧ budgetUs r s.node ≠ 0 ∧ gShards g = 1 ∧ queryHolders s.node
    { handle := g.handle, gen := g.gen, shard := 0 } (tokenOf r 0).isSome = [p] ∧ hasRoute s.node p.toNat = true :=
  ⟨W (fun n => { n with reqs := [qreq] }), 0, qreq, zeros8, gen7, { len := 1024, bits := 0 }, lut7, 1, by decide +kernel⟩

theorem test_QueryProgress_1 : ∃ (s : State) (req : Nat) (r : Req) (v : List F32) (g : IdxGen) (x : Qp), Live s ∧ reqFind s.node
    req = some r ∧ r.op = 1 ∧ r.fanned = false ∧ r.vec = some v ∧ genFind s.node r.handle r.gen = some g ∧ vecBad g r v = true ∧
    qpFind s.node r.qp = some x ∧ x.state = 1 ∧ 64 ≤ bword r.d 0x24 :=
  ⟨W (fun n => { n with gens := [gen7c], reqs := [qreq] }), 0, qreq, zeros8, gen7c, qp3, by decide +kernel⟩

theorem test_QueryProgress_2 : ∃ (s : State) (h : MsgHdr) (m : PartialMsg) (ecc : Bool) (r : Req) (sb : Sub) (b : SubRequestMsg)
    (w : BitVec 128) (x : Qp), Live s ∧ Taken s.node h (.partialMsg m) ∧ partialOwner s.node h.tag.toNat = some (r, sb) ∧
    reqFind s.node r.id = some r ∧ sb.msg = .subRequest b ∧ r.subs = [sb] ∧ r.op = 1 ∧ r.fanned = true ∧ r.records = [] ∧ echoK
    r.d ≠ 0 ∧ m.failed = false ∧ m.records = [w] ∧ qpFind s.node r.qp = some x ∧ x.state = 1 ∧ 64 ≤ bword r.d 0x24 :=
  ⟨W (fun n => { n with reqs := [{ qreqF with mce := some 0 }] }), hdr (.partialMsg { partialMsg0 with records := [1] }),
    { partialMsg0 with records := [1] }, true, { qreqF with mce := some 0 }, qsub, qmsg, 1, qp3, by decide +kernel,
    (Taken.of (by decide +kernel)), by decide +kernel⟩

theorem test_QueryProgress_3 : ∃ (s : State) (h : MsgHdr) (m : MisrouteMsg) (r : Req) (sb : Sub) (b : SubRequestMsg) (p : BitVec
    12), Live s ∧ Taken s.node h (.misroute m) ∧ tagOwner s.node h.tag.toNat = some (r, sb) ∧ sb.msg = .subRequest b ∧ m.epoch ≤
    s.node.map.epoch ∧ sb.rerouted = false ∧ budgetUs r s.node ≠ 0 ∧ (queryHolders s.node b.key b.token.isSome).filter (fun a =>
    a ≠ h.src) = [p] ∧ hasRoute s.node p.toNat = true :=
  ⟨W (fun n => { n with shards := [], map := { n.map with shards := [{ role7 with primary := some here1, replicas := [there2] }] }, reqs := [qreqF] }),
    hdr (.misroute misrouteMsg0), misrouteMsg0, qreqF, qsub, qmsg, 1, by decide +kernel, (Taken.of (by decide +kernel)),
    by decide +kernel⟩

theorem test_QueryProgress_4 : ∃ (s : State) (req : Nat) (r : Req) (x : Qp), Live s ∧ reqFind s.node req = some r ∧ (r.op = 1 ∧
    r.subs.any (fun sb => sb.state = 1) = false) ∨ r.op = 3 ∧ qpFind s.node r.qp = some x ∧ x.state = 1 ∧ 64 ≤ bword r.d 0x24 :=
  ⟨W (fun n => { n with reqs := [{ qreqF with subs := [] }] }), 0, { qreqF with subs := [] }, qp3, by decide +kernel⟩

theorem test_HolderServesQuery_0 : ∃ (s : State) (h : MsgHdr) (m : SubRequestMsg) (sh : Shard) (g : IdxGen) (r : ShardRole),
    Live s ∧ Taken s.node h (.subRequest m) ∧ shardFind s.node m.key = some sh ∧ genFind s.node m.key.handle m.key.gen = some g
    ∧ shardRole s.node.map m.key = some r ∧ (servingPlaces s.node r).any (fun p => p.node = s.node.nodeId) = true ∧ 2 ≤
    h.compat.toNat ∧ (∀ q ∈ s.node.subReqs, q.id < s.node.nextSub) :=
  ⟨W id, hdr (.subRequest qmsg), qmsg, shard7, gen7, role7, by decide +kernel, (Taken.of (by decide +kernel)), by decide +kernel,
    by decide +kernel, by decide +kernel, by decide +kernel, by decide +kernel,
    (fun q h => absurd h (by simp [W, R, State.reset, Node.reset]))⟩

theorem test_HolderServesQuery_1 : ∃ (s : State) (h : MsgHdr) (m : SubRequestMsg), Live s ∧ Taken s.node h (.subRequest m) ∧
    shardFind s.node m.key = none ∧ fwdFind s.node m.key false = none ∧ hasRoute s.node h.src.toNat = true :=
  ⟨W (fun n => { n with shards := [] }), hdr (.subRequest qmsg), qmsg, by decide +kernel, (Taken.of (by decide +kernel)),
    by decide +kernel⟩

theorem test_HolderServesQuery_2 : ∃ (s : State) (sub : Nat) (q : SubReq) (sh : Shard), Live s ∧ subFind s.node sub = some q ∧
    q.snap = none ∧ s.node.tick < q.budgetEnd ∧ shardFind s.node q.msg.key = some sh ∧ q.msg.token.getD 0 ≤ sh.committed :=
  ⟨W (fun n => { n with subReqs := [qs] }), 0, { qs with snap := none }, shard7, by decide +kernel⟩

theorem test_HolderServesQuery_3 : ∃ (s : State) (sub u : Nat) (q : SubReq) (sh : Shard) (g : IdxGen) (w : WalkEnd), Live s ∧
    subFind s.node sub = some q ∧ shardFind s.node q.msg.key = some sh ∧ genFind s.node q.msg.key.handle q.msg.key.gen = some g
    ∧ q.reranking = false ∧ q.mce = some u ∧ (q.steps = 0 ∨ s.node.tick < q.budgetEnd) ∧ q.walk = some w ∧ w.list = [] ∧ q.delta
    = some [] ∧ q.width ≠ 0 ∧ q.msg.rerankDepth = 0 ∧ hasRoute s.node q.src = true :=
  ⟨W (fun n => { n with subReqs := [{ qs with width := 16, mce := some 0, walk := some walkEnd0, delta := some [] }] }), 0, 0,
    { qs with width := 16, mce := some 0, walk := some walkEnd0, delta := some [] }, shard7, gen7, walkEnd0, by decide +kernel⟩

theorem test_HolderServesQuery_4 : ∃ (s : State) (sub u : Nat) (q : SubReq) (sh : Shard) (g : IdxGen) (w : WalkEnd) (d : List
    (Nat × Nat)), Live s ∧ subFind s.node sub = some q ∧ shardFind s.node q.msg.key = some sh ∧ genFind s.node q.msg.key.handle
    q.msg.key.gen = some g ∧ q.reranking = false ∧ q.mce = some u ∧ (q.steps = 0 ∨ s.node.tick < q.budgetEnd) ∧ q.walk = some w
    ∧ q.delta = some d ∧ widenDue q w.status w.list.length (survivors u g sh q w.list d s.node).1.length s.node.tick = true :=
  ⟨W (fun n => { n with subReqs := [{ qsW with mce := some 0, walk := some walkEnd0, delta := some [] }] }), 0, 0,
    { qsW with mce := some 0, walk := some walkEnd0, delta := some [] }, shard7, gen7, walkEnd0, [], by decide +kernel⟩

theorem test_HolderServesQuery_5 : ∃ (s : State) (sub u : Nat) (q : SubReq), Live s ∧ subFind s.node sub = some q ∧ q.mce = some
    u ∧ s.node.tick < q.budgetEnd ∧ ((activeUnits s.node .mce).any (fun i => decide (i ≠ u) && decide (mceLoad s.node i < 32)))
    = true :=
  ⟨W (fun n => { n with subReqs := [{ qs with mce := some 0 }] }), 0, 0, { qs with mce := some 0 }, by decide +kernel⟩

theorem test_HolderServesQuery_6 : ∃ (s : State) (sub lid u : Nat) (ok : Bool) (q : SubReq) (sh : Shard) (g : IdxGen) (c :
    Cand), Live s ∧ subFind s.node sub = some q ∧ q.mce = some u ∧ shardFind s.node q.msg.key = some sh ∧ genFind s.node
    q.msg.key.handle q.msg.key.gen = some g ∧ q.reranking = true ∧ q.rerank = [c] ∧ c.lid = lid ∧ c.read = 1 ∧ q.msg.k ≠ 0 ∧
    hasRoute s.node q.src = true ∧ (memReadFor (some q.msg.tid) (fullAddr g sh lid) (fullSize (gFullFmt g) (gDim g)) s.node).1 =
    true :=
  ⟨W (fun n => ptSet 0 (some pgEnt0) { n with subReqs := [{ qs with mce := some 0, reranking := true, rerank := [{ cand0 with read := 1 }] }] }),
    0, 0, 0, true, { qs with mce := some 0, reranking := true, rerank := [{ cand0 with read := 1 }] }, shard7, gen7,
    { cand0 with read := 1 }, by decide +kernel⟩

theorem test_HolderServesQuery_7 : ∃ (s : State) (sub u : Nat) (q : SubReq), Live s ∧ subFind s.node sub = some q ∧ q.reranking
    = true ∧ q.mce = some u :=
  ⟨W (fun n => { n with subReqs := [{ qs with mce := some 0, reranking := true }] }), 0, 0,
    { qs with mce := some 0, reranking := true }, by decide +kernel⟩

theorem test_CommitSteps_0 : ∃ (s : State) (h : MsgHdr) (m : SubBatchMsg) (sh : Shard) (g : IdxGen), Live s ∧ Taken s.node h
    (.subBatch m) ∧ shardFind s.node m.key = some sh ∧ genFind s.node m.key.handle m.key.gen = some g ∧ sh.role ≠ 0 ∧ fwdFind
    s.node m.key false = none ∧ hasRoute s.node h.src.toNat = true :=
  ⟨W (fun n => { n with shards := [{ shard7 with role := 1 }] }), hdr (.subBatch mbatch), mbatch, { shard7 with role := 1 },
    gen7, by decide +kernel, (Taken.of (by decide +kernel)), by decide +kernel⟩

theorem test_CommitSteps_1 : ∃ (s : State) (h : MsgHdr) (m : SubBatchMsg) (sh : Shard) (g : IdxGen) (r : ShardRole) (p : Place)
    (m0 : MutRec), Live s ∧ Taken s.node h (.subBatch m) ∧ shardFind s.node m.key = some sh ∧ genFind s.node m.key.handle
    m.key.gen = some g ∧ sh.role = 0 ∧ sh.state = 1 ∧ s.node.quorum = true ∧ shardRole s.node.map m.key = some r ∧ r.partner =
    some p ∧ sh.sealed = none ∧ m.reqId = 0 ∧ m.records = [m0] ∧ nbits (bword m0.body 8) 31 28 = 2 ∧ deleteCheck m0.body = none
    ∧ sh.steps = [] ∧ rebuildOut s.node m.key = false ∧ liveOf sh (bnum m0.body 0 8) = none ∧ hasRoute s.node h.src.toNat = true
    :=
  ⟨W id, hdr (.subBatch mbatch), mbatch, shard7, gen7, role7, there2, { off := 64, body := delRec 5 }, by decide +kernel,
    (Taken.of (by decide +kernel)), by decide +kernel⟩

theorem test_CommitSteps_2 : ∃ (s : State) (h : MsgHdr) (m : SubBatchMsg) (sh : Shard) (g : IdxGen) (r : ShardRole) (p : Place)
    (m0 : MutRec) (lid : Nat), Live s ∧ Taken s.node h (.subBatch m) ∧ shardFind s.node m.key = some sh ∧ genFind s.node
    m.key.handle m.key.gen = some g ∧ sh.role = 0 ∧ sh.state = 1 ∧ s.node.quorum = true ∧ shardRole s.node.map m.key = some r ∧
    r.partner = some p ∧ sh.sealed = none ∧ m.reqId = 0 ∧ m.records = [m0] ∧ nbits (bword m0.body 8) 31 28 = 2 ∧ deleteCheck
    m0.body = none ∧ sh.steps = [] ∧ s.node.ftl.pool ≠ 4 ∧ rebuildOut s.node m.key = false ∧ liveOf sh (bnum m0.body 0 8) = some
    lid ∧ hasRoute s.node p.node.toNat = true :=
  ⟨W (fun n => { n with shards := [shardI] }), hdr (.subBatch mbatch), mbatch, shardI, gen7, role7, there2,
    { off := 64, body := delRec 5 }, 4, by decide +kernel, (Taken.of (by decide +kernel)), by decide +kernel⟩

theorem test_CommitSteps_3 : ∃ (s : State) (key : ShardKey) (sh : Shard) (p : PStep), Live s ∧ shardFind s.node key = some sh ∧
    sh.steps.find? (fun p => !p.closed) = some p :=
  ⟨W (fun n => { n with shards := [{ shard7 with steps := [pstep0] }] }), k7, { shard7 with steps := [pstep0] }, pstep0,
    by decide +kernel⟩

theorem test_CommitSteps_4 : ∃ (s : State) (h : MsgHdr) (m : StepRec) (sh : Shard) (r : ShardRole) (p q : Place), Live s ∧ Taken
    s.node h (.step m) ∧ shardFind s.node m.key = some sh ∧ shardRole s.node.map m.key = some r ∧ sh.role = 1 ∧ r.primary = some
    p ∧ p.node = h.src ∧ r.partner = some q ∧ q.node = s.node.nodeId ∧ m.firstMsn = sh.lastMsn + 1 ∧ sh.lastMsn < m.lastMsn ∧ (∀
    x ∈ m.recs, sh.lastMsn < x.msn) ∧ hasRoute s.node h.src.toNat = true :=
  ⟨W (fun n => { n with shards := [{ shard7 with role := 1 }], map := mapP }), hdr (.step stepM), stepM,
    { shard7 with role := 1 }, roleP, there2, here1, by decide +kernel, (Taken.of (by decide +kernel)), by decide +kernel⟩

theorem test_CommitSteps_5 : ∃ (s : State) (h : MsgHdr) (m : StepRec) (r : ShardRole), Live s ∧ Taken s.node h (.step m) ∧
    shardRole s.node.map m.key = some r ∧ r.primary.any (fun p => p.node = h.src) = false :=
  ⟨W (fun n => { n with map := mapQ }), hdr (.step stepM), stepM, roleQ, by decide +kernel, (Taken.of (by decide +kernel)),
    by decide +kernel⟩

theorem test_CommitSteps_6 : ∃ (s : State) (h : MsgHdr) (key : ShardKey) (last : Nat) (sh : Shard) (p : PStep), Live s ∧ Taken
    s.node h (.stepAccept key last) ∧ shardFind s.node key = some sh ∧ sh.role = 0 ∧ sh.steps = [p] ∧ p.closed = true ∧ p.sent =
    true ∧ p.accepted = false ∧ p.step.lastMsn = last ∧ sh.fwdQ = [] :=
  ⟨W (fun n => { n with shards := [{ shard7 with steps := [pstepS] }] }), hdr (.stepAccept k7 1), k7, 1,
    { shard7 with steps := [pstepS] }, pstepS, by decide +kernel, (Taken.of (by decide +kernel)), by decide +kernel⟩

theorem test_CommitSteps_7 : ∃ (s : State) (key : ShardKey) (sh : Shard) (g : IdxGen) (p : PStep) (x : JRec), Live s ∧ shardFind
    s.node key = some sh ∧ genFind s.node key.handle key.gen = some g ∧ sh.steps = [p] ∧ p.sent = true ∧ p.written = false ∧
    p.accepted = true ∧ p.step.recs = [x] ∧ x.kind = 2 ∧ x.msn < 2 ^ 64 ∧ encoding s.node key = false ∧ sh.fwdQ = [] :=
  ⟨W (fun n => { n with shards := [{ shard7 with steps := [pstepA] }] }), k7, { shard7 with steps := [pstepA] }, gen7, pstepA,
    { jRec0 with kind := 2, msn := 1, lid := 4 }, by decide +kernel⟩

theorem test_CommitSteps_8 : ∃ (s : State) (key : ShardKey) (sh : Shard) (r : ShardRole) (p : PStep) (d c : BitVec 12), Live s ∧
    shardFind s.node key = some sh ∧ shardRole s.node.map key = some r ∧ sh.steps.find? (fun p => p.sent && !p.accepted) = some
    p ∧ mirrorOf r = [d] ∧ s.node.map.council = [c] ∧ hasRoute s.node c.toNat = true :=
  ⟨W (fun n => { n with shards := [{ shard7 with steps := [pstepS] }] }), k7, { shard7 with steps := [pstepS] }, role7, pstepS,
    2, 2, by decide +kernel⟩

theorem test_ShardUpkeep_0 : ∃ (s : State) (key : ShardKey) (tid reqId tick : Nat) (d : DupEnt), Live s ∧ s.node.dups.find? (fun
    d => d.key = key && d.tid = tid && d.reqId = reqId && d.at_.isSome) = some d ∧ d.at_ = some tick :=
  ⟨W (fun n => { n with dups := [{ dupEnt0 with key := k7, reqId := 6, at_ := some 3 }] }), k7, 0, 6, 3,
    { dupEnt0 with key := k7, reqId := 6, at_ := some 3 }, by decide +kernel⟩

theorem test_ShardUpkeep_1 : ∃ (s : State) (key : ShardKey) (top : Nat) (nbrs : List (List Nat)) (sh : Shard) (g : IdxGen) (i :
    Nat) (e : DEnt), Live s ∧ shardFind (ctlReads key (fun _ => true) s.node) key = some sh ∧ genFind s.node key.handle key.gen
    = some g ∧ oldestUnfolded (ctlReads key (fun _ => true) s.node) sh = some (i, e) ∧ e.msn ≤ sh.committed ∧ idmapDel (sget 0
    sh.idmap e.lid) ≠ 0 :=
  ⟨W (foldNode foldDel), k7, 0, [], foldShard foldDel, gen7, 0, ent4, by decide +kernel, by rw [foldDel_row.1]; decide +kernel,
    by decide +kernel, by rw [foldDel_row.1, oldestUnfolded, foldDel_row.2]; decide +kernel, by decide +kernel⟩

theorem test_ShardUpkeep_2 : ∃ (s : State) (key : ShardKey) (top : Nat) (nbrs : List (List Nat)) (sh : Shard) (g : IdxGen) (i :
    Nat) (e : DEnt), Live s ∧ shardFind (ctlReads key (fun _ => true) s.node) key = some sh ∧ genFind s.node key.handle key.gen
    = some g ∧ oldestUnfolded (ctlReads key (fun _ => true) s.node) sh = some (i, e) ∧ e.msn ≤ sh.committed ∧ idmapDel (sget 0
    sh.idmap e.lid) = 0 ∧ gDegree g ≤ 48 ∧ (∃ w ∈ sh.foldWalks, w.1 = e.msn) ∧ (∀ a, inFlash (ctlReads key (fun _ => true)
    s.node) a = false) :=
  ⟨W (foldNode foldDone), k7, 0, [], foldShard foldDone, gen7, 0, ent4, by decide +kernel,
    by rw [foldDone_row.1]; decide +kernel, by decide +kernel,
    by rw [foldDone_row.1, oldestUnfolded, foldDone_row.2]; decide +kernel, by decide +kernel, by decide +kernel,
    by decide +kernel, by decide +kernel,
    (fun a => by rw [foldDone_row.1]; simp [inFlash, ptGet, W, R, foldNode, putRow, State.reset, Node.reset, sget])⟩

theorem test_ShardUpkeep_3 : ∃ (s : State) (key : ShardKey) (block deleted : Nat) (sh : Shard), Live s ∧ shardFind s.node key =
    some sh ∧ idmapDel (sget 0 sh.idmap deleted) ≠ 0 ∧ idmapDel (sget 0 sh.idmap deleted) ≤ sh.committed ∧ block < 2 ^ 34 ∧
    (blkNbrs (adjGet sh block)).contains deleted = true ∧ (blkNbrs (adjGet sh block)).Nodup :=
  ⟨W (fun n => { n with shards := [repShard] }), k7, 6, 4, repShard, by decide +kernel⟩

theorem test_ShardUpkeep_4 : ∃ (s : State) (key : ShardKey) (count : Nat) (sh : Shard), Live s ∧ shardFind s.node key = some sh
    :=
  ⟨W id, k7, 3, shard7, by decide +kernel⟩

theorem test_ShardUpkeep_5 : ∃ (s : State) (h : MsgHdr) (m : StepRec) (sh : Shard) (q : ReqEntry), Live s ∧ Taken s.node h
    (.stepForward m) ∧ shardFind s.node m.key = some sh ∧ sh.role = 0 ∧ m.recs = [] ∧ m.reqs = [q] ∧ s.node.dups.length <
    16777216 :=
  ⟨W id, hdr (.stepForward { stepRec0 with key := k7, reqs := [reqEntry0] }), { stepRec0 with key := k7, reqs := [reqEntry0] },
    shard7, reqEntry0, by decide +kernel, (Taken.of (by decide +kernel)), by decide +kernel⟩

theorem test_ShardUpkeep_6 : ∃ (s : State) (h : MsgHdr) (m : FillMsg) (sh : Shard) (x : JRec), Live s ∧ Taken s.node h (.fill m)
    ∧ shardFind s.node m.key = some sh ∧ sh.steps = [] ∧ m.recs = [x] ∧ (liveOf sh x.ckey).isSome = true :=
  ⟨W (fun n => { n with shards := [shardI] }), hdr (.fill { key := k7, recs := [{ jRec0 with kind := 1, ckey := 5 }] }),
    { key := k7, recs := [{ jRec0 with kind := 1, ckey := 5 }] }, shardI, { jRec0 with kind := 1, ckey := 5 },
    by decide +kernel, (Taken.of (by decide +kernel)), by decide +kernel⟩

theorem test_ShardUpkeep_7 : ∃ (s : State) (h : MsgHdr) (m : FillMsg) (sh : Shard) (g : IdxGen) (r : ShardRole) (p : Place) (x :
    JRec), Live s ∧ Taken s.node h (.fill m) ∧ shardFind s.node m.key = some sh ∧ genFind s.node m.key.handle m.key.gen = some g
    ∧ sh.role = 0 ∧ sh.steps = [] ∧ sh.fwdQ = [] ∧ sh.fwdKeys.contains x.ckey = false ∧ m.recs = [x] ∧ x.kind ≠ 2 ∧ liveOf sh
    x.ckey = none ∧ freeLids s.node g sh ≠ [] ∧ shardRole s.node.map m.key = some r ∧ r.partner = some p ∧ hasRoute s.node
    p.node.toNat = true :=
  ⟨W id, hdr (.fill { key := k7, recs := [{ jRec0 with kind := 1, ckey := 5 }] }),
    { key := k7, recs := [{ jRec0 with kind := 1, ckey := 5 }] }, shard7, gen7, role7, there2,
    { jRec0 with kind := 1, ckey := 5 }, by decide +kernel, (Taken.of (by decide +kernel)), by decide +kernel⟩

theorem test_ShardUpkeep_8 : ∃ (s : State) (key : ShardKey) (row : Nat) (sh : Shard) (g : IdxGen) (d : DRow) (book : Blob) (es :
    List DEnt), Live s ∧ shardFind s.node key = some sh ∧ genFind s.node key.handle key.gen = some g ∧ sh.drows[row]? = some d ∧
    g.codebook = some book ∧ d.bad = true ∧ sh.waiting = [] ∧ d.ents.map (fun e => (itemVec g sh e.1 e.2).map (fun v =>
    ({ code := encodePQVec book (gM g) (gWidth g) v, folded := blkLinked (adjGet sh e.2), lid := e.2, msn := e.1 } : DEnt))) =
    es.map some :=
  ⟨W (fun n => { n with shards := [badShard] }), k7, 0, badShard, gen7, { dRow0 with kind := 2, bad := true },
    { len := 1024, bits := 0 }, [], by decide +kernel⟩

theorem test_ShardUpkeep_9 : ∃ (s : State) (key : ShardKey) (row : Nat) (sh : Shard) (d : DRow), Live s ∧ shardFind s.node key =
    some sh ∧ sh.waiting = [] ∧ sh.drows[row]? = some d ∧ d.kind = 3 ∧ s.node.passes.any (fun p => p.num < d.release) = false :=
  ⟨W (fun n => { n with shards := [{ shard7 with drows := [{ dRow0 with kind := 3 }] }] }), k7, 0,
    { shard7 with drows := [{ dRow0 with kind := 3 }] }, { dRow0 with kind := 3 }, by decide +kernel⟩

theorem test_WalkLife_0 : ∃ (s : State) (sub e c snap : Nat) (q : SubReq) (sh : Shard) (g : IdxGen), Live s ∧ subFind s.node sub
    = some q ∧ q.snap = some snap ∧ q.walk = none ∧ shardFind s.node q.msg.key = some sh ∧ genFind s.node q.msg.key.handle
    q.msg.key.gen = some g ∧ walkHeld s.node sub = false ∧ s.node.tick < q.budgetEnd ∧ (placeEngine q.lutAddr (decide (256 <
    q.width)) (fun _ => true) s.node).1 = some (e, c) ∧ sh.state ≠ 0 ∧ sh.entryId ≠ lidNone :=
  ⟨W (fun n => walkNode n), 0, 5, 0, 0, qsS, walkShard, gen7, by decide +kernel⟩

theorem test_WalkLife_1 : ∃ (s : State) (sub e c snap : Nat) (q : SubReq) (sh : Shard) (g : IdxGen), Live s ∧ subFind s.node sub
    = some q ∧ q.snap = some snap ∧ q.walk = none ∧ shardFind s.node q.msg.key = some sh ∧ genFind s.node q.msg.key.handle
    q.msg.key.gen = some g ∧ walkHeld s.node sub = false ∧ s.node.tick < q.budgetEnd ∧ (placeEngine q.lutAddr (decide (256 <
    q.width)) (fun _ => true) s.node).1 = some (e, c) ∧ (sh.state = 0 ∨ sh.entryId = lidNone) :=
  ⟨W (fun n => walkNode { n with shards := [{ shard7 with state := 0 }] }), 0, 5, 0, 0, qsS, { shard7 with state := 0 }, gen7,
    by decide +kernel⟩

theorem test_WalkLife_2 : ∃ (s : State) (sub snap : Nat) (q : SubReq) (sh : Shard) (g : IdxGen), Live s ∧ subFind s.node sub =
    some q ∧ q.snap = some snap ∧ q.walk = none ∧ shardFind s.node q.msg.key = some sh ∧ genFind s.node q.msg.key.handle
    q.msg.key.gen = some g ∧ walkHeld s.node sub = false :=
  ⟨W (fun n => walkNode n), 0, 0, qsS, walkShard, gen7, by decide +kernel⟩

theorem test_WalkLife_3 : ∃ (s : State) (key : ShardKey) (sh : Shard) (g : IdxGen) (book : Blob) (d : DEnt) (rest : List DEnt),
    Live s ∧ shardFind (ctlReads key (fun _ => true) s.node) key = some sh ∧ genFind s.node key.handle key.gen = some g ∧
    g.codebook = some book ∧ unfoldedLive (ctlReads key (fun _ => true) s.node) sh = d :: rest ∧ sh.foldWalks = [] ∧ s.node.ctxs
    = [] ∧ s.node.saved = [] ∧ sh.state ≠ 0 ∧ sh.entryId ≠ lidNone ∧ (∀ gang, (activeUnits s.node .gwe).any (fun e => foldRoom
    s.node gang e && (freeSlot s.node e gang).isSome) = true) :=
  ⟨W (foldNode foldOther), k7, foldShard foldOther, gen7, { len := 1024, bits := 0 }, ent4, [], by decide +kernel,
    by rw [foldOther_row.1]; decide +kernel, by decide +kernel, by decide +kernel,
    by rw [foldOther_row.1, unfoldedLive, foldOther_row.2]; decide +kernel, by decide +kernel, by decide +kernel,
    by decide +kernel, by decide +kernel, by decide +kernel, (fun gang => by cases gang <;> decide +kernel)⟩

theorem test_WalkLife_4 : ∃ (s : State) (e : Fin 72) (c : Nat) (rest : List Nat) (x : Ctx) (q : SubReq) (sh : Shard) (g :
    IdxGen), Live s ∧ (engGet s.node e.val).ready = c :: rest ∧ ctxGet s.node e.val c = some x ∧ x.role = 0 ∧ x.fold = false ∧
    x.bad = false ∧ subFind s.node x.sub = some q ∧ shardFind s.node x.key = some sh ∧ genFind s.node x.key.handle x.key.gen =
    some g :=
  ⟨W (fun n => ctxSet 5 0 (some ctx7) (walkNode n)), 5, 0, [], ctx7, qsS, walkShard, gen7, by decide +kernel⟩

theorem test_WalkLife_4_entry : ∃ (s : State) (e : Fin 72) (c : Nat) (rest : List Nat) (x : Ctx) (q : SubReq) (sh : Shard) (g :
    IdxGen), Live s ∧ (engGet s.node e.val).ready = c :: rest ∧ ctxGet s.node e.val c = some x ∧ x.role = 0 ∧ x.fold = false ∧
    x.bad = false ∧ subFind s.node x.sub = some q ∧ shardFind s.node x.key = some sh ∧ genFind s.node x.key.handle x.key.gen =
    some g :=
  ⟨W (fun n => ctxSet 5 0 (some { ctx7 with stage := .entryCode, arrived := true, codes := [some 0], curId := 4 }) (walkNode n)),
    5, 0, [], { ctx7 with stage := .entryCode, arrived := true, codes := [some 0], curId := 4 }, qsS, walkShard, gen7,
    by decide +kernel⟩

theorem test_WalkLife_5 : ∃ (s : State) (e : Fin 72) (c : Fin 512) (x : Ctx), Live s ∧ ctxGet s.node e.val c.val = some x ∧
    x.state = 3 :=
  ⟨W (fun n => ctxSet 5 0 (some { ctx7 with state := 3, lutWait := true }) (walkNode n)), 5, 0,
    { ctx7 with state := 3, lutWait := true }, by decide +kernel⟩

theorem test_WalkLife_5_block : ∃ (s : State) (e : Fin 72) (c : Fin 512) (x : Ctx), Live s ∧ ctxGet s.node e.val c.val = some x
    ∧ x.state = 3 :=
  ⟨W (fun n => ctxSet 5 0 (some { ctx7 with state := 3, stage := .block }) (walkNode n)), 5, 0,
    { ctx7 with state := 3, stage := .block }, by decide +kernel⟩

theorem test_WalkLife_6 : ∃ (s : State) (e : Fin 72) (c : Fin 512) (x : Ctx) (q : SubReq), Live s ∧ ctxGet s.node e.val c.val =
    some x ∧ x.role = 0 ∧ x.fold = false ∧ subFind s.node x.sub = some q :=
  ⟨W (fun n => ctxSet 5 0 (some ctx7) (walkNode n)), 5, 0, ctx7, qsS, by decide +kernel⟩

theorem test_WalkLife_7 : ∃ (s : State) (e : Fin 72) (tick : Nat), Live s ∧ (engGet s.node e.val).drainAt = some tick :=
  ⟨W (fun n => engSet 5 { engEmpty with drainAt := some 0 } n), 5, 0, by decide +kernel⟩

theorem test_WalkLife_8 : ∃ (s : State) (addr : Nat) (e : Fin 72) (c : Fin 512) (x : Ctx), Live s ∧ ctxGet s.node e.val c.val =
    some x :=
  ⟨W (fun n => ctxSet 5 0 (some ctx7) (walkNode n)), 0, 5, 0, ctx7, by decide +kernel⟩

theorem test_WalkLife_9 : ∃ (s : State) (e : Fin 72) (c : Fin 512) (tick : Nat) (x : Ctx), Live s ∧ (engGet s.node
    e.val).drainAt = some tick ∧ s.node.ctxs = [(e.val * 512 + c.val, some x)] ∧ x.role = 0 ∧ x.fold = false ∧ x.bad = true :=
  ⟨W (fun n => ctxSet 5 0 (some { ctx7 with bad := true }) (engSet 5 { engEmpty with drainAt := some 0 } (walkNode n))), 5, 0, 0,
    { ctx7 with bad := true }, by decide +kernel⟩

theorem test_WalkLife_10 : ∃ (s : State) (id e c : Nat) (w : SavedWalk) (x : Ctx), Live s ∧ s.node.saved.find? (fun w => w.id =
    id) = some w ∧ w.ctxs = [x] ∧ x.stage ≠ .idle ∧ (placeEngine x.lutAddr false (fun e => !x.fold || foldRoom s.node false e)
    s.node).1 = some (e, c) ∧ s.node.tick < x.deadline :=
  ⟨W (fun n => { walkNode n with saved := [{ id := 4, stack := 2, ctxs := [ctx7] }] }), 4, 5, 0,
    { id := 4, stack := 2, ctxs := [ctx7] }, ctx7, by decide +kernel⟩

theorem test_CloveCommandWrites_0 : ∃ (s : State) (st : Fin 8) (target : Option (Fin 768)) (pc : Fin 32) (slot : Fin 16) (data :
    BitVec 8192), Live s :=
  ⟨W id, 0, none, 31, 15, 1, by decide +kernel⟩

theorem test_CloveCommandWrites_0_one : ∃ (s : State) (st : Fin 8) (target : Option (Fin 768)) (pc : Fin 32) (slot : Fin 16)
    (data : BitVec 8192), Live s :=
  ⟨W id, 7, some 767, 0, 0, 1, by decide +kernel⟩

theorem test_CloveCommandWrites_1 : ∃ (s : State) (st : Fin 8) (target : Option (Fin 768)) (pc : Fin 32) (slot : Fin 16) (data :
    BitVec 512), Live s :=
  ⟨W id, 7, some 767, 0, 0, 1, by decide +kernel⟩

theorem test_CloveCommandWrites_2 : ∃ (s : State) (u : UnitId) (cmd : BitVec 512), Live s ∧ inMode s.node (unitNo u) = true ∧
    clvBusy (clvGet s.node (unitNo u)) = false ∧ (∀ r ∈ cmdRows cmd.toNat, rowAllowed s.node u r = true) :=
  ⟨W id, { stack := 7, u := 767 }, 0, by decide +kernel⟩

theorem test_CloveCommandWrites_3 : ∃ (s : State) (u : UnitId) (cmd : BitVec 512) (c : Instr) (op : Nat) (dst : List (Bool ×
    Nat)), Live s ∧ inMode s.node (unitNo u) = true ∧ ((c = .scan u cmd ∧ op = 1 ∧ dst = [] ∧ (cmdCB cmd.toNat < 48 ∨ cmdMask
    cmd.toNat &&& 0xAAAA = 0)) ∨ (c = .check u cmd ∧ op = 2 ∧ dst = []) ∨ (c = .compact u cmd ∧ op = 3 ∧ dst = runRows (cmdDest
    cmd.toNat))) :=
  ⟨W id, { stack := 0, u := 0 }, cmdMk 1 3 1 8 16 0 0 [0xFD00 * 65536 + 0x4001],
    .scan { stack := 0, u := 0 } (cmdMk 1 3 1 8 16 0 0 [0xFD00 * 65536 + 0x4001]), 1, [], by decide +kernel⟩

theorem test_CloveCommandWrites_4 : ∃ (s : State) (us : WindowUnits) (cmd : BitVec 512), Live s :=
  ⟨W (fun n => clvSet 5 { clvIdle with state := 1 } n), { stack := 0, target := none, pc := 31 }, 0, by decide +kernel⟩

theorem test_CloveCommandWrites_5 : ∃ (s : State) (us : WindowUnits) (cmd : BitVec 512), Live s :=
  ⟨W (fun n => clvSet 5 { clvIdle with state := 6 } n), { stack := 0, target := some 5, pc := 0 }, 0, by decide +kernel⟩

theorem test_CloveCommandWrites_6 : ∃ (s : State) (u : UnitId) (cmd : BitVec 512), Live s ∧ inMode s.node (unitNo u) = true :=
  ⟨W id, { stack := 0, u := 5 }, 0, by decide +kernel⟩

theorem test_CloveScan_0 : ∃ (s : State) (u : UnitId) (c : BitVec 512) (r : Bool × Nat) (rest : List (Bool × Nat)), Live s ∧
    (clvGet s.node (unitNo u)).state = 1 ∧ (clvGet s.node (unitNo u)).cmd = some c ∧ (clvGet s.node (unitNo u)).rows = r :: rest
    :=
  ⟨W (fun n => clvSet 5 { clvIdle with state := 1, cmd := some 0, rows := [(false, 0)] } n), { stack := 0, u := 5 }, 0,
    (false, 0), [], by decide +kernel⟩

theorem test_CloveScan_1 : ∃ (s : State) (u : UnitId), Live s ∧ inMode s.node (unitNo u) = true ∧ (clvGet s.node (unitNo
    u)).results ≠ [] :=
  ⟨W (fun n => clvSet 5 { clvIdle with results := [emit0] } n), { stack := 0, u := 5 }, by decide +kernel⟩

theorem test_CloveScan_2 : ∃ (s : State) (st : Fin 8) (pc : Fin 32) (k id : Nat) (p : Pass) (q : SubReq), Live s ∧ s.node.passes
    = [p] ∧ p.started = true ∧ p.units = [k] ∧ k ∈ pcUnits st.val pc.val ∧ p.more = [] ∧ p.ended = [] ∧ p.bad = false ∧ p.failed
    = false ∧ p.subs = [id] ∧ (clvGet s.node k).state = 4 ∧ subFind s.node id = some q ∧ s.node.tick < q.budgetEnd ∧ (∀ v ∈
    pcUnits st.val pc.val, (clvGet s.node v).results = [] ∧ (clvGet s.node v).cmdErr = false ∧ (clvGet s.node v).state < 6) :=
  ⟨W (fun n => clvSet 5 { clvIdle with state := 4 } { n with passes := [pass5], subReqs := [qs] }), 0, 0, 5, 0, pass5, qs,
    by decide +kernel⟩

theorem test_CloveScan_3 : ∃ (s : State) (key : ShardKey) (b : Batch) (sh : Shard), Live s ∧ s.node.batches.find? (fun b =>
    b.key = key) = some b ∧ shardFind s.node key = some sh :=
  ⟨W (fun n => { n with batches := [{ batch0 with key := k7 }] }), k7, { batch0 with key := k7 }, shard7, by decide +kernel⟩

theorem test_CloveScan_4 : ∃ (s : State) (p : Pass) (id : Nat) (q : SubReq), Live s ∧ s.node.passes = [p] ∧ p.started = false ∧
    p.units = [] ∧ p.more = [] ∧ p.bad = false ∧ p.failed = false ∧ p.lists = [] ∧ p.subs = [id] ∧ subFind s.node id = some q ∧
    s.node.tick < q.budgetEnd :=
  ⟨W (fun n => { n with passes := [{ pass0 with key := k7, subs := [0] }], subReqs := [qs] }),
    { pass0 with key := k7, subs := [0] }, 0, qs, by decide +kernel⟩

theorem test_CloveScan_5 : ∃ (s : State) (u : UnitId), Live s ∧ (clvGet s.node (unitNo u)).state = 1 :=
  ⟨W (fun n => clvSet 5 { clvIdle with state := 1 } n), { stack := 0, u := 5 }, by decide +kernel⟩

theorem test_CloveScan_6 : ∃ (s : State) (u : UnitId), Live s ∧ (clvGet s.node (unitNo u)).state = 1 :=
  ⟨W (fun n => clvSet 5 { clvIdle with state := 1 } n), { stack := 0, u := 5 }, by decide +kernel⟩

theorem test_CloveScan_7 : ∃ (s : State) (u : UnitId) (bank : Bank), Live s ∧ (clvGet s.node (unitNo u)).state = 0 ∨ (clvGet
    s.node (unitNo u)).state = 4 :=
  ⟨W id, { stack := 0, u := 5 }, .odd, by decide +kernel⟩

theorem test_CloveScan_8 : ∃ (s : State) (u : UnitId), Live s ∧ (clvGet s.node (unitNo u)).state = 2 :=
  ⟨W (fun n => clvSet 5 { clvIdle with state := 2 } n), { stack := 0, u := 5 }, by decide +kernel⟩

theorem test_CloveScan_9 : ∃ (s : State) (st : Fin 8), Live s :=
  ⟨W id, 7, by decide +kernel⟩

theorem test_CloveScan_10 : ∃ (s : State) (st : Fin 8) (pc : Fin 32) (v : Word), Live s ∧ v.toNat = 2 ^ pc.val ∧ (stkGet s.node
    st.val).pcOff.contains pc.val = false :=
  ⟨W id, 0, 31, 0x80000000, by decide +kernel⟩

theorem test_CloveScan_11 : ∃ (s : State) (st : Fin 8) (v : Word), Live s ∧ wbits v 15 8 ≤ wbits v 7 0 ∧ wbits v 7 0 ≤ 0xFE ∧ (∀
    g, groupUsed s.node st.val g = false) :=
  ⟨W id, 0, 0x0000FDFE, by decide +kernel, by decide +kernel, by decide +kernel,
    (fun g => by simp [groupUsed, W, R, State.reset, Node.reset])⟩

theorem test_TensorOperators_0 : ∃ (s : State) (prog code : Nat) (f : Prog → TOp → OpOut) (c : Instr) (p : Prog) (o : TOp), Live
    s ∧ (c, code) ∈ [(Instr.tnsNop prog, 0x00), (.matmul prog, 0x01), (.add prog, 0x02), (.mul prog, 0x03), (.act prog, 0x04),
    (.norm prog, 0x05), (.softmax prog, 0x06), (.permute prog, 0x07), (.gather prog, 0x08), (.tnsPool prog, 0x09), (.quant prog,
    0x0A), (.dequant prog, 0x0B), (.convert prog, 0x0C), (.l2normalize prog, 0x0D), (.encodePq prog, 0x0E), (.kmeans prog,
    0x0F)] ∧ f = [fun _ _ => outNone, runMatmul, runBin addC, runBin mulC, runAct, fun p o => rowsOp (normRow p o) p o, fun p o
    => rowsOp (softmaxRow (pTen p o.in0) o) p o, runPermute, runGather, runPool, runQuant, runDequant, runConvert, runL2,
    runEncodePQ, runKmeans].getD code (fun _ _ => outNone) ∧ progFind s.node prog = some p ∧ p.state = 1 ∧ p.ran = false ∧
    p.ops[p.op]? = some o :=
  ⟨W (fun n => { n with progs := [{ prog0 with state := 1, ops := [{ tOp0 with code := 0x0F }] }] }), 0, 0x0F, runKmeans,
    .kmeans 0, { prog0 with state := 1, ops := [{ tOp0 with code := 0x0F }] }, { tOp0 with code := 0x0F }, by decide +kernel,
    by decide +kernel, rfl, by decide +kernel⟩

theorem test_TensorOperators_0_nop : ∃ (s : State) (prog code : Nat) (f : Prog → TOp → OpOut) (c : Instr) (p : Prog) (o : TOp),
    Live s ∧ (c, code) ∈ [(Instr.tnsNop prog, 0x00), (.matmul prog, 0x01), (.add prog, 0x02), (.mul prog, 0x03), (.act prog,
    0x04), (.norm prog, 0x05), (.softmax prog, 0x06), (.permute prog, 0x07), (.gather prog, 0x08), (.tnsPool prog, 0x09),
    (.quant prog, 0x0A), (.dequant prog, 0x0B), (.convert prog, 0x0C), (.l2normalize prog, 0x0D), (.encodePq prog, 0x0E),
    (.kmeans prog, 0x0F)] ∧ f = [fun _ _ => outNone, runMatmul, runBin addC, runBin mulC, runAct, fun p o => rowsOp (normRow p
    o) p o, fun p o => rowsOp (softmaxRow (pTen p o.in0) o) p o, runPermute, runGather, runPool, runQuant, runDequant,
    runConvert, runL2, runEncodePQ, runKmeans].getD code (fun _ _ => outNone) ∧ progFind s.node prog = some p ∧ p.state = 1 ∧
    p.ran = false ∧ p.ops[p.op]? = some o :=
  ⟨W (fun n => { n with progs := [{ prog0 with state := 1, ops := [tOp0] }] }), 0, 0, fun _ _ => outNone, .tnsNop 0,
    { prog0 with state := 1, ops := [tOp0] }, tOp0, by decide +kernel, by decide +kernel, rfl, by decide +kernel⟩

theorem test_TensorOperators_1 : ∃ (s : State) (prog : Nat) (p : Prog), Live s ∧ progFind s.node prog = some p ∧ p.state = 1 ∧
    p.ran = true ∧ p.op + 1 < p.ops.length ∧ progLate p s.node = false :=
  ⟨W (fun n => { n with progs := [{ prog0 with state := 1, ran := true, ops := [tOp0, tOp0] }] }), 0,
    { prog0 with state := 1, ran := true, ops := [tOp0, tOp0] }, by decide +kernel⟩

theorem test_TensorOperators_2 : ∃ (s : State) (prog req i : Nat) (p : Prog) (r : Req), Live s ∧ progFind s.node prog = some p ∧
    p.state = 1 ∧ p.ran = true ∧ p.ops.length ≤ p.op + 1 ∧ p.cls = 0 ∧ p.req = some req ∧ p.descs.findIdx? (fun d => d.role = 3)
    = some i ∧ reqFind s.node req = some r :=
  ⟨W (fun n => { n with progs := [encP], reqs := [qreq] }), 0, 0, 0, encP, qreq, by decide +kernel⟩

theorem test_TensorOperators_3 : ∃ (s : State) (prog : Nat) (lost : Fin 104) (tile : Bool) (p : Prog), Live s ∧ progFind s.node
    prog = some p ∧ p.state = 1 ∧ p.arrays.contains lost.val = true ∧ p.restarted = false ∧ progLate p s.node = false :=
  ⟨W (fun n => { n with progs := [{ prog0 with state := 1, arrays := [103] }] }), 0, 103, true,
    { prog0 with state := 1, arrays := [103] }, by decide +kernel⟩

theorem test_TensorOperators_4 : ∃ (s : State) (prog : Nat) (lost : Fin 104) (tile : Bool) (p : Prog) (r : Req) (x : Qp), Live s
    ∧ progFind s.node prog = some p ∧ p.state = 1 ∧ p.arrays.contains lost.val = true ∧ p.restarted = true ∧ p.cls = 0 ∧ p.req =
    some r.id ∧ reqFind s.node r.id = some r ∧ qpFind s.node r.qp = some x ∧ x.state = 1 ∧ 64 ≤ bword r.d 0x24 :=
  ⟨W (fun n => { n with progs := [{ prog0 with state := 1, arrays := [103], restarted := true, req := some 0 }], reqs := [qreq] }),
    0, 103, false, { prog0 with state := 1, arrays := [103], restarted := true, req := some 0 }, qreq, qp3, by decide +kernel⟩

theorem test_TensorArithmetic_0 : ∃ (f : Nat) (x : Dy), (f = 3 ∨ f = 4) :=
  ⟨4, { neg := false, man := 1, exp := 0 }, by decide +kernel⟩

theorem test_TensorArithmetic_1 : ∃ (p : Prog) (o : TOp) (i j : Nat), i < (pTen p o.in0).vals.length ∧ j < tsize ((pTen p
    o.in1).dims.drop 1) ∧ tget (pTen p o.in0) i * tsize ((pTen p o.in1).dims.drop 1) + j < (pTen p o.in1).vals.length :=
  ⟨{ prog0 with tens := [(0, { ten0 with dims := [1], vals := [0] }), (1, { ten0 with dims := [1, 1], vals := [9] })] },
    { tOp0 with in1 := 1 }, 0, 0, by decide +kernel⟩

theorem test_TensorArithmetic_3 : ∃ (i k : Nat) (x : List F32), normZero x = true :=
  ⟨0, 0, zeros8, by decide +kernel⟩

theorem test_TensorArithmetic_4 : ∃ (book : Blob) (m w sub c : Nat) (v : List F32), sub < m ∧ c < 16 :=
  ⟨{ len := 1024, bits := 0 }, 16, 1, 15, 15, zeros8, by decide +kernel⟩

theorem test_TensorArithmetic_5 : ∃ (l : List Nat) (s c : Nat), l[s]? = some c :=
  ⟨[0x1F], 0, 0x1F, by decide +kernel⟩

theorem test_EmbeddingRows_0 : ∃ (s : State) (h : MsgHdr) (m : SubBagMsg) (tb : TabSt) (it : BagItem), Live s ∧ Taken s.node h
    (.subBag m) ∧ tabFind s.node m.handle m.gen = some tb ∧ m.items = [it] ∧ it.fseq = 0 ∧ isHome s.node tb it.row = true ∧
    rowLost s.node tb it.row = false ∧ hasRoute s.node h.src.toNat = true :=
  ⟨W id, hdr (.subBag { subBagMsg0 with handle := 8, items := [bagItem0] }),
    { subBagMsg0 with handle := 8, items := [bagItem0] }, tab8, bagItem0, by decide +kernel, (Taken.of (by decide +kernel)),
    by decide +kernel⟩

theorem test_EmbeddingRows_1 : ∃ (s : State) (h : MsgHdr) (m : SubBagMsg), Live s ∧ Taken s.node h (.subBag m) ∧ tabFind s.node
    m.handle m.gen = none ∧ hasRoute s.node h.src.toNat = true :=
  ⟨W (fun n => { n with tabs := [] }), hdr (.subBag { subBagMsg0 with handle := 8, items := [bagItem0] }),
    { subBagMsg0 with handle := 8, items := [bagItem0] }, by decide +kernel, (Taken.of (by decide +kernel)), by decide +kernel⟩

theorem test_EmbeddingRows_2 : ∃ (s : State) (h : MsgHdr) (m : RowOpMsg) (tb : TabSt), Live s ∧ Taken s.node h (.rowOp m) ∧
    currentGen s.node.map m.handle ≠ some (nextGen m.gen) ∧ tabFind s.node m.handle m.gen = some tb ∧ m.fseq = 0 ∧ isHome s.node
    tb m.row = true ∧ m.op = 1 ∧ tb.restoring.contains (tShardOf tb m.row) = false ∧ tb.bad.contains m.row = false :=
  ⟨W id, hdr (.rowOp { rowOpMsg0 with handle := 8, row := 99, op := 1, elems := [0, 0] }),
    { rowOpMsg0 with handle := 8, row := 99, op := 1, elems := [0, 0] }, tab8, by decide +kernel,
    (Taken.of (by decide +kernel)), by decide +kernel⟩

theorem test_EmbeddingRows_3 : ∃ (s : State) (h : MsgHdr) (m : RowRefMsg) (tb : TabSt) (a : RowAck), Live s ∧ Taken s.node h
    (.rowInstalled m) ∧ tabFind s.node m.handle m.gen = some tb ∧ tb.acks.find? (fun a => a.tag = h.tag.toNat) = some a ∧
    hasRoute s.node a.dst = true :=
  ⟨W (fun n => { n with tabs := [{ tab8 with acks := [{ rowAck0 with tag := 9, dst := 2 }] }] }),
    hdr (.rowInstalled { rowRefMsg0 with handle := 8 }), { rowRefMsg0 with handle := 8 },
    { tab8 with acks := [{ rowAck0 with tag := 9, dst := 2 }] }, { rowAck0 with tag := 9, dst := 2 }, by decide +kernel,
    (Taken.of (by decide +kernel)), by decide +kernel⟩

theorem test_EmbeddingRows_4 : ∃ (s : State) (h : MsgHdr) (m : RowMoveMsg) (tb : TabSt), Live s ∧ Taken s.node h (.rowMove m) ∧
    tabFind s.node m.handle m.gen = some tb ∧ tb.waits = [] ∧ hasRoute s.node h.src.toNat = true :=
  ⟨W id, hdr (.rowMove { rowMoveMsg0 with handle := 8 }), { rowMoveMsg0 with handle := 8 }, tab8, by decide +kernel,
    (Taken.of (by decide +kernel)), by decide +kernel⟩

theorem test_EmbeddingRows_5 : ∃ (s : State) (h : MsgHdr) (m : PooledMsg) (r : Req) (sb : Sub) (b : SubBagMsg) (tb : TabSt) (row
    : Nat) (x : Qp), Live s ∧ Taken s.node h (.pooled m) ∧ tagOwner s.node h.tag.toNat = some (r, sb) ∧ reqFind s.node r.id =
    some r ∧ sb.msg = .subBag b ∧ b.items.length = 1 ∧ r.subs = [sb] ∧ r.op = 3 ∧ r.pooled = [] ∧ reqBags r = [[row]] ∧ reqMean
    r = false ∧ m.bag = 0 ∧ m.rows = 1 ∧ m.hints = [] ∧ m.elems ≠ [] ∧ tabFind s.node r.tabHandle r.tabGen = some tb ∧ qpFind
    s.node r.qp = some x ∧ x.state = 1 ∧ 64 ≤ bword r.d 0x24 :=
  ⟨W (fun n => { n with reqs := [lreq] }), hdr (.pooled { pooledMsg0 with rows := 1, elems := [0, 0] }),
    { pooledMsg0 with rows := 1, elems := [0, 0] }, lreq, lsub, lbag, tab8, 99, qp3, by decide +kernel,
    (Taken.of (by decide +kernel)), by decide +kernel⟩

theorem test_EmbeddingRows_6 : ∃ (s : State) (h : MsgHdr) (m : RowAnswerMsg) (r : Req) (sb : Sub) (b : RowOpMsg) (tb : TabSt) (x
    : Qp), Live s ∧ Taken s.node h (.rowAnswer m) ∧ tagOwner s.node h.tag.toNat = some (r, sb) ∧ reqFind s.node r.id = some r ∧
    sb.msg = .rowOp b ∧ r.subs = [sb] ∧ r.op = 3 ∧ bnum r.d 6 2 = 1 ∧ sb.shard = 0 ∧ r.words = [] ∧ m.status < 256 ∧ tabFind
    s.node b.handle b.gen = some tb ∧ qpFind s.node r.qp = some x ∧ x.state = 1 ∧ 64 ≤ bword r.d 0x24 :=
  ⟨W (fun n => { n with reqs := [ureq] }), hdr (.rowAnswer rowAnswerMsg0), rowAnswerMsg0, ureq, usub, urow, tab8, qp3,
    by decide +kernel, (Taken.of (by decide +kernel)), by decide +kernel⟩

theorem test_EmbeddingRows_7 : ∃ (s : State) (h g : Nat) (loads : List MemberLoad) (tb : TabSt), Live s ∧ tabFind s.node h g =
    some tb ∧ tMigrate tb = 0 :=
  ⟨W (fun n => { n with tabs := [{ tab8 with desc := mk 64 [(0, 4, 8), (8, 8, 100), (16, 2, 1), (18, 2, 2)] }] }), 8, 0, [],
    { tab8 with desc := mk 64 [(0, 4, 8), (8, 8, 100), (16, 2, 1), (18, 2, 2)] }, by decide +kernel⟩

theorem test_EmbeddingRows_8 : ∃ (s : State) (h g row k : Nat) (l : MemberLoad) (tb : TabSt), Live s ∧ tabFind s.node h g = some
    tb ∧ tMigrate tb ≠ 0 ∧ tb.overLim = 2 ∧ tb.hot = [(row, k)] ∧ isHome s.node tb row = true ∧ rowLost s.node tb row = false ∧
    l.node ≠ s.node.nodeId ∧ isMember s.node l.node.toNat = true ∧ isFenced s.node l.node.toNat = false ∧ 0 < l.free ∧ 2 ≤
    levelWith s.node l.node.toNat ∧ (nsum (tb.reads.map (·.2)) + l.reads) * (100 + tMigrate tb) < nsum (tb.reads.map (·.2)) *
    200 ∧ hasRoute s.node l.node.toNat = true :=
  ⟨W (fun n => { n with tabs := [hotTab] }), 8, 0, 0, 5, { memberLoad0 with node := 2, free := 1 }, hotTab, by decide +kernel⟩

theorem test_EmbeddingRows_9 : ∃ (s : State) (h g row c : Nat) (tb : TabSt) (o : RowOut), Live s ∧ tabFind s.node h g = some tb
    ∧ tb.away.find? (fun o => o.row = row) = some o ∧ o.conf = some c :=
  ⟨W (fun n => { n with tabs := [{ tab8 with away := [{ rowOut0 with conf := some 0 }] }] }), 8, 0, 0, 0,
    { tab8 with away := [{ rowOut0 with conf := some 0 }] }, { rowOut0 with conf := some 0 }, by decide +kernel⟩

theorem test_EmbeddingRows_10 : ∃ (s : State) (h : MsgHdr) (m : RedirectMsg) (tb : TabSt), Live s ∧ Taken s.node h (.redirectSet
    m) ∧ tabFind s.node m.handle m.gen = some tb :=
  ⟨W id, hdr (.redirectSet { redirectMsg0 with handle := 8, home := 2 }), { redirectMsg0 with handle := 8, home := 2 }, tab8,
    by decide +kernel, (Taken.of (by decide +kernel)), by decide +kernel⟩

theorem test_TierMoves_0 : ∃ (s : State) (page : Nat) (ok : Bool) (e : PgEnt), Live s ∧ ptGet s.node page = some e ∧ e.moving =
    true ∧ e.home = 3 ∧ e.waiters = [] ∧ (∀ p e', p ≠ page → ptGet s.node p = some e' → e'.waiters ≠ [] → e'.home = 3 →
    e'.moving = true) :=
  ⟨W (ptSet 0 (some pgM)), 0, true, pgM, by decide +kernel, by decide +kernel, by decide +kernel, by decide +kernel,
    by decide +kernel, noOther⟩

theorem test_TierMoves_0_failed : ∃ (s : State) (page : Nat) (ok : Bool) (e : PgEnt), Live s ∧ ptGet s.node page = some e ∧
    e.moving = true ∧ e.home = 3 ∧ e.waiters = [] ∧ (∀ p e', p ≠ page → ptGet s.node p = some e' → e'.waiters ≠ [] → e'.home = 3
    → e'.moving = true) ∧ ok = false :=
  ⟨W (ptSet 0 (some pgM)), 0, false, pgM, by decide +kernel, by decide +kernel, by decide +kernel, by decide +kernel,
    by decide +kernel, noOther, by decide +kernel⟩

theorem test_TierMoves_1 : ∃ (s : State) (page : Nat) (e : PgEnt), Live s ∧ ptGet s.node page = some e ∧ policyTarget s.node e =
    some 1 ∧ takeFrame 1 s.node = some 0 ∧ s.node.mmu.moveWin ≠ s.node.tick / ticksMs 1 ∧ 0 < rfield s.node .mmu 0 0x108 31 16 ∧
    takenIn s.node e.tid 1 < (quotaGet s.node e.tid).usedStack :=
  ⟨W (fun n => moveNode n), 0, pgHot, by decide +kernel⟩

theorem test_TierMoves_1_none : ∃ (s : State) (page : Nat) (e : PgEnt), Live s ∧ ptGet s.node page = some e ∧ policyTarget
    s.node e = none :=
  ⟨W (ptSet 0 (some { pgHot with pinned := true })), 0, { pgHot with pinned := true }, by decide +kernel⟩

theorem test_TierMoves_2 : ∃ (s : State), Live s :=
  ⟨W id, by decide +kernel⟩

theorem test_TierMoves_3 : ∃ (s : State) (page : Nat) (e : PgEnt), Live s ∧ ptGet s.node page = some e ∧ e.moving = true ∧
    e.home ≠ 3 ∧ e.hold = false :=
  ⟨W (ptSet 0 (some { pgEnt0 with home := 1, moving := true })), 0, { pgEnt0 with home := 1, moving := true }, by decide +kernel⟩

theorem test_TierMoves_4 : ∃ (s : State) (page : Nat) (ok : Bool) (e : PgEnt), Live s ∧ ptGet s.node page = some e ∧ e.moving =
    true ∧ e.hold = true ∧ e.target ≠ 3 ∧ (∀ p e', p ≠ page → ptGet s.node p = some e' → e'.waiters ≠ [] → e'.home = 3 →
    e'.moving = true) :=
  ⟨W (ptSet 0 (some { pgEnt0 with home := 1, moving := true, hold := true, target := 2 })), 0, true,
    { pgEnt0 with home := 1, moving := true, hold := true, target := 2 }, by decide +kernel, by decide +kernel,
    by decide +kernel, by decide +kernel, by decide +kernel, noOther⟩

theorem test_TierMoves_5 : ∃ (s : State) (c : Fin 64) (o : ObjRange) (e : PgEnt), Live s ∧ (dmaGet s.node c.val).state = 1 ∧
    (dmaGet s.node c.val).write = false ∧ (dmaGet s.node c.val).job = none ∧ (dmaGet s.node c.val).total = (dmaGet s.node
    c.val).progress + 1 ∧ objOf s.node 0 = some o ∧ ptGet s.node 0 = some e :=
  ⟨W (fun n => dmaNode n), 0, { objRange0 with pages := 1 }, { pgEnt0 with home := 1 }, by decide +kernel⟩

theorem test_TierMoves_6 : ∃ (s : State) (c : Fin 64), Live s ∧ (dmaGet s.node c.val).state = 2 ∧ (dmaGet s.node c.val).page =
    none ∧ (dmaGet s.node c.val).job = none :=
  ⟨W (dmaSet 0 { dma0 with state := 2 }), 0, by decide +kernel⟩

theorem test_TierMoves_6_late : ∃ (s : State) (c : Fin 64), Live s ∧ (dmaGet s.node c.val).state = 2 ∧ (dmaGet s.node
    c.val).page = none ∧ (dmaGet s.node c.val).job = none ∧ (dmaGet s.node c.val).deadline ≠ 0 ∧ (dmaGet s.node c.val).deadline
    ≤ s.node.tick :=
  ⟨W (fun n => dmaSet 0 { dma0 with state := 2, deadline := 1 } { n with tick := 1 }), 0, by decide +kernel⟩

theorem test_TierMoves_7 : ∃ (s : State) (addr : Nat), Live s :=
  ⟨W id, 0, by decide +kernel⟩

theorem test_TierMoves_8 : ∃ (s : State) (addr : Nat) (e : PgEnt), Live s ∧ ptGet s.node (tpage addr) = some e ∧ (e.home = 1 ∨
    e.home = 2) ∧ e.open_ = false :=
  ⟨W (ptSet 0 (some { pgEnt0 with home := 1 })), 4095, { pgEnt0 with home := 1 }, by decide +kernel⟩

theorem test_TierMoves_9 : ∃ (s : State) (addr : Nat) (directory : Bool), Live s :=
  ⟨W id, 0, true, by decide +kernel⟩

theorem test_FlashWrites_0 : ∃ (s : State) (ua tid b : Nat) (stream : Stream) (data : Blob), Live s ∧ poolFormatted s.node =
    true ∧ sget 0 s.node.ftl.opens (streamNo stream) = b + 1 :=
  ⟨W (ftlW (fun f => { f with opens := [(2, 1)] })), 0, 0, 0, .data, bempty, by decide +kernel⟩

theorem test_FlashWrites_1 : ∃ (s : State) (ua tid : Nat) (stream : Stream) (data : Blob), Live s ∧ s.node.ftl.pool = 4 :=
  ⟨W (ftlW (fun f => { f with pool := 4 })), 0, 0, .data, bempty, by decide +kernel⟩

theorem test_FlashWrites_2 : ∃ (s : State) (stream : Stream) (b : Nat) (u : WUnit), Live s ∧ sget 0 s.node.ftl.opens (streamNo
    stream) = b + 1 ∧ s.node.ftl.buf.find? (fun u => u.blk = b && u.stage = 0) = some u ∧ (fblkGet s.node b).next % setSlots
    (pkgOf s.node b) ≠ 0 :=
  ⟨W (ftlW (fun f => { f with opens := [(2, 1)], buf := [wUnit0], blocks := [(0, some { fblkNew with next := 1 })] })), .data, 0,
    wUnit0, by decide +kernel⟩

theorem test_FlashWrites_3 : ∃ (s : State) (stream : Stream) (b : Nat) (u : WUnit), Live s ∧ sget 0 s.node.ftl.opens (streamNo
    stream) = b + 1 ∧ singleBit (pkgOf s.node b) (streamNo stream) = false ∧ (s.node.ftl.buf.filter (fun u => u.blk =
    b)).getLast? = some u :=
  ⟨W (ftlW (fun f => { f with opens := [(2, 1)], buf := [wUnit0], blocks := [(0, some { fblkNew with next := 1 })] })), .data, 0,
    wUnit0, by decide +kernel⟩

theorem test_FlashWrites_4 : ∃ (s : State) (block : BlockId) (u : WUnit), Live s ∧ s.node.ftl.buf = [u] ∧ u.blk = codeOf block ∧
    u.stage = 1 ∧ u.stream ≠ 5 ∧ u.jour = none ∧ u.ckpt = none ∧ lineOf (pkgOf s.node (codeOf block)) (fblkGet s.node (codeOf
    block)).stream = 1 ∧ (u.page + 1) * setSlots (pkgOf s.node (codeOf block)) ≤ (fblkGet s.node (codeOf block)).next ∧ (∀ m,
    fmapGet s.node u.ua = some m → m.seq ≤ u.seq) :=
  ⟨W (ftlW (fun f => { f with buf := [wUnit1], blocks := [(0, some { fblkNew with next := 4 })] })), block0, wUnit1,
    by decide +kernel, by decide +kernel, by decide +kernel, by decide +kernel, by decide +kernel, by decide +kernel,
    by decide +kernel, by decide +kernel, by decide +kernel, (fun m h => nomatch (show (none : Option FMap) = some m from h))⟩

theorem test_FlashWrites_5 : ∃ (s : State) (block : BlockId), Live s ∧ s.node.ftl.buf.any (fun u => u.blk = codeOf block &&
    u.stage = 1) = true :=
  ⟨W (ftlW (fun f => { f with buf := [wUnit1] })), block0, by decide +kernel⟩

theorem test_FlashWrites_6 : ∃ (s : State) (key : ShardKey) (sh : Shard) (room : Bool) (c : Instr), Live s ∧ shardFind s.node
    key = some sh ∧ poolFormatted s.node = true ∧ (c = .shardCheckpoint key room ∨ c = .postponedMark key room) :=
  ⟨W (ftlW id), k7, shard7, true, .shardCheckpoint k7 true, by decide +kernel⟩

theorem test_FlashWrites_6_mark : ∃ (s : State) (key : ShardKey) (sh : Shard) (room : Bool) (c : Instr), Live s ∧ shardFind
    s.node key = some sh ∧ poolFormatted s.node = true ∧ (c = .shardCheckpoint key room ∨ c = .postponedMark key room) :=
  ⟨W (ftlW id), k7, shard7, false, .postponedMark k7 false, by decide +kernel⟩

theorem test_FlashWrites_7 : ∃ (s : State), Live s ∧ poolFormatted s.node = true :=
  ⟨W (ftlW id), by decide +kernel⟩

theorem test_FlashWrites_8 : ∃ (s : State) (v : Word), Live s ∧ wbits v 31 16 = 0xF1A5 ∧ 7 ≤ wbits v 7 0 ∧ wbits v 7 0 ≤ 28 ∧
    holdsAnyRole s.node = false :=
  ⟨State.reset, 0xF1A5001C, by decide +kernel⟩

theorem test_FlashWrites_8_refused : ∃ (s : State) (v : Word), Live s ∧ 28 < wbits v 7 0 :=
  ⟨State.reset, 0xF1A5001D, by decide +kernel⟩

theorem test_FlashUpkeep_0 : ∃ (s : State) (ua cls : Nat), Live s :=
  ⟨W id, 511, 2, by decide +kernel⟩

theorem test_FlashUpkeep_1 : ∃ (s : State) (page : Nat), Live s ∧ s.node.ftl.reads.any (fun r => r.onMap && r.ua / 512 = page) =
    true ∧ s.node.ftl.cached.length + 1 ≤ mapCachePages s.node :=
  ⟨W (ftlW (fun f => { f with reads := [{ fRead0 with onMap := true }], cacheGiB := 1 })), 0, by decide +kernel⟩

theorem test_FlashUpkeep_2 : ∃ (s : State) (ua : Nat) (r : ReadEnd) (q : FRead) (m : FMap), Live s ∧ s.node.ftl.reads = [q] ∧
    q.ua = ua ∧ q.onMap = false ∧ fmapGet s.node ua = some m ∧ m.mstate = 1 :=
  ⟨W (ftlW (fun f => { f with reads := [fRead0], map := [(0, some { fMap0 with mstate := 1 })] })), 0, .uncorrectable, fRead0,
    { fMap0 with mstate := 1 }, by decide +kernel⟩

theorem test_FlashUpkeep_2_clean : ∃ (s : State) (ua : Nat) (r : ReadEnd) (q : FRead) (m : FMap), Live s ∧ s.node.ftl.reads =
    [q] ∧ q.ua = ua ∧ q.onMap = false ∧ fmapGet s.node ua = some m ∧ m.mstate = 1 ∧ readJudged ua r ≠ .uncorrectable :=
  ⟨W (ftlW (fun f => { f with reads := [fRead0], map := [(0, some { fMap0 with mstate := 1 })] })), 0, .soft slotHdr0 slotData0,
    fRead0, { fMap0 with mstate := 1 }, by decide +kernel, by decide +kernel, by decide +kernel, by decide +kernel,
    by decide +kernel, by decide +kernel, slot_good⟩

theorem test_FlashUpkeep_3 : ∃ (s : State) (ch : Fin 32) (ce : Fin 8) (lun : Fin 4) (q : FRead) (m : FMap) (u : WUnit), Live s ∧
    s.node.ftl.reads = [q] ∧ q.onMap = false ∧ fmapGet s.node q.ua = some m ∧ m.mstate = 1 ∧ lunOf m.blk = (ch.val * 8 + ce.val)
    * 4 + lun.val ∧ u ∈ s.node.ftl.buf ∧ lunOf u.blk = lunOf m.blk ∧ u.stage = 1 :=
  ⟨W (ftlW (fun f => { f with reads := [fRead0], map := [(0, some { fMap0 with mstate := 1 })], buf := [wUnit1] })), 0, 0, 0,
    fRead0, { fMap0 with mstate := 1 }, wUnit1, by decide +kernel⟩

theorem test_FlashUpkeep_3_fifth : ∃ (s : State) (ch : Fin 32) (ce : Fin 8) (lun : Fin 4) (q : FRead) (m : FMap) (u : WUnit),
    Live s ∧ s.node.ftl.reads = [q] ∧ q.onMap = false ∧ fmapGet s.node q.ua = some m ∧ m.mstate = 1 ∧ lunOf m.blk = (ch.val * 8
    + ce.val) * 4 + lun.val ∧ u ∈ s.node.ftl.buf ∧ lunOf u.blk = lunOf m.blk ∧ u.stage = 1 ∧ 4 ≤ sget 0 s.node.ftl.susp (lunOf
    m.blk) :=
  ⟨W (ftlW (fun f => { f with reads := [fRead0], map := [(0, some { fMap0 with mstate := 1 })], buf := [wUnit1], susp := [(0, 4)] })),
    0, 0, 0, fRead0, { fMap0 with mstate := 1 }, wUnit1, by decide +kernel⟩

theorem test_FlashUpkeep_4 : ∃ (s : State) (b : Nat) (k : FBlk), Live s ∧ poolFormatted s.node = true ∧ closedBlocks s.node =
    [(b, k)] ∧ fblkGet s.node b = k ∧ validIn s.node b = [] :=
  ⟨W (ftlW (fun f => { f with blocks := [(0, some { fblkNew with state := 2 })] })), 0, { fblkNew with state := 2 },
    by decide +kernel⟩

theorem test_FlashUpkeep_5 : ∃ (s : State) (block : BlockId), Live s ∧ (fblkGet s.node (codeOf block)).state = 4 ∧ validIn
    s.node (codeOf block) = [] ∧ (∀ r ∈ s.node.ftl.reads, r.blk ≠ codeOf block + 1) :=
  ⟨W (ftlW (fun f => { f with blocks := [(0, some { fblkNew with state := 4 })] })), block0, by decide +kernel,
    by decide +kernel, by decide +kernel, (fun r h => nomatch (show r ∈ ([] : List FRead) from h))⟩

theorem test_FlashUpkeep_6 : ∃ (s : State) (block : BlockId), Live s ∧ poolFormatted s.node = true ∧ (fblkGet s.node (codeOf
    block)).state = 2 ∧ (fblkGet s.node (codeOf block)).due = true ∧ (fblkGet s.node (codeOf block)).uncorr < 2 :=
  ⟨W (ftlW (fun f => { f with blocks := [(0, some { fblkNew with state := 2, due := true })] })), block0, by decide +kernel⟩

theorem test_FlashUpkeep_7 : ∃ (s : State) (block : BlockId) (r : ReadEnd), Live s ∧ (fblkGet s.node (codeOf block)).state = 2 ∧
    (fblkGet s.node (codeOf block)).scanned = false :=
  ⟨W (ftlW (fun f => { f with blocks := [(0, some { fblkNew with state := 2 })] })), block0, .hard 0 0 bempty, by decide +kernel⟩

theorem test_FlashUpkeep_8 : ∃ (s : State) (ch : Fin 32) (ce : Fin 8) (lun : Fin 4), Live s ∧ s.node.ftl.lunOut.contains
    ((ch.val * 8 + ce.val) * 4 + lun.val) = false :=
  ⟨W id, 31, 7, 3, by decide +kernel⟩

theorem test_FlashUpkeep_9 : ∃ (s : State) (ch : Fin 32), Live s :=
  ⟨W id, 31, by decide +kernel⟩

theorem test_FlashUpkeep_10 : ∃ (s : State) (temps : List Nat), Live s :=
  ⟨W id, [40], by decide +kernel⟩

theorem test_LanesAndLinks_0 : ∃ (s : State) (lane : Fin 136) (info : LaneInfo) (c : Cable) (pos : Nat), Live s ∧ cableOf s.node
    lane.val = some (c, pos) ∧ (laneGet s.node lane.val).state ≠ 2 ∧ (laneGet s.node lane.val).state ≠ 4 ∧ (laneGet s.node
    lane.val).state ≠ 5 ∧ info.ok = true ∧ info.peerSerial = c.serial ∧ info.peerLane = c.peers.getD pos 0xFF :=
  ⟨W (fun n => { n with cabling := [cable1] }), 4, trained1, cable1, 0, by decide +kernel⟩

theorem test_LanesAndLinks_0_other : ∃ (s : State) (lane : Fin 136) (info : LaneInfo) (c : Cable) (pos : Nat), Live s ∧ cableOf
    s.node lane.val = some (c, pos) ∧ (laneGet s.node lane.val).state ≠ 2 ∧ (laneGet s.node lane.val).state ≠ 4 ∧ (laneGet
    s.node lane.val).state ≠ 5 ∧ info.ok = true ∧ info.peerLane ≠ c.peers.getD pos 0xFF :=
  ⟨W (fun n => { n with cabling := [cable1] }), 4, { trained1 with peerLane := 1 }, cable1, 0, by decide +kernel⟩

theorem test_LanesAndLinks_0_failed : ∃ (s : State) (lane : Fin 136) (info : LaneInfo) (c : Cable) (pos : Nat), Live s ∧ cableOf
    s.node lane.val = some (c, pos) ∧ (laneGet s.node lane.val).state ≠ 2 ∧ (laneGet s.node lane.val).state ≠ 4 ∧ (laneGet
    s.node lane.val).state ≠ 5 ∧ info.ok = false :=
  ⟨W (fun n => { n with cabling := [cable1] }), 4, { trained1 with ok := false }, cable1, 0, by decide +kernel⟩

theorem test_LanesAndLinks_1 : ∃ (s : State) (lane : Fin 136) (info : LaneInfo), Live s ∧ (laneGet s.node lane.val).state = 0 :=
  ⟨W (laneSet 4 { lane0 with state := 0 }), 4, trained1, by decide +kernel⟩

theorem test_LanesAndLinks_2 : ∃ (s : State) (lane : Fin 136) (k : Nat) (l : Link), Live s ∧ (laneGet s.node lane.val).state = 2
    ∧ (laneGet s.node lane.val).link = some k ∧ linkGet s.node k = some l ∧ l.active.filter (fun x => x ≠ lane.val) ≠ [] :=
  ⟨W (laneSet 0 { lane0 with state := 2, link := some 0 }), 0, 0, link2, by decide +kernel⟩

theorem test_LanesAndLinks_2_last : ∃ (s : State) (lane : Fin 136) (k : Nat) (l : Link), Live s ∧ (laneGet s.node
    lane.val).state = 2 ∧ (laneGet s.node lane.val).link = some k ∧ linkGet s.node k = some l ∧ l.active.filter (fun x => x ≠
    lane.val) = [] :=
  ⟨W (fun n => laneSet 0 { lane0 with state := 2, link := some 0 } { n with links := [(0, some { link2 with active := [0] })] }),
    0, 0, { link2 with active := [0] }, by decide +kernel⟩

theorem test_LanesAndLinks_3 : ∃ (s : State) (lane : Fin 136) (info : LaneInfo) (c : Cable), Live s ∧ spareOf s.node lane.val =
    some c ∧ (laneGet s.node lane.val).state = 1 ∧ info.ok = true ∧ info.peerSerial = c.serial ∧ info.peerLane = c.peerSpare :=
  ⟨W (fun n => laneSet 6 { lane0 with state := 1 } { n with cabling := [cable1] }), 6, { trained1 with peerLane := 2 }, cable1,
    by decide +kernel⟩

theorem test_LanesAndLinks_3_failed : ∃ (s : State) (lane : Fin 136) (info : LaneInfo) (c : Cable), Live s ∧ spareOf s.node
    lane.val = some c ∧ (laneGet s.node lane.val).state = 1 ∧ info.ok = false :=
  ⟨W (fun n => laneSet 6 { lane0 with state := 1 } { n with cabling := [cable1] }), 6, { trained1 with ok := false }, cable1,
    by decide +kernel⟩

theorem test_LanesAndLinks_4 : ∃ (s : State) (link : Fin 128) (l : Link), Live s ∧ linkGet s.node link.val = some l ∧ (l.state =
    2 ∨ l.state = 3) :=
  ⟨W id, 0, link2, by decide +kernel⟩

theorem test_LanesAndLinks_5 : ∃ (s : State) (lane : Fin 136) (v : Word), Live s ∧ v.toNat.testBit 31 = true :=
  ⟨W id, 0, 0x80000000, by decide +kernel⟩

theorem test_LanesAndLinks_5_enabled : ∃ (s : State) (lane : Fin 136) (v : Word), Live s ∧ v.toNat.testBit 31 = false ∧ (laneGet
    s.node lane.val).state = 5 :=
  ⟨W (laneSet 0 { lane0 with state := 5 }), 0, 0, by decide +kernel⟩

theorem test_FlitsAndTimeouts_0 : ∃ (s : State) (link : Fin 128) (d : Blob) (crc : Word) (h : FlitHdr) (l : Link), Live s ∧
    linkGet s.node link.val = some l ∧ flitHdr d = h ∧ flitCrcOk l d crc = true ∧ (l.state = 2 ∨ l.state = 3) ∧ h.seq.toNat =
    (l.rxSeq + 1) % 4096 ∧ h.nak = false :=
  ⟨W id, 0, flit1, 524828445, flitHdr flit1, link2, by decide +kernel, by decide +kernel, rfl,
    flit_good (by decide +kernel) (by decide +kernel), by decide +kernel⟩

theorem test_FlitsAndTimeouts_0_wrap : ∃ (s : State) (link : Fin 128) (d : Blob) (crc : Word) (h : FlitHdr) (l : Link), Live s ∧
    linkGet s.node link.val = some l ∧ flitHdr d = h ∧ flitCrcOk l d crc = true ∧ (l.state = 2 ∨ l.state = 3) ∧ h.seq.toNat =
    (l.rxSeq + 1) % 4096 ∧ h.nak = false :=
  ⟨W (fun n => { n with links := [(0, some { link2 with rxSeq := 4095 })] }), 0, flit0, 1743147809, flitHdr flit0,
    { link2 with rxSeq := 4095 }, by decide +kernel, by decide +kernel, rfl, flit_good (by decide +kernel) (by decide +kernel),
    by decide +kernel⟩

theorem test_FlitsAndTimeouts_1 : ∃ (s : State) (link : Fin 128) (d : Blob) (crc : Word) (h : FlitHdr) (l : Link), Live s ∧
    linkGet s.node link.val = some l ∧ flitHdr d = h ∧ flitCrcOk l d crc = true ∧ (l.state = 2 ∨ l.state = 3) ∧ h.seq.toNat =
    (l.rxSeq + 1) % 4096 ∧ h.nak = true :=
  ⟨W id, 0, flit1n, 4156110320, flitHdr flit1n, link2, by decide +kernel, by decide +kernel, rfl,
    flit_good (by decide +kernel) (by decide +kernel), by decide +kernel⟩

theorem test_FlitsAndTimeouts_2 : ∃ (s : State) (link : Fin 128) (d : Blob) (crc : Word) (l : Link), Live s ∧ linkGet s.node
    link.val = some l ∧ (l.state = 2 ∨ l.state = 3) ∧ (flitCrcOk l d crc = false ∨ (flitHdr d).seq.toNat ≠ (l.rxSeq + 1) % 4096)
    :=
  ⟨W id, 0, bempty, 0, link2, by decide +kernel⟩

theorem test_FlitsAndTimeouts_2_order : ∃ (s : State) (link : Fin 128) (d : Blob) (crc : Word) (l : Link), Live s ∧ linkGet
    s.node link.val = some l ∧ (l.state = 2 ∨ l.state = 3) ∧ (flitCrcOk l d crc = false ∨ (flitHdr d).seq.toNat ≠ (l.rxSeq + 1)
    % 4096) :=
  ⟨W id, 0, flit2, 2528807769, link2, by decide +kernel, by decide +kernel, by decide +kernel, (Or.inr (by decide +kernel))⟩

theorem test_FlitsAndTimeouts_3 : ∃ (s : State) (link : Fin 128) (l : Link), Live s ∧ linkGet s.node link.val = some l ∧
    (l.state = 2 ∨ l.state = 3) :=
  ⟨W id, 0, link2, by decide +kernel⟩

theorem test_FlitsAndTimeouts_4 : ∃ (s : State) (tag : Nat) (a : Await), Live s ∧ s.node.awaits.find? (fun a => a.tag = tag) =
    some a ∧ (msgClass a.m).1 = 0 ∧ sget 0 s.node.mapTimeouts a.dst < 2 :=
  ⟨W (fun n => { n with awaits := [{ await0 with tag := 9, dst := 2 }] }), 9, { await0 with tag := 9, dst := 2 },
    by decide +kernel⟩

theorem test_FlitsAndTimeouts_4_third : ∃ (s : State) (tag : Nat) (a : Await), Live s ∧ s.node.awaits.find? (fun a => a.tag =
    tag) = some a ∧ (msgClass a.m).1 = 0 ∧ 2 ≤ sget 0 s.node.mapTimeouts a.dst :=
  ⟨W (fun n => { n with awaits := [{ await0 with tag := 9, dst := 2 }], mapTimeouts := [(2, 2)] }), 9,
    { await0 with tag := 9, dst := 2 }, by decide +kernel⟩

theorem test_FlitsAndTimeouts_5 : ∃ (s : State) (tag d : Nat) (ds : List Nat) (a : Await) (m : RebuildReadMsg), Live s ∧
    s.node.awaits.find? (fun a => a.tag = tag) = some a ∧ a.m = .rebuildRead m ∧ ((otherHolders s.node m.key).dropWhile (fun x
    => x ≠ a.dst)).drop 1 = d :: ds :=
  ⟨W (fun n => { n with awaits := [awaitR], map := { map5 with shards := [{ role7 with replicas := [{ node := 3, slice := 0 }] }] } }),
    9, 3, [], awaitR, { rebuildReadMsg0 with key := k7 }, by decide +kernel⟩

theorem test_MapAgreement_0 : ∃ (s : State) (h : MsgHdr) (m : PrepareMsg), Live s ∧ Taken s.node h (.prepare m) ∧ onCouncil
    s.node = true ∧ s.node.map.epoch < m.epoch ∧ m.epoch ≠ 0xFFFFFFFF :=
  ⟨W (onC [1, 2]), hdr (.prepare { prepareMsg0 with epoch := 6 }), { prepareMsg0 with epoch := 6 }, by decide +kernel,
    (Taken.of (by decide +kernel)), by decide +kernel⟩

theorem test_MapAgreement_1 : ∃ (s : State) (h : MsgHdr) (m : AcceptMsg), Live s ∧ Taken s.node h (.accept m) ∧ onCouncil s.node
    = true ∧ s.node.map.epoch < m.epoch ∧ m.epoch ≠ 0xFFFFFFFF ∧ (∀ p ∈ s.node.council.promised, p.1 = m.epoch → ballotLt
    m.ballot p.2 = false) :=
  ⟨W (onC [1, 2]), hdr (.accept { acceptMsg0 with epoch := 6 }), { acceptMsg0 with epoch := 6 }, by decide +kernel,
    (Taken.of (by decide +kernel)), by decide +kernel⟩

theorem test_MapAgreement_1_lower : ∃ (s : State) (h : MsgHdr) (m : AcceptMsg), Live s ∧ Taken s.node h (.accept m) ∧ onCouncil
    s.node = true ∧ s.node.map.epoch < m.epoch ∧ m.epoch ≠ 0xFFFFFFFF ∧ s.node.council.promised.find? (fun p => p.1 = m.epoch &&
    ballotLt m.ballot p.2) = some (6, { round := 1, node := 2 }) :=
  ⟨W (fun n => onC [1, 2] { n with council := { n.council with promised := [(6, { round := 1, node := 2 })] } }),
    hdr (.accept { acceptMsg0 with epoch := 6 }), { acceptMsg0 with epoch := 6 }, by decide +kernel,
    (Taken.of (by decide +kernel)), by decide +kernel⟩

theorem test_MapAgreement_2 : ∃ (s : State) (h : MsgHdr) (p : PrepareMsg), Live s ∧ Taken s.node h (.prepare p) ∧ p.epoch =
    0xFFFFFFFF :=
  ⟨W id, hdr (.prepare { prepareMsg0 with epoch := 0xFFFFFFFF }), { prepareMsg0 with epoch := 0xFFFFFFFF }, by decide +kernel,
    (Taken.of (by decide +kernel)), by decide +kernel⟩

theorem test_MapAgreement_3 : ∃ (s : State) (h : MsgHdr) (a : AcceptMsg), Live s ∧ Taken s.node h (.accept a) ∧ a.epoch =
    0xFFFFFFFF :=
  ⟨W id, hdr (.accept { acceptMsg0 with epoch := 0xFFFFFFFF }), { acceptMsg0 with epoch := 0xFFFFFFFF }, by decide +kernel,
    (Taken.of (by decide +kernel)), by decide +kernel⟩

theorem test_MapAgreement_4 : ∃ (s : State) (h : MsgHdr) (m : PromiseMsg) (p : Proposal), Live s ∧ Taken s.node h (.promise m) ∧
    s.node.council.prop = some p ∧ p.epoch = m.epoch ∧ p.backoff = none ∧ m.ballot = p.ballot ∧ p.phase = 1 ∧
    s.node.map.council.contains h.src = true ∧ p.promises.any (fun x => x.1 = h.src.toNat) = false ∧ s.node.map.council.length <
    2 * (p.promises.length + 1) :=
  ⟨W (prop6 { proposal0 with epoch := 6, phase := 1 }), hdr (.promise { promiseMsg0 with epoch := 6 }),
    { promiseMsg0 with epoch := 6 }, { proposal0 with epoch := 6, phase := 1 }, by decide +kernel,
    (Taken.of (by decide +kernel)), by decide +kernel⟩

theorem test_MapAgreement_4_few : ∃ (s : State) (h : MsgHdr) (m : PromiseMsg) (p : Proposal), Live s ∧ Taken s.node h (.promise
    m) ∧ s.node.council.prop = some p ∧ p.epoch = m.epoch ∧ p.backoff = none ∧ m.ballot = p.ballot ∧ p.phase = 1 ∧
    s.node.map.council.contains h.src = true ∧ 2 * (p.promises.length + 1) ≤ s.node.map.council.length :=
  ⟨W (fun n => onC [1, 2] (prop6 { proposal0 with epoch := 6, phase := 1 } n)), hdr (.promise { promiseMsg0 with epoch := 6 }),
    { promiseMsg0 with epoch := 6 }, { proposal0 with epoch := 6, phase := 1 }, by decide +kernel,
    (Taken.of (by decide +kernel)), by decide +kernel⟩

theorem test_MapAgreement_4_higher : ∃ (s : State) (h : MsgHdr) (m : PromiseMsg) (p : Proposal), Live s ∧ Taken s.node h
    (.promise m) ∧ s.node.council.prop = some p ∧ p.epoch = m.epoch ∧ p.backoff = none ∧ ballotLt p.ballot m.ballot = true :=
  ⟨W (prop6 { proposal0 with epoch := 6, phase := 1 }),
    hdr (.promise { promiseMsg0 with epoch := 6, ballot := { round := 1, node := 2 } }),
    { promiseMsg0 with epoch := 6, ballot := { round := 1, node := 2 } }, { proposal0 with epoch := 6, phase := 1 },
    by decide +kernel, (Taken.of (by decide +kernel)), by decide +kernel⟩

theorem test_MapAgreement_5 : ∃ (s : State) (p : Proposal) (w : Nat) (c : MapChange) (l : List MapChange), Live s ∧
    s.node.council.prop = some p ∧ p.backoff = some w ∧ s.node.council.wants = c :: l ∧ changeMoot s.node.map c = false ∧
    epochOpen s.node c = true ∧ s.node.map.council.isEmpty = false :=
  ⟨W (fun n => { n with council := { n.council with prop := some { proposal0 with backoff := some 0 }, wants := [.memberState 2 .failed] } }),
    { proposal0 with backoff := some 0 }, 0, .memberState 2 .failed, [], by decide +kernel⟩

theorem test_MapAgreement_6 : ∃ (s : State) (h : MsgHdr) (m : PrepareMsg) (p : Proposal), Live s ∧ Taken s.node h (.accepted m)
    ∧ s.node.council.prop = some p ∧ p.epoch = m.epoch ∧ p.ballot = m.ballot ∧ p.phase = 2 ∧ s.node.map.council.contains h.src =
    true ∧ p.accepts.contains h.src.toNat = false ∧ s.node.map.council.length < 2 * (p.accepts.length + 1) :=
  ⟨W (prop6 { proposal0 with epoch := 6, phase := 2 }), hdr (.accepted { prepareMsg0 with epoch := 6 }),
    { prepareMsg0 with epoch := 6 }, { proposal0 with epoch := 6, phase := 2 }, by decide +kernel,
    (Taken.of (by decide +kernel)), by decide +kernel⟩

theorem test_MapAgreement_6_few : ∃ (s : State) (h : MsgHdr) (m : PrepareMsg) (p : Proposal), Live s ∧ Taken s.node h (.accepted
    m) ∧ s.node.council.prop = some p ∧ p.epoch = m.epoch ∧ p.ballot = m.ballot ∧ p.phase = 2 ∧ s.node.map.council.contains
    h.src = true ∧ p.accepts.contains h.src.toNat = false ∧ 2 * (p.accepts.length + 1) ≤ s.node.map.council.length :=
  ⟨W (fun n => onC [1, 2] (prop6 { proposal0 with epoch := 6, phase := 2 } n)), hdr (.accepted { prepareMsg0 with epoch := 6 }),
    { prepareMsg0 with epoch := 6 }, { proposal0 with epoch := 6, phase := 2 }, by decide +kernel,
    (Taken.of (by decide +kernel)), by decide +kernel⟩

theorem test_MapAgreement_7 : ∃ (s : State) (h : MsgHdr) (m : CommitMsg), Live s ∧ Taken s.node h (.commit m) ∧ 0 <
    s.node.map.epoch ∧ s.node.map.epoch < m.epoch ∧ s.node.map.epoch ≠ 0xFFFFFFFE ∧ (∃ c ∈ s.node.map.council, c ≠
    s.node.nodeId) ∧ s.node.council.accepted.find? (fun a => a.1 = m.epoch && mapDigest a.2.2 = m.digest) = none :=
  ⟨W id, hdr (.commit { commitMsg0 with epoch := 6 }), { commitMsg0 with epoch := 6 }, by decide +kernel,
    (Taken.of (by decide +kernel)), by decide +kernel⟩

theorem test_MapAgreement_8 : ∃ (s : State) (h : MsgHdr) (m : CMap), Live s ∧ Taken s.node h (.epochData m) ∧ (∃ a ∈
    s.node.awaits, a.tag = h.tag.toNat) ∧ mapFollows s.node m = true :=
  ⟨W (fun n => { n with awaits := [{ await0 with tag := 9 }], map := { map5 with epoch := 0 } }), hdr (.epochData map5), map5,
    by decide +kernel, (Taken.of (by decide +kernel)), by decide +kernel⟩

theorem test_MapAgreement_8_stray : ∃ (s : State) (h : MsgHdr) (m : CMap), Live s ∧ Taken s.node h (.epochData m) ∧ (∀ a ∈
    s.node.awaits, a.tag ≠ h.tag.toNat) :=
  ⟨W id, hdr (.epochData map5), map5, by decide +kernel, (Taken.of (by decide +kernel)), by decide +kernel⟩

theorem test_MapAgreement_9 : ∃ (s : State) (h : MsgHdr) (e : Nat), Live s ∧ Taken s.node h (.epochFetch e) ∧
    s.node.oldMaps.reverse.find? (fun m => m.epoch = e) = some map5 ∧ hasRoute s.node h.src.toNat = true :=
  ⟨W (fun n => { n with oldMaps := [map5] }), hdr (.epochFetch 5), 5, by decide +kernel, (Taken.of (by decide +kernel)),
    by decide +kernel⟩

theorem test_MapAgreement_9_unknown : ∃ (s : State) (h : MsgHdr) (e : Nat), Live s ∧ Taken s.node h (.epochFetch e) ∧
    s.node.oldMaps.reverse.find? (fun m => m.epoch = e) = none :=
  ⟨W id, hdr (.epochFetch 5), 5, by decide +kernel, (Taken.of (by decide +kernel)), by decide +kernel⟩

theorem test_MapAgreement_10 : ∃ (s : State) (e : Nat) (a : Await), Live s ∧ s.node.awaits.find? (fun a => a.m = .epochFetch e)
    = some a :=
  ⟨W (fun n => { n with awaits := [{ await0 with m := .epochFetch 6 }] }), 6, { await0 with m := .epochFetch 6 },
    by decide +kernel⟩

theorem test_SuspicionAndQuorum_0 : ∃ (s : State) (h : MsgHdr) (node : BitVec 12) (cause : SuspectCause), Live s ∧ Taken s.node
    h (.suspect node cause) ∧ onCouncil s.node = true ∧ isFenced s.node node.toNat = false ∧ isMember s.node node.toNat = true
    :=
  ⟨W (onC [1, 2]), hdr (.suspect 2 .silence), 2, .silence, by decide +kernel, (Taken.of (by decide +kernel)), by decide +kernel⟩

theorem test_SuspicionAndQuorum_1 : ∃ (s : State) (h : MsgHdr) (node : BitVec 12) (nonce : BitVec 256), Live s ∧ Taken s.node h
    (.probe node nonce) :=
  ⟨W id, hdr (.probe 1 77), 1, 77, by decide +kernel, (Taken.of (by decide +kernel))⟩

theorem test_SuspicionAndQuorum_1_other : ∃ (s : State) (h : MsgHdr) (node : BitVec 12) (nonce : BitVec 256), Live s ∧ Taken
    s.node h (.probe node nonce) :=
  ⟨W id, hdr (.probe 2 77), 2, 77, by decide +kernel, (Taken.of (by decide +kernel))⟩

theorem test_SuspicionAndQuorum_2 : ∃ (s : State) (h : MsgHdr) (nonce : BitVec 256), Live s ∧ Taken s.node h (.probeAnswer
    nonce) :=
  ⟨W id, hdr (.probeAnswer 77), 77, by decide +kernel, (Taken.of (by decide +kernel))⟩

theorem test_SuspicionAndQuorum_3 : ∃ (s : State) (node : BitVec 12) (x : Suspicion), Live s ∧ s.node.suspicions.find? (fun x =>
    x.node = node) = some x ∧ changeMoot s.node.map (.memberState node .failed) = false :=
  ⟨W (fun n => { n with suspicions := [{ suspicion0 with node := 2 }] }), 2, { suspicion0 with node := 2 }, by decide +kernel⟩

theorem test_SuspicionAndQuorum_4 : ∃ (s : State) (h : MsgHdr) (cause : Nat), Live s ∧ Taken s.node h (.nodeWithdraw cause) ∧
    onCouncil s.node = true ∧ changeMoot s.node.map (.memberState h.src .failed) = false :=
  ⟨W (onC [1, 2]), hdr (.nodeWithdraw 3), 3, by decide +kernel, (Taken.of (by decide +kernel)), by decide +kernel⟩

theorem test_SuspicionAndQuorum_4_other : ∃ (s : State) (h : MsgHdr) (cause : Nat), Live s ∧ Taken s.node h (.nodeWithdraw
    cause) ∧ onCouncil s.node = false :=
  ⟨W id, hdr (.nodeWithdraw 3), 3, by decide +kernel, (Taken.of (by decide +kernel)), by decide +kernel⟩

theorem test_SuspicionAndQuorum_5 : ∃ (s : State) (node : BitVec 12), Live s ∧ onCouncil s.node = true ∧ isMember s.node
    node.toNat = true ∧ isFenced s.node node.toNat = false ∧ node ≠ s.node.nodeId :=
  ⟨W (onC [1, 2]), 2, by decide +kernel⟩

theorem test_SuspicionAndQuorum_6 : ∃ (s : State), Live s ∧ s.node.quorum = true ∧ s.node.map.council ≠ [s.node.nodeId] :=
  ⟨W id, by decide +kernel⟩

theorem test_SuspicionAndQuorum_7 : ∃ (s : State) (x : Member), Live s ∧ memberFind s.node.map s.node.nodeId.toNat = some x ∧
    x.state ≠ .absent :=
  ⟨W id, member1, by decide +kernel⟩

theorem test_SuspicionAndQuorum_8 : ∃ (s : State) (h : MsgHdr) (meds : List (BitVec 12 × Nat)), Live s ∧ Taken s.node h
    (.loadReport meds) ∧ onCouncil s.node = true ∧ (meds.map (·.1)).Nodup :=
  ⟨W (onC [1, 2]), hdr (.loadReport [(2, 100), (1, 5)]), [(2, 100), (1, 5)], by decide +kernel, (Taken.of (by decide +kernel)),
    by decide +kernel⟩

theorem test_SuspicionAndQuorum_9 : ∃ (s : State) (key : ShardKey) (f : Fwd), Live s ∧ s.node.fwds.find? (fun f => f.key = key)
    = some f :=
  ⟨W (fun n => { n with fwds := [{ fwd0 with key := k7 }] }), k7, { fwd0 with key := k7 }, by decide +kernel⟩

theorem test_JoinAndMove_0 : ∃ (s : State) (h : MsgHdr) (m : JoinMsg), Live s ∧ Taken s.node h (.join m) ∧ onCouncil s.node =
    true :=
  ⟨W (onC [1, 2]), hdr (.join joinMsg0), joinMsg0, by decide +kernel, (Taken.of (by decide +kernel)), by decide +kernel⟩

theorem test_JoinAndMove_1 : ∃ (s : State) (h : MsgHdr) (m : JoinMsg), Live s ∧ Taken s.node h (.join m) ∧ onCouncil s.node =
    false ∧ s.node.map.council ≠ [] ∧ (∀ c ∈ s.node.map.council, hasRoute s.node c.toNat = true) :=
  ⟨W id, hdr (.join joinMsg0), joinMsg0, by decide +kernel, (Taken.of (by decide +kernel)), by decide +kernel⟩

theorem test_JoinAndMove_2 : ∃ (s : State) (h : MsgHdr) (nonce : BitVec 256) (a : Await) (m : JoinMsg), Live s ∧ Taken s.node h
    (.joinAnswer false 1 nonce) ∧ s.node.awaits.find? (fun a => a.tag = h.tag.toNat) = some a ∧ a.m = .join m ∧ BitVec.ofNat 256
    (bnum m.report 0x20 32) ≠ nonce :=
  ⟨W (fun n => { n with awaits := [{ await0 with tag := 9, m := .join joinMsg0 }] }), hdr (.joinAnswer false 1 5), 5,
    { await0 with tag := 9, m := .join joinMsg0 }, joinMsg0, by decide +kernel, (Taken.of (by decide +kernel)),
    by decide +kernel⟩

theorem test_JoinAndMove_3 : ∃ (s : State) (failing : Nat) (x : Member), Live s ∧ memberFind s.node.map s.node.nodeId.toNat =
    some x ∧ x.state = .testing :=
  ⟨W (fun n => { n with map := { map5 with members := [{ member1 with state := .testing }, member2] } }), 0x3F,
    { member1 with state := .testing }, by decide +kernel⟩

theorem test_JoinAndMove_4 : ∃ (s : State) (h : MsgHdr) (key : ShardKey) (msn : Nat) (r : ShardRole), Live s ∧ Taken s.node h
    (.seal key msn) ∧ shardRole s.node.map key = some r ∧ r.primary.any (fun p => p.node = h.src) = true ∧ r.incoming = some
    s.node.nodeId ∧ shardFind s.node key = some shard7 ∧ onCouncil s.node = true :=
  ⟨W (fun n => { n with map := { map5 with shards := [{ roleP with incoming := some 1 }], council := [1, 2] } }),
    hdr (.seal k7 9), k7, 9, { roleP with incoming := some 1 }, by decide +kernel, (Taken.of (by decide +kernel)),
    by decide +kernel⟩

theorem test_JoinAndMove_5 : ∃ (s : State) (key : ShardKey) (sh : Shard) (w : Nat), Live s ∧ shardFind s.node key = some sh ∧
    sh.sealed = some w :=
  ⟨W (fun n => { n with shards := [{ shard7 with sealed := some 0 }] }), k7, { shard7 with sealed := some 0 }, 0,
    by decide +kernel⟩

theorem test_JoinAndMove_6 : ∃ (s : State) (h : MsgHdr) (m : CopyMsg) (sh : Shard) (o : ObjRange) (lid : Nat), Live s ∧ Taken
    s.node h (.copy m) ∧ shardFind s.node m.key = some sh ∧ m.obj = .attr ∧ m.off = 16 * lid ∧ m.data.len = 16 ∧
    s.node.mmu.objs.find? (fun o => o.key = m.key && o.what = 4) = some o ∧ m.off + 16 ≤ o.pages * 65536 :=
  ⟨W (fun n => { n with mmu := { n.mmu with objs := [attrObj] } }),
    hdr (.copy { copyMsg0 with key := k7, obj := .attr, off := 64, data := { len := 16, bits := 7 } }),
    { copyMsg0 with key := k7, obj := .attr, off := 64, data := { len := 16, bits := 7 } }, shard7, attrObj, 4,
    by decide +kernel, (Taken.of (by decide +kernel)), by decide +kernel⟩

theorem test_JoinAndMove_7 : ∃ (s : State) (h : MsgHdr) (m : RebuildReadMsg) (sh : Shard) (g : IdxGen), Live s ∧ Taken s.node h
    (.rebuildRead m) ∧ shardFind s.node m.key = some sh ∧ genFind s.node m.key.handle m.key.gen = some g ∧ hasRoute s.node
    h.src.toNat = true :=
  ⟨W id, hdr (.rebuildRead { rebuildReadMsg0 with key := k7, lids := [4] }), { rebuildReadMsg0 with key := k7, lids := [4] },
    shard7, gen7, by decide +kernel, (Taken.of (by decide +kernel)), by decide +kernel⟩

theorem test_JoinAndMove_8 : ∃ (s : State) (h : MsgHdr) (m : RebuildDataMsg) (sh : Shard) (g : IdxGen) (lid : Nat) (full :
    Blob), Live s ∧ Taken s.node h (.rebuildData m) ∧ (∃ a ∈ s.node.awaits, a.tag = h.tag.toNat) ∧ shardFind s.node m.key = some
    sh ∧ genFind s.node m.key.handle m.key.gen = some g ∧ m.recs = [] ∧ m.fulls = [(lid, full)] :=
  ⟨W (fun n => { n with awaits := [{ await0 with tag := 9 }] }),
    hdr (.rebuildData { rebuildDataMsg0 with key := k7, fulls := [(4, { len := 32, bits := 1 })] }),
    { rebuildDataMsg0 with key := k7, fulls := [(4, { len := 32, bits := 1 })] }, shard7, gen7, 4, { len := 32, bits := 1 },
    by decide +kernel, (Taken.of (by decide +kernel)), by decide +kernel⟩

theorem test_JoinAndMove_9 : ∃ (s : State) (handle g : Nat), Live s ∧ currentGen s.node.map handle = some g ∧
    s.node.map.gens.contains { handle := handle, gen := nextGen g } = false ∧ s.node.map.shards.any (fun r => r.key.handle =
    handle && r.key.gen = nextGen g) = true ∧ (∀ sh ∈ s.node.shards, sh.key.handle = handle → sh.key.gen = g → sh.role = 0 →
    sh.copyPoint.isSome = true ∧ (sh.steps.filter (fun p => sh.forwarded < p.step.lastMsn)).length ≤ 1) :=
  ⟨W (fun n => { n with map := { map5 with shards := [role7, { role7 with key := { k7 with gen := 1 } }] }, shards := [{ shard7 with copyPoint := some 0 }] }),
    7, 0, by decide +kernel⟩

theorem test_EthernetFrames_0 : ∃ (s : State) (f : FrameInfo) (data : Blob) (c : Instr) (k : Nat) (d : Blob), Live s ∧ ((c =
    .arp f ∧ k = 0 ∧ d = f.src) ∨ (c = .neighbourDiscovery f ∧ k = 1 ∧ d = f.src) ∨ (c = .icmpEcho f data ∧ k = 2 ∧ d = data)) ∧
    f.forUs = true ∧ f.fcsOk = true :=
  ⟨W id, frame1, bempty, .arp frame1, 0, frame1.src, by decide +kernel⟩

theorem test_EthernetFrames_0_nd : ∃ (s : State) (f : FrameInfo) (data : Blob) (c : Instr) (k : Nat) (d : Blob), Live s ∧ ((c =
    .arp f ∧ k = 0 ∧ d = f.src) ∨ (c = .neighbourDiscovery f ∧ k = 1 ∧ d = f.src) ∨ (c = .icmpEcho f data ∧ k = 2 ∧ d = data))
    :=
  ⟨W id, frame1, bempty, .neighbourDiscovery frame1, 1, frame1.src, by decide +kernel⟩

theorem test_EthernetFrames_0_echo : ∃ (s : State) (f : FrameInfo) (data : Blob) (c : Instr) (k : Nat) (d : Blob), Live s ∧ ((c
    = .arp f ∧ k = 0 ∧ d = f.src) ∨ (c = .neighbourDiscovery f ∧ k = 1 ∧ d = f.src) ∨ (c = .icmpEcho f data ∧ k = 2 ∧ d = data))
    ∧ (f.forUs = false ∨ f.fcsOk = false) :=
  ⟨W id, { frame1 with fcsOk := false }, { len := 4, bits := 7 },
    .icmpEcho { frame1 with fcsOk := false } { len := 4, bits := 7 }, 2, { len := 4, bits := 7 }, by decide +kernel⟩

theorem test_EthernetFrames_1 : ∃ (s : State) (f : FrameInfo) (port : Fin 16) (c : Instr) (p off : Nat), Live s ∧ ((c =
    .nonRoceFrame f ∧ f.fecBad = false ∧ p = f.port.val ∧ off = 0x128) ∨ (c = .pauseFrame port ∧ p = port.val ∧ off = 0x134)) :=
  ⟨W id, frame1, 0, .nonRoceFrame frame1, 15, 0x128, by decide +kernel⟩

theorem test_EthernetFrames_1_pause : ∃ (s : State) (f : FrameInfo) (port : Fin 16) (c : Instr) (p off : Nat), Live s ∧ ((c =
    .nonRoceFrame f ∧ f.fecBad = false ∧ p = f.port.val ∧ off = 0x128) ∨ (c = .pauseFrame port ∧ p = port.val ∧ off = 0x134)) :=
  ⟨W id, frame1, 3, .pauseFrame 3, 3, 0x134, by decide +kernel⟩

theorem test_EthernetFrames_2 : ∃ (s : State) (f : FrameInfo) (data : Blob) (c : Instr), Live s ∧ f.fecBad = true ∧ (c = .arp f
    ∨ c = .neighbourDiscovery f ∨ c = .icmpEcho f data ∨ c = .nonRoceFrame f) :=
  ⟨W id, { frame1 with fecBad := true }, bempty, .arp { frame1 with fecBad := true }, by decide +kernel⟩

theorem test_EthernetFrames_3 : ∃ (s : State) (port : Fin 16) (prio : Nat) (pause : Bool), Live s ∧ rfield s.node .eth (port.val
    / 4) 0x108 31 31 = 1 ∧ prio = rfield s.node .eth (port.val / 4) 0x108 30 28 ∧ (ethGet s.node port.val).ignore = none :=
  ⟨W id, 0, 3, true, by decide +kernel⟩

theorem test_EthernetFrames_3_other : ∃ (s : State) (port : Fin 16) (prio : Nat) (pause : Bool), Live s ∧ prio ≠ rfield s.node
    .eth (port.val / 4) 0x108 30 28 :=
  ⟨W id, 0, 4, true, by decide +kernel⟩

theorem test_EthernetFrames_4 : ∃ (s : State) (port : Fin 16) (w : Nat), Live s ∧ (ethGet s.node port.val).paused = some w :=
  ⟨W (ethSet 2 { link := 2, paused := some 5, ignore := none }), 2, 5, by decide +kernel⟩

theorem test_EthernetFrames_5 : ∃ (s : State) (port : Fin 16) (w : Nat), Live s ∧ (ethGet s.node port.val).ignore = some w :=
  ⟨W (ethSet 2 { link := 2, paused := none, ignore := some 5 }), 2, 5, by decide +kernel⟩

theorem test_EthernetFrames_6 : ∃ (s : State) (port : Fin 16), Live s ∧ ethThere s.node port.val = true ∧ (ethGet s.node
    port.val).link = 2 :=
  ⟨W (ethSet 0 { link := 2, paused := none, ignore := none }), 0, by decide +kernel⟩

theorem test_EthernetFrames_6_down : ∃ (s : State) (port : Fin 16), Live s ∧ ethThere s.node port.val = true ∧ (ethGet s.node
    port.val).link ≠ 2 :=
  ⟨W id, 0, by decide +kernel⟩

theorem test_EthernetFrames_7 : ∃ (s : State) (port : Fin 16) (ok : Bool) (c : Instr), Live s ∧ ((ethThere s.node port.val =
    false ∧ (c = .ethLinkDown port ∨ c = .ethLinkUp port ∨ c = .anRetry port ok)) ∨ (rfield s.node .eth (port.val / 4) 0x100 29
    28 = 2 ∧ c = .anRetry port ok)) :=
  ⟨W id, 1, true, .ethLinkUp 1, by decide +kernel⟩

theorem test_EthernetFrames_7_module : ∃ (s : State) (port : Fin 16) (ok : Bool) (c : Instr), Live s ∧ ((ethThere s.node
    port.val = false ∧ (c = .ethLinkDown port ∨ c = .ethLinkUp port ∨ c = .anRetry port ok)) ∨ (rfield s.node .eth (port.val /
    4) 0x100 29 28 = 2 ∧ c = .anRetry port ok)) :=
  ⟨W (fun n => { n with regs := [(0x20100, 0x28000000)] }), 0, true, .anRetry 0 true, by decide +kernel⟩

theorem test_QueuePairTransport_0 : ∃ (s : State) (q : Nat) (x : Qp), Live s ∧ qpFind s.node q = some x ∧ x.cnpSent = none :=
  ⟨W id, 3, qp3, by decide +kernel⟩

theorem test_QueuePairTransport_0_soon : ∃ (s : State) (q : Nat) (x : Qp), Live s ∧ qpFind s.node q = some x ∧ x.cnpSent = some
    0 ∧ s.node.tick < 0 + ticksUs (rfield s.node .eth (x.cfg.lport / 4) 0x10C 15 0) :=
  ⟨W (fun n => { n with qps := [{ qp3 with cnpSent := some 0 }] }), 3, { qp3 with cnpSent := some 0 }, by decide +kernel⟩

theorem test_QueuePairTransport_1 : ∃ (s : State) (q : Nat) (x : Qp), Live s ∧ qpFind s.node q = some x ∧ x.lastCut = none :=
  ⟨W id, 3, qp3, by decide +kernel⟩

theorem test_QueuePairTransport_1_soon : ∃ (s : State) (q : Nat) (x : Qp), Live s ∧ qpFind s.node q = some x ∧ x.lastCut = some
    0 ∧ s.node.tick < 0 + ticksUs 50 :=
  ⟨W (fun n => { n with qps := [{ qp3 with lastCut := some 0 }] }), 3, { qp3 with lastCut := some 0 }, by decide +kernel⟩

theorem test_QueuePairTransport_2 : ∃ (s : State) (q : Nat) (x : Qp), Live s ∧ qpFind s.node q = some x ∧ x.rate < lineRate
    s.node x.cfg.lport :=
  ⟨W id, 3, qp3, by decide +kernel⟩

theorem test_QueuePairTransport_3 : ∃ (s : State) (q upTo : Nat) (x : Qp), Live s ∧ qpFind s.node q = some x ∧ x.errQueue = []
    :=
  ⟨W id, 3, 0, qp3, by decide +kernel⟩

theorem test_QueuePairTransport_3_queue : ∃ (s : State) (q upTo : Nat) (x : Qp), Live s ∧ qpFind s.node q = some x ∧ x.errQueue
    = [{ hdr := bempty, imm := 1, arrive := none }] ∧ ∀ w ∈ x.unacked, w.err = true → (upTo + 2 ^ 24 - w.psn) % 2 ^ 24 < 2 ^ 23
    :=
  ⟨W (fun n => { n with qps := [qpE] }), 3, 4, qpE, by decide +kernel⟩

theorem test_QueuePairTransport_4 : ∃ (s : State) (q : Nat) (x : Qp), Live s ∧ qpFind s.node q = some x ∧ x.unacked ≠ [] ∧
    x.state ≠ 2 ∧ (x.retries < x.cfg.retryCnt ∧ (x.cfg.rnrRetry = 7 ∨ x.rnrs < x.cfg.rnrRetry)) :=
  ⟨W (fun n => { n with qps := [qpE] }), 3, qpE, by decide +kernel⟩

theorem test_QueuePairTransport_5 : ∃ (s : State) (q : Nat) (x : Qp) (c : Instr), Live s ∧ qpFind s.node q = some x ∧ ((c =
    .ackTimeout q ∧ x.unacked ≠ [] ∧ x.state ≠ 2 ∧ x.cfg.retryCnt ≤ x.retries) ∨ (c = .clientRnrNak q ∧ x.unacked ≠ [] ∧ x.state
    ≠ 2 ∧ x.cfg.rnrRetry ≠ 7 ∧ x.cfg.rnrRetry ≤ x.rnrs) ∨ (c = .unsupportedOp q ∧ x.state = 1) ∨ (c = .responseWriteRejected q ∧
    x.state ≠ 2)) :=
  ⟨W (fun n => { n with qps := [{ qpE with retries := 7 }] }), 3, { qpE with retries := 7 }, .ackTimeout 3, by decide +kernel⟩

theorem test_QueuePairTransport_5_rnr : ∃ (s : State) (q : Nat) (x : Qp) (c : Instr), Live s ∧ qpFind s.node q = some x ∧ ((c =
    .ackTimeout q ∧ x.unacked ≠ [] ∧ x.state ≠ 2 ∧ x.cfg.retryCnt ≤ x.retries) ∨ (c = .clientRnrNak q ∧ x.unacked ≠ [] ∧ x.state
    ≠ 2 ∧ x.cfg.rnrRetry ≠ 7 ∧ x.cfg.rnrRetry ≤ x.rnrs) ∨ (c = .unsupportedOp q ∧ x.state = 1) ∨ (c = .responseWriteRejected q ∧
    x.state ≠ 2)) :=
  ⟨W (fun n => { n with qps := [{ qpE with rnrs := 2 }] }), 3, { qpE with rnrs := 2 }, .clientRnrNak 3, by decide +kernel⟩

theorem test_QueuePairTransport_5_op : ∃ (s : State) (q : Nat) (x : Qp) (c : Instr), Live s ∧ qpFind s.node q = some x ∧ ((c =
    .ackTimeout q ∧ x.unacked ≠ [] ∧ x.state ≠ 2 ∧ x.cfg.retryCnt ≤ x.retries) ∨ (c = .clientRnrNak q ∧ x.unacked ≠ [] ∧ x.state
    ≠ 2 ∧ x.cfg.rnrRetry ≠ 7 ∧ x.cfg.rnrRetry ≤ x.rnrs) ∨ (c = .unsupportedOp q ∧ x.state = 1) ∨ (c = .responseWriteRejected q ∧
    x.state ≠ 2)) :=
  ⟨W id, 3, qp3, .unsupportedOp 3, by decide +kernel⟩

theorem test_QueuePairTransport_5_rejected : ∃ (s : State) (q : Nat) (x : Qp) (c : Instr), Live s ∧ qpFind s.node q = some x ∧
    ((c = .ackTimeout q ∧ x.unacked ≠ [] ∧ x.state ≠ 2 ∧ x.cfg.retryCnt ≤ x.retries) ∨ (c = .clientRnrNak q ∧ x.unacked ≠ [] ∧
    x.state ≠ 2 ∧ x.cfg.rnrRetry ≠ 7 ∧ x.cfg.rnrRetry ≤ x.rnrs) ∨ (c = .unsupportedOp q ∧ x.state = 1) ∨ (c =
    .responseWriteRejected q ∧ x.state ≠ 2)) :=
  ⟨W id, 3, qp3, .responseWriteRejected 3, by decide +kernel⟩

theorem test_WindowAndDiscovery_0 : ∃ (s : State) (q addr len : Nat) (rkey : Word) (data : Blob) (x : Qp), Live s ∧ qpFind
    s.node q = some x ∧ x.state = 1 ∧ windowBad s.node x addr len rkey = false ∧ windowBad s.node x addr data.len rkey = false ∧
    (police x.cfg.tid s.node).1 = true :=
  ⟨W (fun n => { n with regs := sset 0 n.regs (regAddr .rdma 0 0x128) 77 }), 3, 0xFFFFFC, 4, 77, { len := 4, bits := 9 }, qp3,
    by decide +kernel⟩

theorem test_WindowAndDiscovery_0_past : ∃ (s : State) (q addr len : Nat) (rkey : Word) (data : Blob) (x : Qp), Live s ∧ qpFind
    s.node q = some x ∧ x.state = 1 ∧ windowBad s.node x addr len rkey = true ∧ windowBad s.node x addr data.len rkey = true :=
  ⟨W (fun n => { n with regs := sset 0 n.regs (regAddr .rdma 0 0x128) 77 }), 3, 0xFFFFFC, 8, 77, { len := 8, bits := 9 }, qp3,
    by decide +kernel⟩

theorem test_WindowAndDiscovery_1 : ∃ (s : State) (port : Fin 16) (sender : Blob), Live s ∧ (if s.node.discWin.1 = s.node.tick /
    100000 then s.node.discWin.2 else 0) < rfield s.node .rdma 0 0x100 15 0 :=
  ⟨W id, 1, bempty, by decide +kernel⟩

theorem test_WindowAndDiscovery_2 : ∃ (s : State) (port : Fin 16) (qkey : Word) (payload sender : Blob), Live s ∧ (qkey ≠
    0x574C0001 ∨ payload ≠ { len := 8, bits := 0x05000000 }) :=
  ⟨W id, 1, 0x574C0000, { len := 8, bits := 0x05000000 }, bempty, by decide +kernel⟩

theorem test_WindowAndDiscovery_3 : ∃ (s : State), Live s :=
  ⟨W id, by decide +kernel⟩

theorem test_WindowAndDiscovery_4 : ∃ (s : State), Live s :=
  ⟨W id, by decide +kernel⟩

theorem test_PowerLoops_0 : ∃ (s : State) (a b w : Nat), Live s ∧ capW s.node < a ∧ 0 < s.node.pwr.capLim :=
  ⟨W id, 65535, 0, 0, by decide +kernel⟩

theorem test_PowerLoops_0_gate : ∃ (s : State) (a b w : Nat), Live s ∧ capW s.node < a ∧ s.node.pwr.capLim = 0 :=
  ⟨W (pwrW (fun p => { p with capLim := 0 })), 65535, 0, 0, by decide +kernel⟩

theorem test_PowerLoops_0_raise : ∃ (s : State) (a b w : Nat), Live s ∧ a ≤ capW s.node ∧ b * 100 < 95 * capW s.node ∧ w < capW
    s.node :=
  ⟨W id, 0, 0, 0, by decide +kernel⟩

theorem test_PowerLoops_1 : ∃ (s : State) (h : Nat × Nat), Live s ∧ s.node.pwr.capHeld = some h :=
  ⟨W (pwrW (fun p => { p with capHeld := some (3, 0) })), (3, 0), by decide +kernel⟩

theorem test_PowerLoops_2 : ∃ (s : State), Live s ∧ thmTarget s.node < imax s.node.pwr.sensors ∧ 0 < s.node.pwr.thmLim :=
  ⟨W (pwrW (fun p => { p with sensors := [111] })), by decide +kernel⟩

theorem test_PowerLoops_2_gate : ∃ (s : State), Live s ∧ thmTarget s.node < imax s.node.pwr.sensors ∧ s.node.pwr.thmLim = 0 :=
  ⟨W (pwrW (fun p => { p with sensors := [111], thmLim := 0 })), by decide +kernel⟩

theorem test_PowerLoops_2_cool : ∃ (s : State), Live s ∧ imax s.node.pwr.sensors ≤ thmTarget s.node ∧ imax s.node.pwr.stackTemps
    ≤ stackLimit s.node ∧ s.node.pwr.coolAt = some 0 ∧ 0 + ticksMs 1 ≤ s.node.tick ∧ 0 < s.node.pwr.thmGate :=
  ⟨W (fun n => { pwrW (fun p => { p with sensors := [20], coolAt := some 0, thmGate := 20 }) n with tick := ticksMs 1 }),
    by decide +kernel⟩

theorem test_PowerLoops_3 : ∃ (s : State) (die : Fin 2), Live s :=
  ⟨W id, 1, by decide +kernel⟩

theorem test_AlertsGatesAndEnergy_0 : ∃ (s : State) (i : Fin 8), Live s :=
  ⟨W id, 7, by decide +kernel⟩

theorem test_AlertsGatesAndEnergy_1 : ∃ (s : State), Live s ∧ s.node.pwr.alerts ≠ [] :=
  ⟨W (pwrW (fun p => { p with alerts := [3] })), by decide +kernel⟩

theorem test_AlertsGatesAndEnergy_2 : ∃ (s : State) (w : Nat), Live s ∧ s.node.pwr.holdAt = some w :=
  ⟨W (pwrW (fun p => { p with holdAt := some 0 })), 0, by decide +kernel⟩

theorem test_AlertsGatesAndEnergy_3 : ∃ (s : State) (w : Nat), Live s ∧ s.node.pwr.rampAt = some w :=
  ⟨W (pwrW (fun p => { p with rampAt := some 0, alertLim := 6 })), 0, by decide +kernel⟩

theorem test_AlertsGatesAndEnergy_4 : ∃ (s : State) (die : Fin 2) (det : Fin 256), Live s :=
  ⟨W id, 1, 255, by decide +kernel⟩

theorem test_AlertsGatesAndEnergy_5 : ∃ (s : State), Live s ∧ s.node.pwr.curGate = some 0 :=
  ⟨W (pwrW (fun p => { p with curGate := some 0 })), by decide +kernel⟩

theorem test_AlertsGatesAndEnergy_6 : ∃ (s : State) (die : Fin 2), Live s :=
  ⟨W id, 1, by decide +kernel⟩

theorem test_AlertsGatesAndEnergy_7 : ∃ (s : State), Live s :=
  ⟨W id, by decide +kernel⟩

theorem test_AlertsGatesAndEnergy_8 : ∃ (s : State) (u : CUnit) (below : Bool), Live s ∧ below = true ∧ cuThere u = true ∧ 0 <
    (unitGet s.node (cuPage u)).aged :=
  ⟨W (fun n => { n with units := [(cuPage { type := .gwe, n := 0 }, { unitSt0 with aged := 1 })] }), { type := .gwe, n := 0 },
    true, by decide +kernel⟩

theorem test_AlertsGatesAndEnergy_8_none : ∃ (s : State) (u : CUnit) (below : Bool), Live s :=
  ⟨W id, { type := .gwe, n := 0 }, false, by decide +kernel⟩

theorem test_AlertsGatesAndEnergy_9 : ∃ (s : State) (dynamic : List (Nat × List EnergyShare)) (fixed : Nat), Live s :=
  ⟨W id, [(4, [{ kind := 0, id := 1, qp := some 3, weight := 2 }])], 5, by decide +kernel⟩

theorem test_AlertsGatesAndEnergy_9_idle : ∃ (s : State) (dynamic : List (Nat × List EnergyShare)) (fixed : Nat), Live s ∧
    dynamic = [] :=
  ⟨W id, [], 5, by decide +kernel⟩

theorem test_StopsAndPowerFail_0 : ∃ (s : State) (c : Instr) (ch : Fin 8) (k : Nat), Live s ∧ ((c = .brownOut ∧ k = 1) ∨ (c =
    .refclkLoss ∧ k = 2) ∨ (c = .channelFail ch ∧ k = 4)) :=
  ⟨W id, .brownOut, 0, 1, by decide +kernel⟩

theorem test_StopsAndPowerFail_0_clock : ∃ (s : State) (c : Instr) (ch : Fin 8) (k : Nat), Live s ∧ ((c = .brownOut ∧ k = 1) ∨
    (c = .refclkLoss ∧ k = 2) ∨ (c = .channelFail ch ∧ k = 4)) :=
  ⟨W id, .refclkLoss, 0, 2, by decide +kernel⟩

theorem test_StopsAndPowerFail_0_channel : ∃ (s : State) (c : Instr) (ch : Fin 8) (k : Nat), Live s ∧ ((c = .brownOut ∧ k = 1) ∨
    (c = .refclkLoss ∧ k = 2) ∨ (c = .channelFail ch ∧ k = 4)) :=
  ⟨W id, .channelFail 7, 7, 4, by decide +kernel⟩

theorem test_StopsAndPowerFail_1 : ∃ (s : State) (readings stackTemps : List Int), Live s ∧ readings ≠ [] ∧ imax readings < 112
    :=
  ⟨W id, [111], [], by decide +kernel⟩

theorem test_StopsAndPowerFail_1_overLim : ∃ (s : State) (readings stackTemps : List Int), Live s ∧ readings ≠ [] ∧ 112 ≤ imax
    readings :=
  ⟨W id, [112], [], by decide +kernel⟩

theorem test_StopsAndPowerFail_2 : ∃ (s : State), s.node.pwrfail = false :=
  ⟨W id, by decide +kernel⟩

theorem test_StopsAndPowerFail_3 : ∃ (s : State), s.node.pwrfail = true :=
  ⟨W (fun n => { n with pwrfail := true }), by decide +kernel⟩

theorem test_StopsAndPowerFail_4 : ∃ (s : State) (x : Nat × EvRec) (rest : List (Nat × EvRec)), s.node.mram.staged = x :: rest ∧
    s.node.mram.stopped = false :=
  ⟨W (fun n => { n with mram := { n.mram with staged := [(2, evRec0)] } }), (2, evRec0), [], by decide +kernel⟩

theorem test_StopsAndPowerFail_4_waiting : ∃ (s : State) (x : Nat × EvRec) (rest : List (Nat × EvRec)), s.node.mram.staged = x
    :: rest ∧ s.node.mram.stopped = false ∧ s.node.mram.waiting = [(1, evRec0)] :=
  ⟨W (fun n => { n with mram := { n.mram with staged := [(0, evRec0)], waiting := [(1, evRec0)] } }), (0, evRec0), [],
    by decide +kernel⟩

theorem test_StopsAndPowerFail_5 : ∃ (s : State), (s.node.mram.staged = [] ∨ s.node.mram.stopped = true) :=
  ⟨W id, by decide +kernel⟩

theorem test_ShadowAndQuarantine_0 : ∃ (s : State) (id on : Nat) (w : ShadowWork), Live s ∧ workFind s.node id = some w ∧ w.on =
    none ∧ otherUnit s.node w.page on = true ∧ s.node.tick ≤ w.ended + ticksMs 1 :=
  ⟨W (fun n => { n with shadows := [work1] }), 1, pageOf .gwe 1, work1, by decide +kernel⟩

theorem test_ShadowAndQuarantine_0_same : ∃ (s : State) (id on : Nat) (w : ShadowWork), Live s ∧ workFind s.node id = some w ∧
    w.on = none ∧ otherUnit s.node w.page on = false :=
  ⟨W (fun n => { n with shadows := [work1] }), 1, pageOf .gwe 0, work1, by decide +kernel⟩

theorem test_ShadowAndQuarantine_1 : ∃ (s : State) (id : Nat) (w : ShadowWork), Live s ∧ workFind s.node id = some w ∧ w.on =
    none :=
  ⟨W (fun n => { n with shadows := [work1] }), 1, work1, by decide +kernel⟩

theorem test_ShadowAndQuarantine_2 : ∃ (s : State) (id : Nat) (agree : Bool) (w : ShadowWork), Live s ∧ workFind s.node id =
    some w ∧ w.on.isSome = true ∧ w.differs = false :=
  ⟨W (fun n => { n with shadows := [{ work1 with on := some 3 }] }), 1, false, { work1 with on := some 3 }, by decide +kernel⟩

theorem test_ShadowAndQuarantine_3 : ∃ (s : State) (id third on : Nat) (w : ShadowWork), Live s ∧ workFind s.node id = some w ∧
    w.on = some on ∧ w.differs = true ∧ otherUnit s.node w.page third = true ∧ third ≠ on :=
  ⟨W (fun n => { n with shadows := [work2] }), 1, pageOf .gwe 2, pageOf .gwe 1, work2, by decide +kernel⟩

theorem test_ShadowAndQuarantine_3_third : ∃ (s : State) (id third on : Nat) (w : ShadowWork), Live s ∧ workFind s.node id =
    some w ∧ w.on = some on ∧ w.differs = true ∧ otherUnit s.node w.page third = true ∧ third ≠ on ∧ rfield s.node .recb 0 0x100
    11 8 ≤ (unitGet s.node on).charges.length + 1 :=
  ⟨W (fun n => { n with shadows := [work2], units := [(pageOf .gwe 1, { unitSt0 with charges := [0, 0, 0, 0, 0, 0, 0] })] }), 1,
    pageOf .gwe 2, pageOf .gwe 1, work2, by decide +kernel⟩

theorem test_ShadowAndQuarantine_4 : ∃ (s : State) (u : CUnit) (k : Takeover), Live s ∧ s.node.takeovers.find? (fun x => x.spare
    = some (cuPage u)) = some k :=
  ⟨W (fun n => { n with takeovers := [{ old := 0, spare := some (cuPage { type := .gwe, n := 63 }), quar := true }] }),
    { type := .gwe, n := 63 }, { old := 0, spare := some (cuPage { type := .gwe, n := 63 }), quar := true }, by decide +kernel⟩

theorem test_ShadowAndQuarantine_5 : ∃ (s : State) (u : CUnit), Live s ∧ (unitGet s.node (cuPage u)).leaving = some 4 :=
  ⟨W (fun n => { n with units := [(cuPage { type := .gwe, n := 0 }, { unitSt0 with leaving := some 4 })] }),
    { type := .gwe, n := 0 }, by decide +kernel⟩

theorem test_ShadowAndQuarantine_5_stays : ∃ (s : State) (u : CUnit), Live s ∧ (unitGet s.node (cuPage u)).leaving = none :=
  ⟨W id, { type := .gwe, n := 0 }, by decide +kernel⟩

theorem test_ShadowAndQuarantine_6 : ∃ (s : State), Live s ∧ ∃ p ∈ unitPages, (unitGet s.node p).state = 3 :=
  ⟨W (fun n => { n with units := [(pageOf .gwe 0, { unitSt0 with state := 3 })] }), by decide +kernel⟩

theorem test_ShadowAndQuarantine_7 : ∃ (s : State) (u : CUnit) (r : Nat × Nat), Live s ∧ cuThere u = true ∧ s.node.requal.find?
    (fun r => r.1 = cuPage u) = some r :=
  ⟨W (fun n => { n with requal := [(cuPage { type := .gwe, n := 0 }, 0)] }), { type := .gwe, n := 0 },
    (cuPage { type := .gwe, n := 0 }, 0), by decide +kernel⟩

theorem test_PartFaults_0 : ∃ (s : State) (st : Fin 8), Live s ∧ (stkGet s.node st.val).lost = false :=
  ⟨W id, 7, by decide +kernel⟩

theorem test_PartFaults_1 : ∃ (s : State) (k : Fin 64), Live s :=
  ⟨W id, 63, by decide +kernel⟩

theorem test_PartFaults_2 : ∃ (s : State) (u : UnitId), Live s ∧ (clvGet s.node (u.stack.val * 768 + u.u.val)).off = false :=
  ⟨W id, { stack := 7, u := 767 }, by decide +kernel⟩

theorem test_PartFaults_3 : ∃ (s : State) (e : Fin 72) (cs : List Nat), Live s :=
  ⟨W id, 71, [511], by decide +kernel⟩

theorem test_PartFaults_4 : ∃ (s : State) (prog : Nat) (k : Fin 104) (p : Prog), Live s ∧ progFind s.node prog = some p :=
  ⟨W (fun n => { n with progs := [{ prog0 with state := 1, arrays := [103] }] }), 0, 103,
    { prog0 with state := 1, arrays := [103] }, by decide +kernel⟩

theorem test_PartFaults_5 : ∃ (s : State) (k : Fin 72), Live s :=
  ⟨W id, 71, by decide +kernel⟩

theorem test_PartFaults_6 : ∃ (s : State) (key : ShardKey) (obj : ShardObj) (i d : Nat) (ds : List Nat) (sh : Shard) (g :
    IdxGen), Live s ∧ shardFind s.node key = some sh ∧ genFind s.node key.handle key.gen = some g ∧ obj ≠ .delta ∧ obj ≠
    .codebook ∧ otherHolders s.node key = d :: ds :=
  ⟨W id, k7, .full, 0, 2, [], shard7, gen7, by decide +kernel⟩

theorem test_PartFaults_7 : ∃ (s : State) (key : ShardKey) (i : Nat) (sh : Shard) (g : IdxGen), Live s ∧ shardFind s.node key =
    some sh ∧ genFind s.node key.handle key.gen = some g ∧ otherHolders s.node key = [] :=
  ⟨W (fun n => { n with map := { map5 with shards := [{ role7 with partner := none }] } }), k7, 0, shard7, gen7,
    by decide +kernel⟩

theorem test_PartFaults_8 : ∃ (s : State) (key : ShardKey) (obj : ShardObj) (row : Nat) (tb : TabSt) (r : TableRole), Live s ∧
    shardFind s.node key = none ∧ tabFind s.node key.handle key.gen = some tb ∧ s.node.map.tables.find? (fun r => r.key = key) =
    some r ∧ r.partner = some there2 ∧ there2.node ≠ s.node.nodeId ∧ isFenced s.node there2.node.toNat = false :=
  ⟨W (fun n => { n with map := { map5 with tables := [{ trole8 with partner := some there2 }] } }),
    { handle := 8, gen := 0, shard := 0 }, .code, 0, tab8, { trole8 with partner := some there2 }, by decide +kernel⟩

theorem test_PartFaults_8_alone : ∃ (s : State) (key : ShardKey) (obj : ShardObj) (row : Nat) (tb : TabSt) (r : TableRole), Live
    s ∧ shardFind s.node key = none ∧ tabFind s.node key.handle key.gen = some tb ∧ s.node.map.tables.find? (fun r => r.key =
    key) = some r ∧ r.partner = none :=
  ⟨W id, { handle := 8, gen := 0, shard := 0 }, .code, 0, tab8, trole8, by decide +kernel⟩

theorem test_BoardController_0 : ∃ (s : State) (d : Blob), s.node.boot.inReset = false ∧ d.len = 3 :=
  ⟨up id, mk 3 [(0, 3, 0x7FF000)], by decide +kernel⟩

theorem test_BoardController_0_short : ∃ (s : State) (d : Blob), s.node.boot.inReset = false ∧ d.len < 3 :=
  ⟨up id, mk 2 [], by decide +kernel⟩

theorem test_BoardController_0_write : ∃ (s : State) (d : Blob), s.node.boot.inReset = false ∧ 7 ≤ d.len ∧ d.len ≤ 67 ∧ (d.len -
    3) % 4 = 0 ∧ bnum d 0 3 % 4 = 0 :=
  ⟨up id, mk 67 [(0, 3, 0x000100)], by decide +kernel⟩

theorem test_BoardController_0_uneven : ∃ (s : State) (d : Blob), s.node.boot.inReset = false ∧ 3 < d.len ∧ (d.len - 3) % 4 ≠ 0
    :=
  ⟨up id, mk 8 [], by decide +kernel⟩

theorem test_BoardController_1 : ∃ (n : Node) (addr : Nat) (v : Word), i3cReach n addr = false :=
  ⟨State.reset.node, 0x100000, 5, by decide +kernel⟩

theorem test_BoardController_2 : ∃ (s : State) (d : Blob) (v : Word), s.node.boot.inReset = false ∧ s.node.topState ≠ 0 ∧
    s.node.topState ≠ 4 ∧ s.node.pwrfail = false ∧ d.len = 7 ∧ 0x7FF000 ≤ bnum d 0 3 ∧ bnum d 0 3 < 0x800000 ∧ bnum d 0 3 % 4 =
    0 ∧ v = w32 (bnum d 3 4) :=
  ⟨up id, mk 7 [(0, 3, 0x7FF004), (3, 4, 77)], 77, by decide +kernel⟩

theorem test_BoardController_3 : ∃ (s : State) (len : Nat), s.node.boot.inReset = false ∧ s.node.i3c.reg % 4 = 0 ∧ 4 ≤ len ∧ len
    ≤ 64 ∧ len % 4 = 0 :=
  ⟨up id, 64, by decide +kernel⟩

theorem test_BoardController_3_long : ∃ (s : State) (len : Nat), s.node.boot.inReset = false ∧ 64 < len :=
  ⟨up id, 68, by decide +kernel⟩

theorem test_BoardController_4 : ∃ (s : State) (a : BitVec 7), s.node.boot.inReset = false :=
  ⟨up id, 9, by decide +kernel⟩

theorem test_BoardController_5 : ∃ (s : State), s.node.boot.inReset = false ∧ ibiCond s.node = false :=
  ⟨up id, by decide +kernel⟩

theorem test_BoardController_6 : ∃ (s : State) (d : Blob) (len : Nat) (a : BitVec 7) (c : Instr), s.node.boot.inReset = true ∧
    (c = .i3cPrivateWrite d ∨ c = .i3cPrivateRead len ∨ c = .entdaa a ∨ c = .ibiRepeat) :=
  ⟨W (fun n => { n with boot := { n.boot with inReset := true } }), bempty, 4, 9, .entdaa 9, by decide +kernel⟩

theorem test_MgmtRegistersAndQueuePairs_0 : ∃ (s : State) (q : Nat) (d b : Blob) (x : Qp), MgmtReady s q d x (opRegRead d) ∧ b =
    wordsBlob (readRun (.qp q) (mAddr d) (mArg32 d / 4) (mgmtEntered s q d x (opRegRead d))).1 :=
  ⟨W id, 3, gd 0x57 8 [(0x28, 8, 0x100), (0x3C, 4, 8)] bempty, _, qp3,
    (MgmtReady.of (Admitted.of (Received.of (by decide +kernel)) (by decide +kernel)) (by decide +kernel)), rfl⟩

theorem test_MgmtRegistersAndQueuePairs_1 : ∃ (s : State) (q : Nat) (d : Blob) (x : Qp), MgmtReady s q d x (opRegWrite d) :=
  ⟨W id, 3, gd 0x58 0 [(0x28, 8, 0x100)] { len := 8, bits := 1 }, qp3,
    (MgmtReady.of (Admitted.of (Received.of (by decide +kernel)) (by decide +kernel)) (by decide +kernel))⟩

theorem test_MgmtRegistersAndQueuePairs_2 : ∃ (s : State) (q : Nat) (d : Blob) (x : Qp), MgmtReady s q d x (opTenantWrite d) ∧
    tenantBad (mPayload s.node d) = none :=
  ⟨W id, 3, gd 0x30 0 [] tenPay, qp3,
    (MgmtReady.of (Admitted.of (Received.of (by decide +kernel)) (by decide +kernel)) (by decide +kernel)), by decide +kernel⟩

theorem test_MgmtRegistersAndQueuePairs_2_bad : ∃ (s : State) (q : Nat) (d : Blob) (x : Qp), MgmtReady s q d x (opTenantWrite d)
    ∧ tenantBad (mPayload s.node d) = some 4 :=
  ⟨W id, 3, gd 0x30 0 [] (mk 32 []), qp3,
    (MgmtReady.of (Admitted.of (Received.of (by decide +kernel)) (by decide +kernel)) (by decide +kernel)), by decide +kernel⟩

theorem test_MgmtRegistersAndQueuePairs_3 : ∃ (s : State) (q : Nat) (d : Blob) (x : Qp), MgmtReady s q d x (opQpCreate d) ∧ (∀ y
    ∈ s.node.qps, y.num ≠ s.node.nextQp) ∧ qpBad s.node (mPayload s.node d) 0 = none :=
  ⟨W id, 3, gd 0x31 0 [] qpPay, qp3,
    (MgmtReady.of (Admitted.of (Received.of (by decide +kernel)) (by decide +kernel)) (by decide +kernel)), by decide +kernel⟩

theorem test_MgmtRegistersAndQueuePairs_3_bad : ∃ (s : State) (q : Nat) (d : Blob) (x : Qp), MgmtReady s q d x (opQpCreate d) ∧
    (∀ y ∈ s.node.qps, y.num ≠ s.node.nextQp) ∧ qpBad s.node (mPayload s.node d) 0 = some 0 :=
  ⟨W id, 3, gd 0x31 0 [] (mk 64 []), qp3,
    (MgmtReady.of (Admitted.of (Received.of (by decide +kernel)) (by decide +kernel)) (by decide +kernel)), by decide +kernel⟩

theorem test_MgmtRegistersAndQueuePairs_4 : ∃ (s : State) (q : Nat) (d : Blob) (x : Qp), MgmtReady s q d x (opQpDestroy q d) ∧
    qpFind s.node (mTarget d) = some { qp3 with num := 4 } :=
  ⟨W (fun n => { n with qps := [qp3, { qp3 with num := 4 }] }), 3, gd 0x32 0 [(8, 4, 4)] bempty, qp3,
    (MgmtReady.of (Admitted.of (Received.of (by decide +kernel)) (by decide +kernel)) (by decide +kernel)), by decide +kernel⟩

theorem test_MgmtRegistersAndQueuePairs_4_none : ∃ (s : State) (q : Nat) (d : Blob) (x : Qp), MgmtReady s q d x (opQpDestroy q
    d) ∧ qpFind s.node (mTarget d) = none :=
  ⟨W id, 3, gd 0x32 0 [(8, 4, 4)] bempty, qp3,
    (MgmtReady.of (Admitted.of (Received.of (by decide +kernel)) (by decide +kernel)) (by decide +kernel)), by decide +kernel⟩

theorem test_MgmtRegistersAndQueuePairs_5 : ∃ (s : State) (q : Nat) (x : Qp), Live s ∧ qpFind s.node q = some x ∧ x.state = 3 ∧
    (∀ r ∈ s.node.reqs, r.qp ≠ q) :=
  ⟨W (fun n => { n with qps := [{ qp3 with state := 3 }] }), 3, { qp3 with state := 3 }, by decide +kernel⟩

theorem test_MgmtRegistersAndQueuePairs_6 : ∃ (s : State) (q : Nat) (d : Blob) (x : Qp), Received s q d x ∧ 64 ≤ bword d 0x24 ∧
    mgmtBad x { mop (bnum d 6 2) with flags := 0xFFFF } d (policed s x) ≠ some 0 :=
  ⟨W id, 3, gd 0x7F 0 [] bempty, qp3, (Received.of (by decide +kernel)), by decide +kernel⟩

theorem test_MgmtRegistersAndQueuePairs_7 : ∃ (s : State) (op : Nat) (c : ChunkOp), Live s ∧ s.node.chunkOps.find? (fun c =>
    c.id = op) = some c :=
  ⟨W (fun n => { n with chunkOps := [{ chunkOp0 with id := 5 }] }), 5, { chunkOp0 with id := 5 }, by decide +kernel⟩

theorem test_MgmtReads_0 : ∃ (s : State) (q : Nat) (d : Blob) (x : Qp), MgmtReady s q d x (opMemRead d) ∧ segFind s.node
    (mTarget d) (mAddr d) (mArg32 d) = some (0, true) ∧ mArg32 d ≠ 0 ∧ dmaFree s.node = 0 :: (List.range 64).tail :=
  ⟨W (segW true), 3, gd 0x33 4096 [(0x3C, 4, 4096)] bempty, qp3,
    (MgmtReady.of (Admitted.of (Received.of (by decide +kernel)) (by decide +kernel)) (by decide +kernel)), by decide +kernel⟩

theorem test_MgmtReads_0_none : ∃ (s : State) (q : Nat) (d : Blob) (x : Qp), MgmtReady s q d x (opMemRead d) ∧ segFind s.node
    (mTarget d) (mAddr d) (mArg32 d) = none :=
  ⟨W id, 3, gd 0x33 4096 [(0x3C, 4, 4096)] bempty, qp3,
    (MgmtReady.of (Admitted.of (Received.of (by decide +kernel)) (by decide +kernel)) (by decide +kernel)), by decide +kernel⟩

theorem test_MgmtReads_1 : ∃ (s : State) (q : Nat) (d : Blob) (x : Qp), MgmtReady s q d x (opMemWrite d) ∧ segFind s.node
    (mTarget d) (mAddr d) (mPayload s.node d).len = some (0, true) ∧ (mPayload s.node d).len ≠ 0 :=
  ⟨W (segW true), 3, gd 0x34 0 [] { len := 8, bits := 1 }, qp3,
    (MgmtReady.of (Admitted.of (Received.of (by decide +kernel)) (by decide +kernel)) (by decide +kernel)), by decide +kernel⟩

theorem test_MgmtReads_1_reading : ∃ (s : State) (q : Nat) (d : Blob) (x : Qp), MgmtReady s q d x (opMemWrite d) ∧ segFind
    s.node (mTarget d) (mAddr d) (mPayload s.node d).len = some (0, false) :=
  ⟨W (segW false), 3, gd 0x34 0 [] { len := 8, bits := 1 }, qp3,
    (MgmtReady.of (Admitted.of (Received.of (by decide +kernel)) (by decide +kernel)) (by decide +kernel)), by decide +kernel⟩

theorem test_MgmtReads_2 : ∃ (s : State) (q : Nat) (d : Blob) (x : Qp), MgmtReady s q d x (opFlashDiscard d) ∧ segFind s.node
    (mTarget d) (mAddr d) (mArg32 d) = some (0, true) :=
  ⟨W (segW true), 3, gd 0x35 0 [(0x3C, 4, 4096)] bempty, qp3,
    (MgmtReady.of (Admitted.of (Received.of (by decide +kernel)) (by decide +kernel)) (by decide +kernel)), by decide +kernel⟩

theorem test_MgmtReads_2_none : ∃ (s : State) (q : Nat) (d : Blob) (x : Qp), MgmtReady s q d x (opFlashDiscard d) ∧ segFind
    s.node (mTarget d) (mAddr d) (mArg32 d) = none :=
  ⟨W id, 3, gd 0x35 0 [(0x3C, 4, 4096)] bempty, qp3,
    (MgmtReady.of (Admitted.of (Received.of (by decide +kernel)) (by decide +kernel)) (by decide +kernel)), by decide +kernel⟩

theorem test_MgmtReads_3 : ∃ (s : State) (q : Nat) (d : Blob) (x : Qp) (c : Instr) (o : MgmtOp) (result : Nat) (b : Blob),
    MgmtReady s q d x o ∧ ((c = .mapRead q d ∧ o = opMapRead d ∧ result = s.node.map.epoch ∧ b = partOf (mapBytes s.node.map)
    (mAddr d) (mArg32 d)) ∨ (c = .calRead q d ∧ o = opCalRead d ∧ result = 0 ∧ b = partOf s.node.calFlash (mAddr d) (mArg32 d))
    ∨ (c = .mramRead q d ∧ o = opMramRead d ∧ result = 0 ∧ b = partOf (mramBytes s.node (mArg16 d)) (mAddr d) (mArg32 d)) ∨ (c =
    .contextDump q d ∧ o = opContextDump d ∧ result = 0 ∧ b = (ctxImage (mArg16 d) (mArg32 d) (mgmtEntered s q d x o)).1) ∨ (c =
    .attest q d ∧ o = opAttest d ∧ result = 0 ∧ b = attBlob s.node (mPayload s.node d).bits) ∨ (∃ r, c = .healthRead q d ∧ o =
    opHealthRead ∧ result = 0 ∧ s.node.ftl.roots.getLast? = some r ∧ b = r.health.foldl (fun b e => bpatch b e.1 (bofNat
    (healthWidth e.1) e.2)) { len := 256, bits := 0 })) :=
  ⟨W id, 3, gd 0x41 64 [(0x3C, 4, 64)] bempty, qp3, .mapRead 3 (gd 0x41 64 [(0x3C, 4, 64)] bempty),
    opMapRead (gd 0x41 64 [(0x3C, 4, 64)] bempty), 5, _,
    (MgmtReady.of (Admitted.of (Received.of (by decide +kernel)) (by decide +kernel)) (by decide +kernel)),
    .inl ⟨rfl, rfl, rfl, rfl⟩⟩

theorem test_MgmtReads_3_cal : ∃ (s : State) (q : Nat) (d : Blob) (x : Qp) (c : Instr) (o : MgmtOp) (result : Nat) (b : Blob),
    MgmtReady s q d x o ∧ ((c = .mapRead q d ∧ o = opMapRead d ∧ result = s.node.map.epoch ∧ b = partOf (mapBytes s.node.map)
    (mAddr d) (mArg32 d)) ∨ (c = .calRead q d ∧ o = opCalRead d ∧ result = 0 ∧ b = partOf s.node.calFlash (mAddr d) (mArg32 d))
    ∨ (c = .mramRead q d ∧ o = opMramRead d ∧ result = 0 ∧ b = partOf (mramBytes s.node (mArg16 d)) (mAddr d) (mArg32 d)) ∨ (c =
    .contextDump q d ∧ o = opContextDump d ∧ result = 0 ∧ b = (ctxImage (mArg16 d) (mArg32 d) (mgmtEntered s q d x o)).1) ∨ (c =
    .attest q d ∧ o = opAttest d ∧ result = 0 ∧ b = attBlob s.node (mPayload s.node d).bits) ∨ (∃ r, c = .healthRead q d ∧ o =
    opHealthRead ∧ result = 0 ∧ s.node.ftl.roots.getLast? = some r ∧ b = r.health.foldl (fun b e => bpatch b e.1 (bofNat
    (healthWidth e.1) e.2)) { len := 256, bits := 0 })) :=
  ⟨W id, 3, gd 0x52 64 [(0x3C, 4, 64)] bempty, qp3, .calRead 3 (gd 0x52 64 [(0x3C, 4, 64)] bempty),
    opCalRead (gd 0x52 64 [(0x3C, 4, 64)] bempty), 0, _,
    (MgmtReady.of (Admitted.of (Received.of (by decide +kernel)) (by decide +kernel)) (by decide +kernel)),
    .inr (.inl ⟨rfl, rfl, rfl, rfl⟩)⟩

theorem test_MgmtReads_3_mram : ∃ (s : State) (q : Nat) (d : Blob) (x : Qp) (c : Instr) (o : MgmtOp) (result : Nat) (b : Blob),
    MgmtReady s q d x o ∧ ((c = .mapRead q d ∧ o = opMapRead d ∧ result = s.node.map.epoch ∧ b = partOf (mapBytes s.node.map)
    (mAddr d) (mArg32 d)) ∨ (c = .calRead q d ∧ o = opCalRead d ∧ result = 0 ∧ b = partOf s.node.calFlash (mAddr d) (mArg32 d))
    ∨ (c = .mramRead q d ∧ o = opMramRead d ∧ result = 0 ∧ b = partOf (mramBytes s.node (mArg16 d)) (mAddr d) (mArg32 d)) ∨ (c =
    .contextDump q d ∧ o = opContextDump d ∧ result = 0 ∧ b = (ctxImage (mArg16 d) (mArg32 d) (mgmtEntered s q d x o)).1) ∨ (c =
    .attest q d ∧ o = opAttest d ∧ result = 0 ∧ b = attBlob s.node (mPayload s.node d).bits) ∨ (∃ r, c = .healthRead q d ∧ o =
    opHealthRead ∧ result = 0 ∧ s.node.ftl.roots.getLast? = some r ∧ b = r.health.foldl (fun b e => bpatch b e.1 (bofNat
    (healthWidth e.1) e.2)) { len := 256, bits := 0 })) :=
  ⟨W id, 3, gd 0x55 64 [(12, 2, 2), (0x3C, 4, 64)] bempty, qp3, .mramRead 3 (gd 0x55 64 [(12, 2, 2), (0x3C, 4, 64)] bempty),
    opMramRead (gd 0x55 64 [(12, 2, 2), (0x3C, 4, 64)] bempty), 0, _,
    (MgmtReady.of (Admitted.of (Received.of (by decide +kernel)) (by decide +kernel)) (by decide +kernel)),
    .inr (.inr (.inl ⟨rfl, rfl, rfl, rfl⟩))⟩

theorem test_MgmtReads_3_context : ∃ (s : State) (q : Nat) (d : Blob) (x : Qp) (c : Instr) (o : MgmtOp) (result : Nat) (b :
    Blob), MgmtReady s q d x o ∧ ((c = .mapRead q d ∧ o = opMapRead d ∧ result = s.node.map.epoch ∧ b = partOf (mapBytes
    s.node.map) (mAddr d) (mArg32 d)) ∨ (c = .calRead q d ∧ o = opCalRead d ∧ result = 0 ∧ b = partOf s.node.calFlash (mAddr d)
    (mArg32 d)) ∨ (c = .mramRead q d ∧ o = opMramRead d ∧ result = 0 ∧ b = partOf (mramBytes s.node (mArg16 d)) (mAddr d)
    (mArg32 d)) ∨ (c = .contextDump q d ∧ o = opContextDump d ∧ result = 0 ∧ b = (ctxImage (mArg16 d) (mArg32 d) (mgmtEntered s
    q d x o)).1) ∨ (c = .attest q d ∧ o = opAttest d ∧ result = 0 ∧ b = attBlob s.node (mPayload s.node d).bits) ∨ (∃ r, c =
    .healthRead q d ∧ o = opHealthRead ∧ result = 0 ∧ s.node.ftl.roots.getLast? = some r ∧ b = r.health.foldl (fun b e => bpatch
    b e.1 (bofNat (healthWidth e.1) e.2)) { len := 256, bits := 0 })) :=
  ⟨W id, 3, gd 0x56 10240 [(12, 2, 71), (0x3C, 4, 511)] bempty, qp3,
    .contextDump 3 (gd 0x56 10240 [(12, 2, 71), (0x3C, 4, 511)] bempty),
    opContextDump (gd 0x56 10240 [(12, 2, 71), (0x3C, 4, 511)] bempty), 0, _,
    (MgmtReady.of (Admitted.of (Received.of (by decide +kernel)) (by decide +kernel)) (by decide +kernel)),
    .inr (.inr (.inr (.inl ⟨rfl, rfl, rfl, rfl⟩)))⟩

theorem test_MgmtReads_3_attest : ∃ (s : State) (q : Nat) (d : Blob) (x : Qp) (c : Instr) (o : MgmtOp) (result : Nat) (b :
    Blob), MgmtReady s q d x o ∧ ((c = .mapRead q d ∧ o = opMapRead d ∧ result = s.node.map.epoch ∧ b = partOf (mapBytes
    s.node.map) (mAddr d) (mArg32 d)) ∨ (c = .calRead q d ∧ o = opCalRead d ∧ result = 0 ∧ b = partOf s.node.calFlash (mAddr d)
    (mArg32 d)) ∨ (c = .mramRead q d ∧ o = opMramRead d ∧ result = 0 ∧ b = partOf (mramBytes s.node (mArg16 d)) (mAddr d)
    (mArg32 d)) ∨ (c = .contextDump q d ∧ o = opContextDump d ∧ result = 0 ∧ b = (ctxImage (mArg16 d) (mArg32 d) (mgmtEntered s
    q d x o)).1) ∨ (c = .attest q d ∧ o = opAttest d ∧ result = 0 ∧ b = attBlob s.node (mPayload s.node d).bits) ∨ (∃ r, c =
    .healthRead q d ∧ o = opHealthRead ∧ result = 0 ∧ s.node.ftl.roots.getLast? = some r ∧ b = r.health.foldl (fun b e => bpatch
    b e.1 (bofNat (healthWidth e.1) e.2)) { len := 256, bits := 0 })) :=
  ⟨W id, 3, gd 0x50 10936 [] (mk 32 []), qp3, .attest 3 (gd 0x50 10936 [] (mk 32 [])), opAttest (gd 0x50 10936 [] (mk 32 [])), 0,
    _, (MgmtReady.of (Admitted.of (Received.of (by decide +kernel)) (by decide +kernel)) (by decide +kernel)),
    .inr (.inr (.inr (.inr (.inl ⟨rfl, rfl, rfl, rfl⟩))))⟩

theorem test_MgmtReads_3_health : ∃ (s : State) (q : Nat) (d : Blob) (x : Qp) (c : Instr) (o : MgmtOp) (result : Nat) (b :
    Blob), MgmtReady s q d x o ∧ ((c = .mapRead q d ∧ o = opMapRead d ∧ result = s.node.map.epoch ∧ b = partOf (mapBytes
    s.node.map) (mAddr d) (mArg32 d)) ∨ (c = .calRead q d ∧ o = opCalRead d ∧ result = 0 ∧ b = partOf s.node.calFlash (mAddr d)
    (mArg32 d)) ∨ (c = .mramRead q d ∧ o = opMramRead d ∧ result = 0 ∧ b = partOf (mramBytes s.node (mArg16 d)) (mAddr d)
    (mArg32 d)) ∨ (c = .contextDump q d ∧ o = opContextDump d ∧ result = 0 ∧ b = (ctxImage (mArg16 d) (mArg32 d) (mgmtEntered s
    q d x o)).1) ∨ (c = .attest q d ∧ o = opAttest d ∧ result = 0 ∧ b = attBlob s.node (mPayload s.node d).bits) ∨ (∃ r, c =
    .healthRead q d ∧ o = opHealthRead ∧ result = 0 ∧ s.node.ftl.roots.getLast? = some r ∧ b = r.health.foldl (fun b e => bpatch
    b e.1 (bofNat (healthWidth e.1) e.2)) { len := 256, bits := 0 })) :=
  ⟨W (ftlW (fun f => { f with roots := [root0] })), 3, gd 0x54 256 [] bempty, qp3, .healthRead 3 (gd 0x54 256 [] bempty),
    opHealthRead, 0, _, (MgmtReady.of (Admitted.of (Received.of (by decide +kernel)) (by decide +kernel)) (by decide +kernel)),
    .inr (.inr (.inr (.inr (.inr ⟨root0, rfl, rfl, rfl, rfl, rfl⟩))))⟩

theorem test_MgmtReads_4 : ∃ (s : State) (q : Nat) (d : Blob) (x : Qp), MgmtReady s q d x opHealthRead ∧ s.node.ftl.roots = []
    :=
  ⟨W id, 3, gd 0x54 256 [] bempty, qp3,
    (MgmtReady.of (Admitted.of (Received.of (by decide +kernel)) (by decide +kernel)) (by decide +kernel)), by decide +kernel⟩

theorem test_MgmtConfiguration_0 : ∃ (s : State) (q : Nat) (d : Blob) (x : Qp), MgmtReady s q d x (opCablingWrite d) ∧ cablesBad
    (mPayload s.node d) ((mPayload s.node d).len / 56) 0 none [] = none :=
  ⟨W id, 3, gd 0x40 0 [] bempty, qp3,
    (MgmtReady.of (Admitted.of (Received.of (by decide +kernel)) (by decide +kernel)) (by decide +kernel)), by decide +kernel⟩

theorem test_MgmtConfiguration_1 : ∃ (s : State) (q : Nat) (d : Blob) (x : Qp) (c : Instr) (o : MgmtOp), MgmtReady s q d x o ∧
    ((c = .imageWrite q d ∧ o = opImageWrite) ∨ (c = .calWrite q d ∧ o = opCalWrite)) ∧ mAddr d = 0 ∧ mFinal d = false :=
  ⟨W id, 3, gd 0x51 0 [] bempty, qp3, .imageWrite 3 (gd 0x51 0 [] bempty), opImageWrite,
    (MgmtReady.of (Admitted.of (Received.of (by decide +kernel)) (by decide +kernel)) (by decide +kernel)), .inl ⟨rfl, rfl⟩,
    by decide +kernel⟩

theorem test_MgmtConfiguration_1_order : ∃ (s : State) (q : Nat) (d : Blob) (x : Qp) (c : Instr) (o : MgmtOp), MgmtReady s q d x
    o ∧ ((c = .imageWrite q d ∧ o = opImageWrite) ∨ (c = .calWrite q d ∧ o = opCalWrite)) ∧ mAddr d ≠ 0 ∧ chunkFind s.node (q *
    65536 + bnum d 6 2) = none :=
  ⟨W id, 3, gd 0x53 0 [(0x28, 8, 64)] bempty, qp3, .calWrite 3 (gd 0x53 0 [(0x28, 8, 64)] bempty), opCalWrite,
    (MgmtReady.of (Admitted.of (Received.of (by decide +kernel)) (by decide +kernel)) (by decide +kernel)), .inr ⟨rfl, rfl⟩,
    by decide +kernel⟩

theorem test_MgmtConfiguration_2 : ∃ (s : State) (q : Nat) (d : Blob) (x : Qp), MgmtReady s q d x opImageWrite ∧ mAddr d = 0 ∧
    mFinal d = true :=
  ⟨W id, 3, gd 0x51 0 [(4, 2, 1)] bempty, qp3,
    (MgmtReady.of (Admitted.of (Received.of (by decide +kernel)) (by decide +kernel)) (by decide +kernel)), by decide +kernel⟩

theorem test_MgmtConfiguration_3 : ∃ (s : State) (q : Nat) (d : Blob) (x : Qp), MgmtReady s q d x opCalWrite ∧ mAddr d = 0 ∧
    mFinal d = true :=
  ⟨W id, 3, gd 0x53 0 [(4, 2, 1)] bempty, qp3,
    (MgmtReady.of (Admitted.of (Received.of (by decide +kernel)) (by decide +kernel)) (by decide +kernel)), by decide +kernel⟩

theorem test_MgmtConfiguration_4 : ∃ (s : State) (q : Nat) (d : Blob) (x : Qp) (l : List (BitVec 12 × Nat)), MgmtReady s q d x
    (opCouncilSet d) ∧ l = (List.range ((mPayload s.node d).len / 2)).map (fun i => (BitVec.ofNat 12 (bnum (mPayload s.node d)
    (2 * i) 2), bnum (mPayload s.node d) (2 * i) 2)) ∧ councilBad s.node l = none ∧ s.node.map.epoch < 0xFFFFFFFE :=
  ⟨W id, 3, gd 0x42 0 [] { len := 2, bits := 2 }, qp3, [(2, 2)],
    (MgmtReady.of (Admitted.of (Received.of (by decide +kernel)) (by decide +kernel)) (by decide +kernel)), by decide +kernel⟩

theorem test_MgmtConfiguration_4_bad : ∃ (s : State) (q : Nat) (d : Blob) (x : Qp) (l : List (BitVec 12 × Nat)), MgmtReady s q d
    x (opCouncilSet d) ∧ l = (List.range ((mPayload s.node d).len / 2)).map (fun i => (BitVec.ofNat 12 (bnum (mPayload s.node d)
    (2 * i) 2), bnum (mPayload s.node d) (2 * i) 2)) ∧ councilBad s.node l = some 0 :=
  ⟨W id, 3, gd 0x42 0 [] { len := 2, bits := 3 }, qp3, [(3, 3)],
    (MgmtReady.of (Admitted.of (Received.of (by decide +kernel)) (by decide +kernel)) (by decide +kernel)), by decide +kernel⟩

theorem test_MgmtConfiguration_5 : ∃ (s : State) (q : Nat) (d : Blob) (x : Qp), MgmtReady s q d x (opNodeRetire d) ∧ memberFind
    s.node.map (mTarget d) = some member2 ∧ s.node.map.epoch < 0xFFFFFFFE :=
  ⟨W id, 3, gd 0x43 0 [(8, 4, 2)] bempty, qp3,
    (MgmtReady.of (Admitted.of (Received.of (by decide +kernel)) (by decide +kernel)) (by decide +kernel)), by decide +kernel⟩

theorem test_MgmtConfiguration_5_none : ∃ (s : State) (q : Nat) (d : Blob) (x : Qp), MgmtReady s q d x (opNodeRetire d) ∧
    memberFind s.node.map (mTarget d) = none :=
  ⟨W id, 3, gd 0x43 0 [(8, 4, 4095)] bempty, qp3,
    (MgmtReady.of (Admitted.of (Received.of (by decide +kernel)) (by decide +kernel)) (by decide +kernel)), by decide +kernel⟩

theorem test_MgmtConfiguration_6 : ∃ (s : State) (q : Nat) (d : Blob) (x : Qp) (idle : Bool), MgmtReady s q d x
    opCompositionReform ∧ s.node.map.epoch = 0xFFFFFFFE ∧ idle = true ∧ s.node.reqs = [] :=
  ⟨W (fun n => { n with map := { map5 with epoch := 0xFFFFFFFE } }), 3, gd 0x44 0 [] bempty, qp3, true,
    (MgmtReady.of (Admitted.of (Received.of (by decide +kernel)) (by decide +kernel)) (by decide +kernel)), by decide +kernel⟩

theorem test_MgmtConfiguration_6_early : ∃ (s : State) (q : Nat) (d : Blob) (x : Qp) (idle : Bool), MgmtReady s q d x
    opCompositionReform ∧ s.node.map.epoch ≠ 0xFFFFFFFE :=
  ⟨W id, 3, gd 0x44 0 [] bempty, qp3, true,
    (MgmtReady.of (Admitted.of (Received.of (by decide +kernel)) (by decide +kernel)) (by decide +kernel)), by decide +kernel⟩

theorem test_MgmtConfiguration_7 : ∃ (s : State) (q : Nat) (d : Blob) (x : Qp), MgmtReady s q d x (opObjectFree d) ∧ (currentGen
    s.node.map (mTarget d)).isSome = true ∧ s.node.map.epoch < 0xFFFFFFFE :=
  ⟨W id, 3, gd 6 0 [(8, 4, 7)] bempty, qp3,
    (MgmtReady.of (Admitted.of (Received.of (by decide +kernel)) (by decide +kernel)) (by decide +kernel)), by decide +kernel⟩

theorem test_MgmtConfiguration_7_none : ∃ (s : State) (q : Nat) (d : Blob) (x : Qp), MgmtReady s q d x (opObjectFree d) ∧
    currentGen s.node.map (mTarget d) = none :=
  ⟨W id, 3, gd 6 0 [(8, 4, 10)] bempty, qp3,
    (MgmtReady.of (Admitted.of (Received.of (by decide +kernel)) (by decide +kernel)) (by decide +kernel)), by decide +kernel⟩

theorem test_MgmtConfiguration_8 : ∃ (s : State) (q : Nat) (d : Blob) (x : Qp), MgmtReady s q d x (opTableActivate d) ∧
    tabTarget s.node d = .inr { tab8 with gen := 1 } ∧ genDue s.node 8 1 = true :=
  ⟨W (fun n => { n with tabs := [{ tab8 with gen := 1 }] }), 3, gd 0x12 0 [(8, 4, 8), (14, 2, 1)] bempty, qp3,
    (MgmtReady.of (Admitted.of (Received.of (by decide +kernel)) (by decide +kernel)) (by decide +kernel)), by decide +kernel⟩

theorem test_MgmtConfiguration_8_none : ∃ (s : State) (q : Nat) (d : Blob) (x : Qp), MgmtReady s q d x (opTableActivate d) ∧
    tabTarget s.node d = .inl 8 :=
  ⟨W id, 3, gd 0x12 0 [(8, 4, 9), (14, 2, 1)] bempty, qp3,
    (MgmtReady.of (Admitted.of (Received.of (by decide +kernel)) (by decide +kernel)) (by decide +kernel)), by decide +kernel⟩

theorem test_MgmtObjects_0 : ∃ (s : State) (q : Nat) (d p : Blob) (x : Qp) (g : IdxGen), MgmtReady s q d x (opIndexCreate s.node
    d) ∧ p = mPayload s.node d ∧ g =
    { handle := bword p 0, gen := bnum p 6 2, desc := bslice p 0 64, owner := mTarget d, codebook := if bword p 0x1C = 0 then none else some (bslice p (bword p 0x20) (bword p 0x1C)) }
    ∧ idxBad s.node p = none ∧ genHeld s.node 10 0 = false :=
  ⟨W id, 3, gd 1 0 [] idxPay, idxPay, qp3, _,
    (MgmtReady.of (Admitted.of (Received.of (by decide +kernel)) (by decide +kernel)) (by decide +kernel)), by decide +kernel,
    rfl, by decide +kernel⟩

theorem test_MgmtObjects_0_bad : ∃ (s : State) (q : Nat) (d p : Blob) (x : Qp) (g : IdxGen), MgmtReady s q d x (opIndexCreate
    s.node d) ∧ p = mPayload s.node d ∧ g =
    { handle := bword p 0, gen := bnum p 6 2, desc := bslice p 0 64, owner := mTarget d, codebook := if bword p 0x1C = 0 then none else some (bslice p (bword p 0x20) (bword p 0x1C)) }
    ∧ idxBad s.node p = some 0 :=
  ⟨W id, 3, gd 1 0 [] (mk 64 []), mk 64 [], qp3, _,
    (MgmtReady.of (Admitted.of (Received.of (by decide +kernel)) (by decide +kernel)) (by decide +kernel)), by decide +kernel,
    rfl, by decide +kernel⟩

theorem test_MgmtObjects_1 : ∃ (s : State) (q : Nat) (d p : Blob) (x : Qp), MgmtReady s q d x (opCodebookLoad d) ∧ p = mPayload
    s.node d ∧ idxTarget s.node d = .inr { gen7 with codebook := none } ∧ p.len = gM gen7 * 64 * gWidth gen7 ∧ bookBad p (gDim
    gen7) (gM gen7) (gWidth gen7) = none ∧ s.node.map.epoch < 0xFFFFFFFE :=
  ⟨W (fun n => { n with gens := [{ gen7 with codebook := none }] }), 3, gd 2 0 [(8, 4, 7)] (mk 1024 []), mk 1024 [], qp3,
    (MgmtReady.of (Admitted.of (Received.of (by decide +kernel)) (by decide +kernel)) (by decide +kernel)), by decide +kernel⟩

theorem test_MgmtObjects_1_none : ∃ (s : State) (q : Nat) (d p : Blob) (x : Qp), MgmtReady s q d x (opCodebookLoad d) ∧ p =
    mPayload s.node d ∧ idxTarget s.node d = .inl 8 :=
  ⟨W id, 3, gd 2 0 [(8, 4, 10)] (mk 1024 []), mk 1024 [], qp3,
    (MgmtReady.of (Admitted.of (Received.of (by decide +kernel)) (by decide +kernel)) (by decide +kernel)), by decide +kernel⟩

theorem test_MgmtObjects_2 : ∃ (s : State) (q : Nat) (d p : Blob) (x : Qp) (g : IdxGen), MgmtReady s q d x (opCodebookTrain d) ∧
    p = mPayload s.node d ∧ idxTarget s.node d = .inr g ∧ g.codebook = none ∧ mFinal d = false ∧ p.len = mArg32 d * gDim g * 4 ∧
    elemsBad p 0 0 0 (mArg32 d * gDim g) = none ∧ (∀ y ∈ s.node.progs, y.id ≠ s.node.nextProg) :=
  ⟨W (fun n => { n with gens := [{ gen7 with codebook := none }], qps := [qp14] }), 3,
    gd 3 0 [(8, 4, 7), (12, 2, 1), (0x3C, 4, 256)] (mk 8192 []), mk 8192 [], qp14, { gen7 with codebook := none },
    (MgmtReady.of (Admitted.of (Received.of (by decide +kernel)) (by decide +kernel)) (by decide +kernel)), by decide +kernel⟩

theorem test_MgmtObjects_3 : ∃ (s : State) (q : Nat) (d : Blob) (x : Qp), MgmtReady s q d x (opDedupSet d) ∧ isIndex s.node
    (mTarget d) = true :=
  ⟨W id, 3, gd 4 0 [(8, 4, 7), (0x3C, 4, 600)] bempty, qp3,
    (MgmtReady.of (Admitted.of (Received.of (by decide +kernel)) (by decide +kernel)) (by decide +kernel)), by decide +kernel⟩

theorem test_MgmtObjects_3_none : ∃ (s : State) (q : Nat) (d : Blob) (x : Qp), MgmtReady s q d x (opDedupSet d) ∧ isIndex s.node
    (mTarget d) = false :=
  ⟨W id, 3, gd 4 0 [(8, 4, 8), (0x3C, 4, 600)] bempty, qp3,
    (MgmtReady.of (Admitted.of (Received.of (by decide +kernel)) (by decide +kernel)) (by decide +kernel)), by decide +kernel⟩

theorem test_MgmtObjects_4 : ∃ (s : State) (q : Nat) (d : Blob) (x : Qp) (g : IdxGen) (key : ShardKey), MgmtReady s q d x
    (opShardRead d) ∧ key = { handle := mTarget d, gen := mGen d, shard := mArg16 d } ∧ genFind s.node key.handle key.gen = some
    g ∧ key.shard < gShards g ∧ shardFind s.node key = some shard7 ∧ shard7.role < 3 :=
  ⟨W id, 3, gd 5 168 [(8, 4, 7)] bempty, qp3, gen7, k7,
    (MgmtReady.of (Admitted.of (Received.of (by decide +kernel)) (by decide +kernel)) (by decide +kernel)), by decide +kernel⟩

theorem test_MgmtObjects_4_none : ∃ (s : State) (q : Nat) (d : Blob) (x : Qp) (g : IdxGen) (key : ShardKey), MgmtReady s q d x
    (opShardRead d) ∧ key = { handle := mTarget d, gen := mGen d, shard := mArg16 d } ∧ genFind s.node key.handle key.gen = some
    g ∧ key.shard < gShards g ∧ shardFind s.node key = none :=
  ⟨W (fun n => { n with shards := [] }), 3, gd 5 168 [(8, 4, 7)] bempty, qp3, gen7, k7,
    (MgmtReady.of (Admitted.of (Received.of (by decide +kernel)) (by decide +kernel)) (by decide +kernel)), by decide +kernel⟩

theorem test_MgmtObjects_5 : ∃ (s : State) (q : Nat) (d p : Blob) (x : Qp), MgmtReady s q d x (opTableCreate s.node d) ∧ p =
    mPayload s.node d ∧ tabBad s.node p = none ∧ genHeld s.node (bword p 0) (bnum p 6 2) = false :=
  ⟨W id, 3, gd 0x10 0 [] tabPay, tabPay, qp3,
    (MgmtReady.of (Admitted.of (Received.of (by decide +kernel)) (by decide +kernel)) (by decide +kernel)), by decide +kernel⟩

theorem test_MgmtObjects_5_bad : ∃ (s : State) (q : Nat) (d p : Blob) (x : Qp), MgmtReady s q d x (opTableCreate s.node d) ∧ p =
    mPayload s.node d ∧ tabBad s.node p = some 0 :=
  ⟨W id, 3, gd 0x10 0 [] (mk 64 []), mk 64 [], qp3,
    (MgmtReady.of (Admitted.of (Received.of (by decide +kernel)) (by decide +kernel)) (by decide +kernel)), by decide +kernel⟩

theorem test_MgmtObjects_6 : ∃ (s : State) (q : Nat) (d p : Blob) (x : Qp) (tb : TabSt), MgmtReady s q d x (opTableFill d) ∧ p =
    mPayload s.node d ∧ tabTarget s.node d = .inr tb ∧ p.len % (8 + 4 * tWidth tb) = 0 :=
  ⟨W (fun n => { n with tabs := [{ tab8 with gen := 1 }] }), 3, gd 0x11 0 [(8, 4, 8), (14, 2, 1)] (mk 16 []), mk 16 [], qp3,
    { tab8 with gen := 1 },
    (MgmtReady.of (Admitted.of (Received.of (by decide +kernel)) (by decide +kernel)) (by decide +kernel)), by decide +kernel⟩

theorem test_MgmtObjects_6_part : ∃ (s : State) (q : Nat) (d p : Blob) (x : Qp) (tb : TabSt), MgmtReady s q d x (opTableFill d)
    ∧ p = mPayload s.node d ∧ tabTarget s.node d = .inr tb ∧ p.len % (8 + 4 * tWidth tb) ≠ 0 :=
  ⟨W (fun n => { n with tabs := [{ tab8 with gen := 1 }] }), 3, gd 0x11 0 [(8, 4, 8), (14, 2, 1)] (mk 8 []), mk 8 [], qp3,
    { tab8 with gen := 1 },
    (MgmtReady.of (Admitted.of (Received.of (by decide +kernel)) (by decide +kernel)) (by decide +kernel)), by decide +kernel⟩

theorem test_MgmtObjects_7 : ∃ (s : State) (q : Nat) (d : Blob) (x : Qp) (tb : TabSt), MgmtReady s q d x (opTableLoadRead d) ∧
    isTable s.node (mTarget d) = true ∧ tabFind s.node (mTarget d) (mGen d) = some tb ∧ mArg16 d < tShards tb ∧ homesShard
    s.node tb (mArg16 d) = true :=
  ⟨W id, 3, gd 0x13 48 [(8, 4, 8)] bempty, qp3, tab8,
    (MgmtReady.of (Admitted.of (Received.of (by decide +kernel)) (by decide +kernel)) (by decide +kernel)), by decide +kernel⟩

theorem test_MgmtObjects_7_other : ∃ (s : State) (q : Nat) (d : Blob) (x : Qp) (tb : TabSt), MgmtReady s q d x (opTableLoadRead
    d) ∧ isTable s.node (mTarget d) = true ∧ tabFind s.node (mTarget d) (mGen d) = some tb ∧ mArg16 d < tShards tb ∧ homesShard
    s.node tb (mArg16 d) = false :=
  ⟨W (fun n => { n with map := { map5 with tables := [{ trole8 with home := some there2 }] } }), 3,
    gd 0x13 48 [(8, 4, 8)] bempty, qp3, tab8,
    (MgmtReady.of (Admitted.of (Received.of (by decide +kernel)) (by decide +kernel)) (by decide +kernel)), by decide +kernel⟩

theorem test_MgmtObjects_8 : ∃ (s : State) (q : Nat) (d p : Blob) (x : Qp), MgmtReady s q d x (opEncoderLoad d) ∧ p = mPayload
    s.node d ∧ mAddr d = 0 ∧ mFinal d = true ∧ olBad p (genDue s.node (bword p 8) (bnum p 14 2) && !isIndex s.node (bword p 8)
    && !isTable s.node (bword p 8)) (boundOk s.node p) = some 0 :=
  ⟨W id, 3, gd 0x20 0 [(4, 2, 1)] (mk 64 []), mk 64 [], qp3,
    (MgmtReady.of (Admitted.of (Received.of (by decide +kernel)) (by decide +kernel)) (by decide +kernel)), by decide +kernel⟩

theorem test_ZeroResults_0 : ∃ (s : State) (q : Nat) (d : Blob) (x : Qp) (g : IdxGen), QueryReady s q d x g ∧ bnum d 6 2 = 0 :=
  ⟨W id, 3, qd 0, qp3, gen7,
    (QueryReady.of (Admitted.of (Received.of (by decide +kernel)) (by decide +kernel)) (by decide +kernel)), by decide +kernel⟩

theorem test_RejectedResponse_0 : ∃ (s : State) (q : Nat) (x : Qp), Live s ∧ qpFind s.node q = some x ∧ x.state ≠ 2 :=
  ⟨W id, 3, qp3, by decide +kernel⟩

theorem test_RejectedResponse_1 : ∃ (s : State) (q : Nat) (x : Qp), Live s ∧ qpFind s.node q = some x ∧ x.state = 2 :=
  ⟨W (fun n => { n with qps := [{ qp3 with state := 2 }] }), 3, { qp3 with state := 2 }, by decide +kernel⟩

theorem test_FullVectorPlaces_1 : ∃ (g : IdxGen) (sh : Shard) (lid k : Nat), baseOf sh 6 % 4096 = 0 ∧ fullSize (gFullFmt g)
    (gDim g) ≤ 4096 ∧ k < fullSize (gFullFmt g) (gDim g) :=
  ⟨gen7, shard7, 127, 31, by decide +kernel⟩

theorem test_FullVectorPlaces_2 : ∃ (s a b : Nat), 0 < s ∧ a < b :=
  ⟨1, 0, 1, by decide +kernel⟩

theorem test_FullVectorPlaces_3 : ∃ (n : Node) (o : ObjRange) (g : IdxGen) (sh : Shard), o.what = 7 ∧ genFind n o.key.handle
    o.key.gen = some g ∧ shardFind n o.key = some sh ∧ 0 < gDim g ∧ (∀ lid, sget 0 sh.full lid < 2 ^ (8 * fullSize (gFullFmt g)
    (gDim g))) :=
  ⟨(W id).node, { objRange0 with key := k7, what := 7 }, gen7, shard7, by decide +kernel, by decide +kernel, by decide +kernel,
    by decide +kernel, fun _ => Nat.two_pow_pos _⟩

theorem test_RingReports_0 : ∃ (b : Blk) (i code sev : Nat) (lo hi : Word) (n : Node) (g h : PageSt), g = pageGet n (pageOf b i)
    ∧ h = pageGet (reportSev b i code sev lo hi n) (pageOf b i) ∧ g.ring.length ≤ 128 :=
  ⟨.recb, 0, 0x24, 3, 5, 6, State.reset.node, _, _, rfl, rfl, by decide +kernel⟩

theorem test_LatchPaths_0 : ∃ (p : Path) (addr : Nat) (k : RegKind) (b : Blk) (i : Nat) (n : Node) (reads : List (Path × Nat)),
    addr % 4 = 0 ∧ addr + 4 < 0x800000 ∧ regKind addr = some k ∧ blkOfPage (addr / 0x1000) = some (b, i) ∧ isLo b (addr %
    0x1000) = true ∧ isLo b (addr % 0x1000 - 4) = false ∧ addr % 0x1000 + 4 < 0x1000 ∧ (regKind (addr + 4)).isSome = true ∧ (∀ r
    ∈ reads, r.2 < 0x1000000 ∧ r ≠ (p, addr)) :=
  ⟨.i3c, regAddr .tmr 0 0x100, .ro, .tmr, 0, State.reset.node, [(.i3c, 0), (.qp 0, regAddr .tmr 0 0x100)], by decide +kernel⟩

theorem test_LatchPaths_1 : ∃ (p : Path) (addr : Nat) (b : Blk) (i : Nat) (n : Node) (reads : List (Path × Nat)), 4 ≤ addr %
    0x1000 ∧ addr < 0x800000 ∧ (regKind addr).isSome = true ∧ blkOfPage (addr / 0x1000) = some (b, i) ∧ isLo b (addr % 0x1000 -
    4) = true ∧ n.latches = [] ∧ (∀ r ∈ reads, r.2 < 0x1000000 ∧ r ≠ (p, addr - 4)) :=
  ⟨.i3c, regAddr .tmr 0 0x104, .tmr, 0, State.reset.node, [(.i3c, 0)], by decide +kernel⟩

theorem test_LatchPaths_4 : ∃ (s : State) (p : Path) (addr : BitVec 24) (c : Instr), (c = .loRegisterRead p addr ∨ c =
    .rcRegisterRead p addr) ∧ addr.toNat % 4 = 0 ∧ (p ≠ .i3c → Live s) ∧ (p = .i3c → s.node.boot.inReset = false ∧ i3cReach
    s.node addr.toNat = true ∧ addr.toNat / 0x1000 < 0x7FE) :=
  ⟨W id, .qp 3, 0x20, .loRegisterRead (.qp 3) 0x20, by decide +kernel, by decide +kernel, fun _ => by decide +kernel,
    fun h => nomatch h⟩

theorem test_LatchPaths_4_rc : ∃ (s : State) (p : Path) (addr : BitVec 24) (c : Instr), (c = .loRegisterRead p addr ∨ c =
    .rcRegisterRead p addr) ∧ addr.toNat % 4 = 0 ∧ (p ≠ .i3c → Live s) ∧ (p = .i3c → s.node.boot.inReset = false ∧ i3cReach
    s.node addr.toNat = true ∧ addr.toNat / 0x1000 < 0x7FE) :=
  ⟨up id, .i3c, 0x20, .rcRegisterRead .i3c 0x20, by decide +kernel, by decide +kernel, fun h => absurd rfl h,
    fun _ => by decide +kernel⟩

theorem test_StagedPayload_0 : ∃ (x : Qp) (o : MgmtOp) (d : Blob) (n : Node), mStaged d = true ∧ mLen d ≠ 0 ∧ bword d 0x38 ≠
    crc32c (bslice n.staging (mOff d) (mLen d)) :=
  ⟨qp3, opRegWrite stagedD, stagedD, State.reset.node, by decide +kernel, by decide +kernel,
    by rw [show bslice State.reset.node.staging (mOff stagedD) (mLen stagedD) = zeros4 by decide +kernel, crc4]; decide +kernel⟩

theorem test_StagedPayload_1 : ∃ (s : State) (q : Nat) (d : Blob) (x : Qp) (o : MgmtOp) (act : Nat → Blob → Node → Node) (w :
    Nat), Received s q d x ∧ 64 ≤ bword d 0x24 ∧ mgmtBad x o d (policed s x) = some w :=
  ⟨W id, 3, gd 0x7F 0 [] bempty, qp3, opRegWrite (gd 0x7F 0 [] bempty), fun _ _ n => n, 4, (Received.of (by decide +kernel)),
    by decide +kernel⟩

theorem test_StagedPayload_2 : ∃ (s : State) (q : Nat) (d : Blob) (x : Qp) (o : MgmtOp) (act : Nat → Blob → Node → Node),
    MgmtReady s q d x o ∧ mStaged d = true ∧ mLen d ≠ 0 :=
  ⟨W id, 3, stagedC, qp3, opRegWrite stagedC, fun _ _ n => n,
    MgmtReady.of (Admitted.of (Received.of (by decide +kernel)) (by decide +kernel)) ⟨stagedC_good, by decide +kernel⟩,
    by decide +kernel⟩

theorem test_JournalWindow_0 : ∃ (e : EvRec) (n : Node), Numbered n ∧ n.jnl.length ≤ 1048576 ∧ n.jnext < 2 ^ 32 :=
  ⟨evRec0, State.reset.node, fun i h => absurd h (Nat.not_lt_zero i), by decide +kernel⟩

theorem test_JournalWindow_1 : ∃ (p : Path) (n : Node) (j : Nat), Numbered n ∧ n.jnl.length ≤ 1048576 ∧ j < 8 :=
  ⟨.firmware, State.reset.node, 7, fun i h => absurd h (Nat.not_lt_zero i), by decide +kernel⟩

theorem test_StoredFormats_0 : ∃ (msn top upper : Nat) (repair linked : Bool) (ns : List Nat), msn < 2 ^ 64 ∧ top < 8 ∧ upper <
    2 ^ 36 ∧ ns.length ≤ 48 ∧ (∀ x ∈ ns, x < 2 ^ 34) :=
  ⟨2 ^ 64 - 1, 7, 2 ^ 36 - 1, true, true, [2 ^ 34 - 1], by decide +kernel⟩

theorem test_StoredFormats_1 : ∃ (msn level owner : Nat) (ns : List Nat), msn < 2 ^ 64 ∧ level < 8 ∧ owner < 2 ^ 34 ∧ ns.length
    ≤ 48 ∧ (∀ x ∈ ns, x < 2 ^ 34) :=
  ⟨2 ^ 64 - 1, 7, 2 ^ 34 - 1, [2 ^ 34 - 1], by decide +kernel⟩

theorem test_StoredFormats_2 : ∃ (key del lid : Nat), key < 2 ^ 64 ∧ del < 2 ^ 64 ∧ lid < 2 ^ 34 :=
  ⟨2 ^ 64 - 1, 2 ^ 64 - 1, 2 ^ 34 - 1, by decide +kernel⟩

theorem test_StoredFormats_3 : ∃ (shard m base kind : Nat) (es : List DEnt), shard < 2 ^ 16 ∧ m / 2 < 248 ∧ base < 2 ^ 64 ∧ kind
    ≤ 3 ∧ es.length ≤ rowCap (m / 2 + 8) ∧ (∀ e ∈ es, e.code < 2 ^ (8 * (m / 2)) ∧ e.lid < 2 ^ 34 ∧ base ≤ e.msn ∧ e.msn < base
    + 2 ^ 24) :=
  ⟨2 ^ 16 - 1, 128, 2 ^ 64 - 1, 3, [{ code := 2 ^ 512 - 1, folded := true, lid := 2 ^ 34 - 1, msn := 2 ^ 64 + 2 ^ 24 - 2 }],
    by decide +kernel⟩

/-! ### Single steps against numbers from the manual -/

/-- The one field of the next state that a test looks at. -/
def after {α : Type} (c : Instr) (s : State) (f : Node → α) : Option α :=
  match exec c s with
  | .next t => some (f t.node)
  | _ => none

/-- R55: at D = 8 in FP32 a record is 32 bytes, 128 of them lie in 4,096 bytes. -/
theorem test_full_vector_places : (fullSize 0 8, fullOff 127 32, fullOff 128 32) = (32, 4064, 4096) := by decide +kernel

/-- R55: at D = 1,025 in FP32 a record is 4,100 bytes and takes two groups of 4,096. -/
theorem test_full_vector_beyond_group : fullOff 3 4100 = 3 * 8192 := by decide +kernel

set_option maxRecDepth 8000 in
/-- R423: the CRC-32C of the nine ASCII bytes 123456789 is E3069283H. -/
theorem test_crc32c : crc32c { len := 9, bits := 0x393837363534333231 } = 0xE3069283 := by simp [crc32c, crc32cRun, crc32cByte, crc32cBit]

/-- R223: heat is halved, rounded down. -/
theorem test_heat_decay : after .heatDecay (W (ptSet 0 (some { pgEnt0 with heat := 15 }))) (fun n => (ptGet n 0).map (·.heat)) = some (some 7) := by
  decide +kernel

/-- R259: sequence numbers count modulo 4,096. -/
theorem test_flit_wraps : (linkGet (flitIn 0 flit0 1743147809 { Node.reset with links := [(0, some { link2 with rxSeq := 4095 })] }) 0).map (·.rxSeq) =
    some 0 := by
  have h : flitCrcOk { link2 with rxSeq := 4095 } flit0 1743147809 = true := flit_good (by decide +kernel) (by decide +kernel)
  unfold flitIn
  rw [show linkGet { Node.reset with links := [(0, some { link2 with rxSeq := 4095 })] } 0 = some { link2 with rxSeq := 4095 } from rfl]
  simp only [h]
  decide +kernel

/-- R293: a congestion notification halves the rate. -/
theorem test_cnp_halves : after (.cnp 3) (W (fun n => { n with qps := [{ qp3 with rate := 400000 }] })) (fun n => n.qps.map (·.rate)) =
    some [200000] := by decide +kernel

/-- R253: FTL_FORMAT takes 7 to 28 percent under the key F1A5H. -/
theorem test_format_bounds : (after (.ftlFormat 0xF1A5001C) State.reset (fun n => n.ftl.reserve),
    after (.ftlFormat 0xF1A5001D) State.reset (fun n => n.ftl.pool)) = (some 28, some State.reset.node.ftl.pool) := by decide +kernel

/-- R325: at 112 degrees the node stops with cause 3. -/
theorem test_over_temperature : (after (.sensorSample [111] []) (W id) nodeStopped, after (.sensorSample [112] []) (W id) (fun n => (nodeStopped n, n.stopCause))) =
    (some false, some (true, 3)) := by decide +kernel

/-- A voltage alert takes every unit to the lowest operating point. -/
theorem test_alert : after (.regalertAssert 0) (W id) (fun n => n.pwr.alertLim) = some 0 := by decide +kernel

/-- The gap counter stops at 65,535. -/
theorem test_gaps_stop : after .refclkGap (W (pwrW (fun p => { p with gaps := 65535 }))) (fun n => n.pwr.gaps) = some 65535 := by decide +kernel

/-- A suspended operation is resumed after its fourth suspension at most. -/
theorem test_fifth_suspension : after (.suspendTimeout 0 0 0)
    (W (ftlW (fun f => { f with reads := [fRead0], map := [(0, some { fMap0 with mstate := 1 })], buf := [wUnit1], susp := [(0, 4)] })))
    (fun n => n.ftl.susp) = some [(0, 4)] := by decide +kernel

/-- R272: a ballot is a round and a node id, compared in that order. -/
theorem test_ballot_order : (ballotLt { round := 1, node := 9 } { round := 2, node := 0 }, ballotLt { round := 2, node := 1 } { round := 2, node := 2 },
    ballotLt { round := 2, node := 2 } { round := 2, node := 2 }) = (true, true, false) := by decide +kernel

/-- Generations count modulo 65,536. -/
theorem test_next_generation : nextGen 65535 = 0 := by decide +kernel

/-- An unknown MGMT_OP is answered BAD_PARAM at word 04H: one response of 64 bytes to RESP_ADDR. -/
theorem test_unknown_mgmt : after (.mgmtInvalidOp 3 (gd 0x7F 0 [] bempty)) (W id)
    (fun n => n.out.map (fun o => match o with | .rdmaWriteImm q a k h i => [q, a, k, bnum h 2 1, bword h 0x20, i] | _ => [])) =
    some [[3, 0x1000, 5, 1, 4, 80]] := by decide +kernel

/-- A QUERY for no results is answered at once, OK with RECORD_COUNT 0. -/
theorem test_query_zero : after (.query 3 (qd 0)) (W id)
    (fun n => n.out.map (fun o => match o with | .rdmaWriteImm q a _ h _ => (q, a, bnum h 2 1, bnum h 6 2) | _ => (0, 0, 0, 0))) =
    some [(3, 0x1000, 0, 0)] := by decide +kernel

/-- The queue is taken from the front, and an idle block stays as it is. -/
theorem test_front : (match step { State.reset with pending := [.refclkGap, .heatDecay] } with | .next t => t.pending | _ => []) = [.heatDecay] := by
  decide +kernel

theorem test_idle : (match step State.reset with | .next t => decide (t.pending = []) | _ => false) = true := by decide +kernel

/-- The table gives its rows no bits. -/
theorem test_no_words : decodeTableWord 32 0 = none := rfl

/-! ### Ill-formed commands, one for each check -/

def goodLut : Lut := { lut0 with m := 64, e := List.replicate 1024 0 }

theorem test_wf_query : wellFormed (.query 3 (qd 1)) = true := by decide +kernel
theorem test_wf_qp_number : wellFormed (.query (2 ^ 24) (qd 1)) = false := by decide +kernel
theorem test_wf_blob : wellFormed (.mutate 3 { len := 1, bits := 256 }) = false := by decide +kernel
theorem test_wf_event_qp : wellFormed (.cnp (2 ^ 24)) = false := by decide +kernel
theorem test_wf_key_handle : wellFormed (.batchHoldExpiry { handle := 2 ^ 32, gen := 0, shard := 0 }) = false := by decide +kernel
theorem test_wf_key_gen : wellFormed (.batchHoldExpiry { handle := 7, gen := 2 ^ 16, shard := 0 }) = false := by decide +kernel
theorem test_wf_key_shard : wellFormed (.batchHoldExpiry { handle := 7, gen := 0, shard := 2 ^ 16 }) = false := by decide +kernel
theorem test_wf_lut : WellFormed.lut goodLut = true := by decide +kernel
theorem test_wf_lut_m : WellFormed.lut { goodLut with m := 63 } = false := by decide +kernel
theorem test_wf_lut_entry : WellFormed.lut { goodLut with e := 256 :: List.replicate 1023 0 } = false := by decide +kernel
theorem test_wf_lut_zero_span : WellFormed.lut { goodLut with zeroSpan := true, e := 1 :: List.replicate 1023 0 } = false := by decide +kernel
theorem test_wf_subrequest_widen : wellFormed (.subRequest (hdr (.subRequest qmsg)) { qmsg with lut := goodLut, widen := 4 }) = false := by decide +kernel
theorem test_wf_subrequest_vector : wellFormed (.subRequest (hdr (.subRequest qmsg)) { qmsg with lut := goodLut, qvec := [0] }) = false := by
  decide +kernel
theorem test_wf_record_offset : wellFormed (.subBatch (hdr (.subBatch mbatch)) { mbatch with records := [{ off := 2 ^ 32, body := delRec 5 }] }) = false := by
  decide +kernel
theorem test_wf_step : wellFormed (.step (hdr (.step stepM)) { stepM with recs := [{ jRec0 with kind := 2, msn := 1 }] }) = true := by decide +kernel
theorem test_wf_step_msn : wellFormed (.step (hdr (.step stepM)) { stepM with recs := [{ jRec0 with kind := 2, msn := 2 }] }) = false := by decide +kernel
theorem test_wf_step_last : wellFormed (.step (hdr (.step stepM)) { stepM with lastMsn := 2 }) = false := by decide +kernel
theorem test_wf_journal_kind : wellFormed (.fill (hdr (.epochFetch 0)) { key := k7, recs := [jRec0] }) = false := by decide +kernel
theorem test_wf_journal_lid : wellFormed (.fill (hdr (.epochFetch 0)) { key := k7, recs := [{ jRec0 with kind := 1, lid := 2 ^ 34 }] }) = false := by
  decide +kernel
theorem test_wf_fold_top : wellFormed (.foldEntry k7 6 (List.replicate 7 [])) = false := by decide +kernel
theorem test_wf_fold_lists : wellFormed (.foldEntry k7 1 [[]]) = false := by decide +kernel
theorem test_wf_fold_long : wellFormed (.foldEntry k7 0 [List.replicate 49 0]) = false := by decide +kernel
theorem test_wf_copy : wellFormed (.copy (hdr (.epochFetch 0)) { copyMsg0 with data := { len := 0, bits := 1 } }) = false := by decide +kernel
theorem test_wf_row_op : wellFormed (.rowOp (hdr (.rowOp urow)) { urow with op := 3 }) = false := by decide +kernel
theorem test_wf_row_read : wellFormed (.rowOp (hdr (.rowOp urow)) { urow with op := 0 }) = false := by decide +kernel
theorem test_wf_ballot : wellFormed (.prepare (hdr (.epochFetch 0)) { epoch := 6, ballot := { round := 2 ^ 32, node := 0 } }) = false := by decide +kernel
theorem test_wf_map : wellFormed (.epochData (hdr (.epochData map5)) map5) = true := by decide +kernel
theorem test_wf_map_council : wellFormed (.epochData (hdr (.epochData map5)) { map5 with council := [2, 2] }) = false := by decide +kernel
theorem test_wf_map_members : wellFormed (.epochData (hdr (.epochData map5)) { map5 with members := [member1, member1] }) = false := by decide +kernel
theorem test_wf_join : wellFormed (.join (hdr (.join joinMsg0)) { joinMsg0 with report := { len := 0, bits := 1 } }) = false := by decide +kernel
theorem test_wf_page : wellFormed (.backgroundMove (2 ^ 32)) = false := by decide +kernel
theorem test_wf_address : wellFormed (.patrolRead (2 ^ 48) .clean) = false := by decide +kernel
theorem test_wf_unit : wellFormed (.unitWrite 0 .data 0 { len := 0, bits := 1 }) = false := by decide +kernel
theorem test_wf_block : wellFormed (.blockRefresh { block0 with plane := 16 }) = false := by decide +kernel
theorem test_wf_block_number : wellFormed (.blockRefresh { block0 with block := 2 ^ 16 }) = false := by decide +kernel
theorem test_wf_frame : wellFormed (.arp { frame1 with src := { len := 0, bits := 1 } }) = false := by decide +kernel
theorem test_wf_population : wellFormed (.romConditionsMet { population0 with dimms := [] }) = false := by decide +kernel
theorem test_wf_path : wellFormed (.loRegisterRead (.qp (2 ^ 24)) 0) = false := by decide +kernel
theorem test_wf_i3c : wellFormed (.i3cPrivateWrite { len := 0, bits := 1 }) = false := by decide +kernel

end Sys2Proof.Tests
end

section
/-!
PROOF. The two statements of the query path: an answered QUERY with K = 0 (R19), and a response write that the client's device
rejects (R28). First the rules they share: looking up a queue pair after a change, what an error report can do, a SEND past its
checks, and the end of a request.
-/
namespace Sys2Proof.Machine

/-! ### Looking up a queue pair -/

theorem qpFind_num {n : Node} {q : Nat} {x : Qp} (h : qpFind n q = some x) : x.num = q := by
  simpa using List.find?_some h

/-- Only the list of queue pairs decides a lookup. -/
theorem qpFind_congr {m n : Node} (h : m.qps = n.qps) (q : Nat) : qpFind m q = qpFind n q := by
  rw [qpFind, qpFind, h]

/-- A change that keeps the numbers is a change of every lookup. -/
theorem qpFind_qpMod (q p : Nat) (f : Qp → Qp) (hf : ∀ x, (f x).num = x.num) (n : Node) :
    qpFind (qpMod q f n) p = (qpFind n p).map (fun x => if x.num = q then f x else x) := by
  have hp : (fun x : Qp => decide (x.num = p)) ∘ (fun x => if x.num = q then f x else x) = fun x => decide (x.num = p) := by
    funext x
    by_cases h : x.num = q <;> simp [h, hf]
  simp only [qpFind, qpMod_sets, lmodify, List.find?_map, decide_eq_true_eq, hp]

theorem qpFind_qpMod_self {n : Node} {q : Nat} {x : Qp} {f : Qp → Qp} (hf : ∀ x, (f x).num = x.num)
    (h : qpFind n q = some x) : qpFind (qpMod q f n) q = some (f x) := by
  simp [qpFind_qpMod q q f hf, h, qpFind_num h]

theorem qpFind_qpMod_ne {q p : Nat} {f : Qp → Qp} (hf : ∀ x, (f x).num = x.num) (n : Node) (hp : p ≠ q) :
    qpFind (qpMod q f n) p = qpFind n p := by
  rw [qpFind_qpMod q p f hf]
  cases h : qpFind n p with
  | none => rfl
  | some y => simp [qpFind_num h, hp]

/-! ### What an error report can do (R381, R384) -/

/-- An effect on interrupt causes sends at most an in-band interrupt beside what it sends itself. -/
theorem withIbi_out (f : Node → Node) (n : Node) :
    (withIbi f n).out = (f n).out ∨ ∃ k, (withIbi f n).out = (f n).out ++ [.ibi k] := by
  unfold withIbi
  dsimp only
  split
  · exact .inr ⟨_, rfl⟩
  · exact .inl rfl

/-- A report raises the error count of its page, and no other counter. -/
theorem reportSev_cnts (b : Blk) (i c v : Nat) (lo hi : Word) (n : Node) :
    (reportSev b i c v lo hi n).cnts
      = sset 0 n.cnts (regAddr b i 0x28) (sat32 (sget 0 n.cnts (regAddr b i 0x28) + 1)) := by
  unfold reportSev
  rw [withIbi_frame]
  dsimp only
  rw [foldl_field Node.cnts _ (fun m ch => by simp)]
  split
  · rfl
  · rw [ringAdd_frame]; rfl

/-- A report sends nothing but perhaps an in-band interrupt. -/
theorem reportSev_out (b : Blk) (i c v : Nat) (lo hi : Word) (n : Node) :
    (reportSev b i c v lo hi n).out = n.out ∨ ∃ k, (reportSev b i c v lo hi n).out = n.out ++ [.ibi k] := by
  have keeps : ∀ f : Node → Node, (f n).out = n.out →
      (withIbi f n).out = n.out ∨ ∃ k, (withIbi f n).out = n.out ++ [.ibi k] := fun f hf => hf ▸ withIbi_out f n
  unfold reportSev
  apply keeps
  dsimp only
  rw [foldl_field Node.out _ (fun m ch => by simp)]
  split
  · rfl
  · rw [ringAdd_frame]; rfl

theorem rdmaReport_cnts (c : Nat) (x : Qp) (n : Node) :
    (rdmaReport c x n).cnts
      = sset 0 n.cnts (regAddr .rdma 0 0x28) (sat32 (sget 0 n.cnts (regAddr .rdma 0 0x28) + 1)) :=
  reportSev_cnts _ _ _ _ _ _ n

theorem rdmaReport_out (c : Nat) (x : Qp) (n : Node) :
    (rdmaReport c x n).out = n.out ∨ ∃ k, (rdmaReport c x n).out = n.out ++ [.ibi k] :=
  reportSev_out _ _ _ _ _ _ n

@[simp] theorem rdmaReport_keeps (c : Nat) (x : Qp) (n : Node) :
    (rdmaReport c x n).qps = n.qps ∧ (rdmaReport c x n).reqs = n.reqs ∧ (rdmaReport c x n).shards = n.shards := by
  unfold rdmaReport
  rw [report_frame]
  exact ⟨rfl, rfl, rfl⟩

/-! ### A response write that the client's device rejects (R28) -/

/-- The queue pair once it has entered ERROR (R296). -/
def Qp.inError (x : Qp) : Qp := { x with state := 2, unacked := [], errQueue := [], slots := [] }

theorem qpFind_qpError_self {n : Node} {q : Nat} {x : Qp} (h : qpFind n q = some x) :
    qpFind (qpError q n) q = some x.inError :=
  qpFind_qpMod_self (f := Qp.inError) (fun _ => rfl) h

theorem qpFind_qpError_ne {q p : Nat} (n : Node) (hp : p ≠ q) : qpFind (qpError q n) p = qpFind n p :=
  qpFind_qpMod_ne (f := Qp.inError) (fun _ => rfl) n hp

/-- On a queue pair in ERROR there is no write left to reject. -/
theorem writeRejected_inError {n : Node} {q : Nat} {x : Qp} (h : qpFind n q = some x) (hs : x.state = 2) :
    writeRejected q n = n := by
  simp [writeRejected, h, hs]

theorem writeRejected_eq {n : Node} {q : Nat} {x : Qp} (h : qpFind n q = some x) (hs : x.state ≠ 2) :
    writeRejected q n = rdmaReport 0x01 x (bump (regAddr .rdma 0 0x138) 1 (qpError q n)) := by
  simp [writeRejected, h, hs]

/-- A rejected write leaves the queue pairs as the move to ERROR leaves them. -/
theorem qpFind_writeRejected {n : Node} {q : Nat} {x : Qp} (h : qpFind n q = some x) (hs : x.state ≠ 2) (p : Nat) :
    qpFind (writeRejected q n) p = qpFind (qpError q n) p :=
  qpFind_congr (by simp [writeRejected_eq h hs]) p

/-- A rejected write counts in RDMA_RESP_DISCARD, and its report in the error count of the page. -/
theorem writeRejected_cnts {n : Node} {q : Nat} {x : Qp} (h : qpFind n q = some x) (hs : x.state ≠ 2) :
    (writeRejected q n).cnts =
      sset 0 (sset 0 n.cnts (regAddr .rdma 0 0x138) (sget 0 n.cnts (regAddr .rdma 0 0x138) + 1)) (regAddr .rdma 0 0x28)
        (sat32 (sget 0 n.cnts (regAddr .rdma 0 0x28) + 1)) := by
  have hne : regAddr .rdma 0 0x28 ≠ regAddr .rdma 0 0x138 := by decide
  have hcnt : (qpError q n).cnts = n.cnts := by simp
  rw [writeRejected_eq h hs, rdmaReport_cnts, bump_sets, hcnt, sget_sset_ne 0 0 _ _ hne]

/-- A rejected write sends nothing but perhaps an in-band interrupt. -/
theorem writeRejected_out {n : Node} {q : Nat} {x : Qp} (h : qpFind n q = some x) (hs : x.state ≠ 2) :
    (writeRejected q n).out = n.out ∨ ∃ k, (writeRejected q n).out = n.out ++ [.ibi k] := by
  simpa [writeRejected_eq h hs] using rdmaReport_out 0x01 x (bump (regAddr .rdma 0 0x138) 1 (qpError q n))

/-- Settles O54: on a queue pair in ERROR the command does nothing; on any other it is the move to ERROR, one count and a report. -/
theorem rejectedResponse : Obligations.RejectedResponse := by
  unfold Obligations.RejectedResponse
  refine ⟨fun s q x live found hs => ?_, fun s q x live found hs => ?_⟩
  · have hne : regAddr .rdma 0 0x138 ≠ regAddr .rdma 0 0x28 := by decide
    have hcnts := writeRejected_cnts found hs
    refine ⟨_, run_live live (writeRejected q), ?_, ?_, ?_, ?_, ?_, writeRejected_out found hs, ?_, ?_⟩
    · exact (qpFind_writeRejected found hs q).trans (qpFind_qpError_self found)
    · exact fun p hp => (qpFind_writeRejected found hs p).trans (qpFind_qpError_ne s.node hp)
    · dsimp only
      rw [hcnts, sget_sset_ne 0 0 _ _ hne, sget_sset_self]
    · dsimp only
      rw [hcnts, sget_sset_self]
    · intro a h138 h28
      dsimp only
      rw [hcnts, sget_sset_ne 0 0 _ _ h28, sget_sset_ne 0 0 _ _ h138]
    · simp [writeRejected_eq found hs]
    · simp [writeRejected_eq found hs]
  · show run s (writeRejected q) = .next s
    rw [run_live live, writeRejected_inError found hs]

/-! ### A SEND past its checks (R12) -/

/-- Policing takes a credit, and leaves everything but the tenants' buckets. -/
theorem policed_frame (s : State) (x : Qp) :
    policed s x = { s.node with tenants := (policed s x).tenants, calEntry := (policed s x).calEntry } :=
  police_frame x.cfg.tid s.node

/-- A place in the admission queue changes the tenants alone. -/
theorem admitEntry_placed {t : Nat} {n : Node} (h : (admitEntry t n).1 = none) :
    (admitEntry t n).2 = { n with tenants := (admitEntry t n).2.tenants } := by
  unfold admitEntry at h ⊢
  split
  · next y hy =>
    simp only [hy] at h
    by_cases hb : n.pwr.held.contains t = true
    · simp only [hb, if_true] at h; cases h
    · by_cases hr : y.held < y.cfg.admitMax
      · simp only [hb, hr, if_true]; rfl
      · simp only [hb, hr, if_false] at h; cases h
  · rfl

/-- The node once an admitted SEND has its credit and its place. -/
theorem admitted_frame {s : State} {q : Nat} {d : Blob} {x : Qp} (h : Admitted s q d x) :
    (admitEntry x.cfg.tid (policed s x)).2 = { s.node with
      tenants := (admitEntry x.cfg.tid (policed s x)).2.tenants, calEntry := (policed s x).calEntry } := by
  rw [admitEntry_placed h.place, policed_frame]

/-- A member that admits client requests gives a QUERY, MUTATE or LOOKUP the place that the admission queue has (R271). -/
theorem clientEntry_admits {n : Node} (h : admitsClients n = true) (t : Nat) : clientEntry t n = admitEntry t n := by
  simp [clientEntry, h]

/-! ### The newest request -/

section
variable {l : List Req} {r : Req} {i : Nat} (hl : ∀ a ∈ l, a.id < i) (hr : r.id = i)
include hl hr

theorem lmodify_newest (f : Req → Req) : lmodify (fun a => a.id = i) f (l ++ [r]) = l ++ [f r] := by
  have hold : l.map (fun a => if a.id = i then f a else a) = l := by
    refine (List.map_congr_left fun a ha => ?_).trans (List.map_id l)
    exact if_neg (Nat.ne_of_lt (hl a ha))
  simp [lmodify, hold, hr]

theorem reqFind_newest {n : Node} (hn : n.reqs = l ++ [r]) : reqFind n i = some r := by
  have hold : l.find? (fun a => a.id = i) = none :=
    List.find?_eq_none.mpr fun a ha => by simpa using Nat.ne_of_lt (hl a ha)
  simp [reqFind, hn, List.find?_append, hold, hr]

theorem filter_newest : (l ++ [r]).filter (fun a => a.id ≠ i) = l := by
  have hold : l.filter (fun a => a.id ≠ i) = l :=
    List.filter_eq_self.mpr fun a ha => by simpa using Nat.ne_of_lt (hl a ha)
  rw [List.filter_append, hold]
  simp [hr]

end

/-! ### The end of a request (R26, R29) -/

/-- A response without records, on a queue pair that is not in ERROR and with room for the header, is one write. -/
theorem writeResponse_header {t : RespTo} {n : Node} {x : Qp} (h : qpFind n t.qp = some x) (hs : x.state ≠ 2)
    (hl : 64 ≤ t.len) (r : Resp) : writeResponse t bempty r n =
      qpSend x.num false 64 (.rdmaWriteImm x.num t.addr t.rkey (respHeader r) (r.tag % 2 ^ 32)) n := by
  have hlen : ¬ t.len < 64 := Nat.not_lt.mpr hl
  simp [writeResponse, h, hs, hlen, bempty]

/-- The fields that the end of a request fills into its response. -/
def Resp.sealed (p : Resp) (r : Req) (n : Node) : Resp :=
  { p with op := r.op, tag := bnum r.d 0x10 8, ticks := admitTicks n r.arrive }

/-- A request that ends with a header alone: one write leaves and the request is over; beside that only its tenant, its queue pair and
the account of that change. -/
theorem finish_header {r : Req} {n : Node} {x : Qp} (h : qpFind n r.qp = some x) (hs : x.state ≠ 2)
    (hl : 64 ≤ bword r.d 0x24) (p : Resp) : finish r bempty p n = { n with
      tenants := (finish r bempty p n).tenants, qps := (finish r bempty p n).qps, pwr := (finish r bempty p n).pwr,
      reqs := n.reqs.filter (fun a => a.id ≠ r.id),
      out := n.out ++
        [.rdmaWriteImm r.qp (bnum r.d 0x18 8) (bword r.d 0x20) (respHeader (p.sealed r n)) (bnum r.d 0x10 8 % 2 ^ 32)] } := by
  unfold finish
  dsimp only
  rw [writeResponse_header (t := respTo r.qp r.arrive r.d) h hs hl, qpFind_num h]
  rfl

/-! ### A QUERY past its checks (R13-R17) -/

theorem offIf_eq_none {b : Bool} {o : Nat} : offIf b o = none ↔ b = false := by
  cases b <;> simp [offIf]

theorem firstBad_eq_none {l : List (Option Nat)} : firstBad l = none ↔ ∀ o ∈ l, o = none := by
  rw [firstBad, List.head?_eq_none_iff, List.filterMap_eq_nil_iff]
  rfl

/-- A QUERY header in order names OPCODE 1 and has room for the response header and K records (R14, R26). -/
theorem queryHeaderBad_none {x : Qp} {d : Blob} {n : Node} (h : queryHeaderBad x d n = none) :
    nbits (bword d 0) 31 24 = 1 ∧ 64 + 16 * echoK d ≤ bword d 0x24 := by
  unfold queryHeaderBad at h
  simp only [firstBad_eq_none, List.forall_mem_cons, offIf_eq_none] at h
  obtain ⟨hword, -, -, -, -, hlen, -⟩ := h
  simp only [Bool.or_eq_false_iff, decide_eq_false_iff_not, Decidable.not_not] at hword hlen
  obtain ⟨⟨⟨⟨⟨hop, -⟩, -⟩, -⟩, -⟩, -⟩ := hword
  exact ⟨hop, Nat.not_lt.mp hlen⟩

/-- OPCODE is the highest byte of the first word (R13). -/
theorem opcode_eq_word {d : Blob} (h : 64 ≤ d.len) : bnum d 3 1 = nbits (bword d 0) 31 24 := by
  have h1 : Nat.min 1 (d.len - 3) = 1 := Nat.min_eq_left (by omega)
  have h4 : Nat.min 4 (d.len - 0) = 4 := Nat.min_eq_left (by omega)
  simp only [bword, bnum, nbits, h1, h4, Nat.shiftRight_eq_div_pow]
  omega

theorem echoK_eq_zero {d : Blob} (h : bnum d 6 2 = 0) : echoK d = 0 := by
  simp [echoK, h]

/-- The table whose rows the node pools for this QUERY (R16). -/
def queryTab (n : Node) (d : Blob) : Option TabSt := if qKind d = 1 || qKind d = 3 then qTable n d else none

/-- A request bound to a table (R17). -/
def Req.onTable (tb : TabSt) (r : Req) : Req := { r with tabHandle := tb.handle, tabGen := tb.gen }

/-- The request bound to its table, where there is one (R17). -/
def bindTab (id : Nat) (tab : Option TabSt) (n : Node) : Node :=
  match tab with
  | some tb => reqMod id (Req.onTable tb) n
  | none => n

/-- The node once the QUERY holds its place, as a request with its deadline (R13, R17). -/
def queryPlaced (s : State) (q : Nat) (d : Blob) (x : Qp) (g : IdxGen) : Node :=
  let n := (admitEntry x.cfg.tid (policed s x)).2
  let us := nbits (bword d 0xC) 14 0
  (reqNew x (respTo q s.node.tick d) d g.handle g.gen (if qKind d = 0 then 0 else (currentGen n.map (qAux d)).getD 0)
    (s.node.tick + ticksUs (if us = 0 then gDefDeadline g else us)) n).2

/-- The node once the QUERY is bound (R17), before its vector starts. -/
def queryBound (s : State) (q : Nat) (d : Blob) (x : Qp) (g : IdxGen) : Node :=
  bindTab s.node.nextReq (queryTab (admitEntry x.cfg.tid (policed s x)).2 d) (queryPlaced s q d x g)

/-- The last part of a QUERY's admission: the bound request is answered at once (K = 0, or no codebook yet), or its vector starts
(R16, R19). -/
def queryBegin (d : Blob) (g : IdxGen) (id : Nat) (n : Node) : Node :=
  match reqFind n id with
  | none => n
  | some r =>
    if echoK d = 0 then finish r bempty (boundResp r) n
    else if g.codebook.isNone then finish r bempty { boundResp r with total := gShards g, answered := gShards g, flags := 1 } n
    else match qKind d with
      | 0 => reqMod id (fun r => { r with vec := some ((elemsGet d (qPayOff d) (qFmt d) (qScale d) (qCount d)).map posZero) }) n
      | 2 => encoderStart id
          { fmt := 7, dims := [qCount d], vals := (List.range (qCount d)).map (fun i => bword d (qPayOff d + 4 * i)) } (qCount d) n
      | _ => poolStart id n

/-- The request that a QUERY becomes: its descriptor, queue pair and OPCODE, neither re-bound nor re-routed. -/
structure NewQuery (s : State) (q : Nat) (d : Blob) (r : Req) : Prop where
  id     : r.id = s.node.nextReq
  qp     : r.qp = q
  op     : r.op = bnum d 3 1
  desc   : r.d = d
  bound  : r.rebound = false
  routed : r.rerouted = false

/-- The node with this request as its newest; beside that only the tenants' buckets and queues differ from `s`. -/
def Entered (s : State) (r : Req) (n : Node) : Prop :=
  n = { s.node with
    tenants := n.tenants, calEntry := n.calEntry, nextReq := s.node.nextReq + 1, reqs := s.node.reqs ++ [r] }

theorem Entered.reqs_eq {s : State} {r : Req} {n : Node} (h : Entered s r n) : n.reqs = s.node.reqs ++ [r] := by rw [h]

theorem queryPlaced_entered {s : State} {q : Nat} {d : Blob} {x : Qp} (g : IdxGen) (h : Admitted s q d x) :
    ∃ r, NewQuery s q d r ∧ Entered s r (queryPlaced s q d x g) := by
  unfold queryPlaced Entered
  rw [admitted_frame h]
  exact ⟨_, ⟨rfl, qpFind_num h.found, rfl, rfl, rfl, rfl⟩, rfl⟩

theorem queryBound_entered {s : State} {q : Nat} {d : Blob} {x : Qp} (g : IdxGen) (h : Admitted s q d x) :
    ∃ r, NewQuery s q d r ∧ Entered s r (queryBound s q d x g) := by
  obtain ⟨r, hr, he⟩ := queryPlaced_entered g h
  unfold queryBound
  cases queryTab (admitEntry x.cfg.tid (policed s x)).2 d with
  | none => exact ⟨r, hr, he⟩
  | some tb =>
    refine ⟨r.onTable tb, ⟨hr.id, hr.qp, hr.op, hr.desc, hr.bound, hr.routed⟩, ?_⟩
    unfold Entered at he ⊢
    rw [he, ← lmodify_newest h.ids hr.id (Req.onTable tb)]
    rfl

/-- A QUERY that passes its checks is bound, and then it begins (R12-R17). -/
theorem queryIn_ready {s : State} {q : Nat} {d : Blob} {x : Qp} {g : IdxGen} (h : QueryReady s q d x g) :
    queryIn d x (respTo q s.node.tick d) (policed s x) = queryBegin d g s.node.nextReq (queryBound s q d x g) := by
  have hidx : currentIdx (policed s x) (bword d 8) = some g := by rw [policed_frame]; exact h.index
  have hserve : admitsClients (policed s x) = true := by rw [policed_frame]; exact h.serves
  have hrights : hasRights (policed s x) false x.cfg.tid g.handle = true := by rw [policed_frame]; exact h.rights
  have hallowed : (!hasRights (policed s x) false x.cfg.tid g.handle ||
      (decide (qKind d ≠ 0) && !hasRights (policed s x) false x.cfg.tid (qAux d))) = false := by
    have haux : qKind d = 0 ∨ hasRights (policed s x) false x.cfg.tid (qAux d) = true := by rw [policed_frame]; exact h.aux
    rcases haux with hvector | haux
    · simp [hrights, hvector]
    · simp [hrights, haux]
  have hplace : admitEntry x.cfg.tid (policed s x) = (none, (admitEntry x.cfg.tid (policed s x)).2) := Prod.ext h.place rfl
  have hnext : (admitEntry x.cfg.tid (policed s x)).2.nextReq = s.node.nextReq := by rw [admitted_frame h.toAdmitted]
  unfold queryIn
  rw [h.header, hidx]
  dsimp only
  rw [h.items]
  dsimp only
  rw [hallowed, clientEntry_admits hserve, hplace]
  unfold queryBound
  rw [← hnext]
  rfl

/-- K = 0 ends at check step 4: the request is answered at once, and nothing of it starts (R19). -/
theorem queryBegin_zero {d : Blob} {n : Node} {id : Nat} {r : Req} (g : IdxGen) (hr : reqFind n id = some r) (hk : echoK d = 0) :
    queryBegin d g id n = finish r bempty (boundResp r) n := by
  simp [queryBegin, hr, hk]

/-- The newest request is answered with a header alone: its one write has left, no request stays of it, and beside the tenants, the
queue pairs and the energy accounts only the next number has changed. -/
theorem finish_entered {s : State} {q : Nat} {d : Blob} {x : Qp} {r : Req} {n : Node} (h : Admitted s q d x)
    (hr : NewQuery s q d r) (he : Entered s r n) (hlen : 64 ≤ bword d 0x24) (p : Resp) :
    finish r bempty p n = { s.node with
      tenants := (finish r bempty p n).tenants, calEntry := (finish r bempty p n).calEntry, nextReq := s.node.nextReq + 1,
      qps := (finish r bempty p n).qps, pwr := (finish r bempty p n).pwr,
      out := s.node.out ++
        [.rdmaWriteImm q (bnum d 0x18 8) (bword d 0x20) (respHeader (p.sealed r n)) (bnum d 0x10 8 % 2 ^ 32)] } := by
  obtain ⟨hid, hqp, -, hd, -, -⟩ := hr
  have hfound : qpFind n r.qp = some x := by
    rw [hqp, ← h.found]
    exact qpFind_congr (by rw [he]) q
  have hrts : x.state ≠ 2 := by simp [h.rts]
  have hend := finish_header hfound hrts (hd ▸ hlen) p
  rw [he.reqs_eq, hid, filter_newest h.ids hid, hqp, hd] at hend
  generalize finish r bempty p n = m at hend ⊢
  generalize respHeader (p.sealed r n) = hdr at hend ⊢
  rw [hend]
  unfold Entered at he
  rw [he]

/-- Settles O53: the request passes its checks, is found with K = 0, and its answer is the whole of what happens. -/
theorem zeroResults : Obligations.ZeroResults := by
  unfold Obligations.ZeroResults
  intro s q d x g h hk
  have hzero : echoK d = 0 := echoK_eq_zero hk
  obtain ⟨hop, hroom⟩ := queryHeaderBad_none h.header
  obtain ⟨r, hr, he⟩ := queryBound_entered g h.toAdmitted
  have hanswer : exec (.query q d) s
      = .next { s with node := finish r bempty (boundResp r) (queryBound s q d x g) } := by
    rw [← queryBegin_zero g (reqFind_newest h.ids hr.id he.reqs_eq) hzero, ← queryIn_ready h,
      ← receive_received h.toReceived (queryIn d)]
    exact run_live h.live (receive q d (queryIn d))
  refine ⟨_, (boundResp r).sealed r (queryBound s q d x g), hanswer, ?_, rfl, rfl, ?_, rfl, rfl, ?_,
    finish_entered h.toAdmitted hr he (by omega) (boundResp r)⟩
  · exact hr.op.trans ((opcode_eq_word h.whole).trans hop)
  · exact (congrArg echoK hr.desc).trans hzero
  · simp [Resp.sealed, boundResp, hr.bound, hr.routed, b2n]

end Sys2Proof.Machine
end

section
/-!
PROOF. The places of full vectors (R55). A unit is the 4 KiB that records of at most 4,096 bytes share, or the whole pages of one
longer record. Both forms obey one equation: record `lid` is number `lid % fullPer s` of unit `lid / fullPer s`. What a unit reads as
is a number whose digits in base 2^(8 s) are its records.
-/
namespace Sys2Proof.Machine

/-! ### Records and units -/

/-- Records of `s` bytes in one unit. -/
def fullPer (s : Nat) : Nat := if s ≤ 4096 then 4096 / s else 1

/-- Bytes of one unit. -/
def fullUnit (s : Nat) : Nat := if s ≤ 4096 then 4096 else (s + 4095) / 4096 * 4096

/-- A generation with at least one dimension has records of at least one byte. -/
theorem fullSize_pos (fmt : Nat) {d : Nat} (hd : 0 < d) : 0 < fullSize fmt d := by
  unfold fullSize
  split_ifs <;> omega

theorem fullPer_pos {s : Nat} (hs : 0 < s) : 0 < fullPer s := by
  unfold fullPer
  split
  next h => exact Nat.div_pos h hs
  next => exact Nat.one_pos

/-- The records of a unit fit in it. -/
theorem fullPer_mul_le (s : Nat) : fullPer s * s ≤ fullUnit s := by
  unfold fullPer fullUnit
  split
  next => exact Nat.div_mul_le_self 4096 s
  next => omega

/-- The place of a record, for both forms of unit. -/
theorem fullOff_eq (lid s : Nat) : fullOff lid s = lid / fullPer s * fullUnit s + lid % fullPer s * s := by
  unfold fullOff fullPer fullUnit
  split
  next => rfl
  next => simp [Nat.mod_one, Nat.mul_assoc]

/-- A record ends within its unit. -/
theorem record_end_le {s : Nat} (hs : 0 < s) (lid : Nat) : lid % fullPer s * s + s ≤ fullUnit s :=
  calc lid % fullPer s * s + s = (lid % fullPer s + 1) * s := (Nat.succ_mul _ _).symm
    _ ≤ fullPer s * s := Nat.mul_le_mul_right s (Nat.mod_lt lid (fullPer_pos hs))
    _ ≤ fullUnit s := fullPer_mul_le s

/-- Every byte of a record lies in the record's unit. -/
theorem fullOff_add_div {s k : Nat} (hk : k < s) (lid : Nat) : (fullOff lid s + k) / fullUnit s = lid / fullPer s := by
  have hend := record_end_le (Nat.zero_lt_of_lt hk) lid
  rw [fullOff_eq, Nat.add_assoc, Nat.add_comm, Nat.add_mul_div_right _ _ (by omega), Nat.div_eq_of_lt (by omega), Nat.zero_add]

/-- The offset of a record in its unit. -/
theorem fullOff_mod {s : Nat} (hs : 0 < s) (lid : Nat) : fullOff lid s % fullUnit s = lid % fullPer s * s := by
  have hend := record_end_le hs lid
  rw [fullOff_eq, Nat.mul_add_mod_self_right, Nat.mod_eq_of_lt (by omega)]

/-- A record ends before any record of a higher local id begins: in the same unit by its number there, otherwise by its unit. -/
theorem fullOff_add_le {s a b : Nat} (hs : 0 < s) (hab : a < b) : fullOff a s + s ≤ fullOff b s := by
  rw [fullOff_eq, fullOff_eq, Nat.add_assoc]
  obtain hunit | hunit := (Nat.div_le_div_right (c := fullPer s) hab.le).eq_or_lt
  · have hnum : a % fullPer s < b % fullPer s := by
      have ha := Nat.div_add_mod a (fullPer s)
      have hb := Nat.div_add_mod b (fullPer s)
      rw [hunit] at ha
      omega
    rw [hunit, ← Nat.succ_mul]
    exact Nat.add_le_add_left (Nat.mul_le_mul_right s hnum) _
  · calc a / fullPer s * fullUnit s + (a % fullPer s * s + s)
        ≤ a / fullPer s * fullUnit s + fullUnit s := Nat.add_le_add_left (record_end_le hs a) _
      _ = (a / fullPer s + 1) * fullUnit s := (Nat.succ_mul _ _).symm
      _ ≤ b / fullPer s * fullUnit s := Nat.mul_le_mul_right _ hunit
      _ ≤ b / fullPer s * fullUnit s + b % fullPer s * s := Nat.le_add_right _ _

/-- A record of at most 4,096 bytes in an area that begins at a 4 KiB boundary crosses none. -/
theorem fullAddr_page (g : IdxGen) (sh : Shard) (lid : Nat) {k : Nat} (hbase : baseOf sh 6 % 4096 = 0)
    (hle : fullSize (gFullFmt g) (gDim g) ≤ 4096) (hk : k < fullSize (gFullFmt g) (gDim g)) :
    (fullAddr g sh lid + k) / 4096 = baseOf sh 6 / 4096 + lid / fullPer (fullSize (gFullFmt g) (gDim g)) := by
  have hdiv := fullOff_add_div hk lid
  rw [fullUnit, if_pos hle] at hdiv
  rw [fullAddr, Nat.add_assoc, Nat.add_div_of_dvd_right (Nat.dvd_of_mod_eq_zero hbase), hdiv]

/-! ### Numbers of `w` bits packed into one -/

/-- The numbers f 0 … f (c - 1) at `w` bits each, f 0 lowest. -/
def packed (w c : Nat) (f : Nat → Nat) : Nat := (List.range c).foldl (fun acc j => acc + f j <<< (w * j)) 0

theorem packed_succ (w c : Nat) (f : Nat → Nat) : packed w (c + 1) f = packed w c f + f c * 2 ^ (w * c) := by
  simp [packed, List.range_succ, Nat.shiftLeft_eq]

theorem packed_one (w : Nat) (f : Nat → Nat) : packed w 1 f = f 0 := by
  simp [packed]

section
variable {w : Nat} {f : Nat → Nat} (hf : ∀ j, f j < 2 ^ w)
include hf

/-- Above the last number there is nothing. -/
theorem packed_lt (c : Nat) : packed w c f < 2 ^ (w * c) := by
  induction c with
  | zero => simp [packed]
  | succ c ih =>
    calc packed w (c + 1) f = packed w c f + f c * 2 ^ (w * c) := packed_succ w c f
      _ < (f c + 1) * 2 ^ (w * c) := by rw [Nat.succ_mul, Nat.add_comm]; exact Nat.add_lt_add_left ih _
      _ ≤ 2 ^ w * 2 ^ (w * c) := Nat.mul_le_mul_right _ (hf c)
      _ = 2 ^ (w * (c + 1)) := by rw [← pow_add, Nat.mul_succ, Nat.add_comm]

/-- Each number is read back at its place: a number added above leaves the lower ones, for its weight is a multiple of theirs. -/
theorem packed_field {c j : Nat} (hj : j < c) : packed w c f / 2 ^ (w * j) % 2 ^ w = f j := by
  induction c with
  | zero => exact absurd hj (Nat.not_lt_zero j)
  | succ c ih =>
    rw [packed_succ]
    obtain hlt | rfl := Nat.lt_succ_iff_lt_or_eq.mp hj
    · obtain ⟨e, rfl⟩ := Nat.exists_eq_add_of_lt hlt
      have hweight : f (j + e + 1) * 2 ^ (w * (j + e + 1)) = f (j + e + 1) * 2 ^ (w * e) * 2 ^ w * 2 ^ (w * j) := by
        ring
      rw [hweight, Nat.add_mul_div_right _ _ (Nat.two_pow_pos _), Nat.add_mul_mod_self_right, ih hlt]
    · rw [Nat.add_mul_div_right _ _ (Nat.two_pow_pos _), Nat.div_eq_of_lt (packed_lt hf j), Nat.zero_add,
        Nat.mod_eq_of_lt (hf j)]

end

/-! ### The full-vector object -/

section
variable {n : Node} {o : ObjRange} {g : IdxGen} (hwhat : o.what = 7) (hgen : genFind n o.key.handle o.key.gen = some g)
include hwhat hgen

/-- The object's groups are the units. -/
theorem objGroup_full : objGroup n o = fullUnit (fullSize (gFullFmt g) (gDim g)) := by
  rw [objGroup, hwhat, hgen]
  rfl

/-- A unit packs its records. -/
theorem objGet_full {sh : Shard} (hshard : shardFind n o.key = some sh) (i : Nat) :
    objGet n o i = packed (8 * fullSize (gFullFmt g) (gDim g)) (fullPer (fullSize (gFullFmt g) (gDim g)))
      (fun j => sget 0 sh.full (fullPer (fullSize (gFullFmt g) (gDim g)) * i + j)) := by
  simp only [objGet, hwhat, hgen, shardOr, hshard, fullPer]
  split
  next => rfl
  next => rw [packed_one, Nat.one_mul, Nat.add_zero]

end

/-- Settles O55: the record of a local id is the digit of its unit at its number there. -/
theorem fullVectorPlaces : Obligations.FullVectorPlaces := by
  unfold Obligations.FullVectorPlaces
  refine ⟨fun g sh lid => ?_, fun g sh lid k hbase hle hk => ?_, fun s a b hs hab => fullOff_add_le hs hab,
    fun n o g sh hwhat hgen hshard hdim hfit => ⟨fun lid => ?_, fun i => ?_⟩⟩
  · unfold fullAddr fullOff
    split
    next => exact (Nat.add_assoc _ _ _).symm
    next => rfl
  · exact (fullAddr_page g sh lid hbase hle hk).trans
      (fullAddr_page g sh lid hbase hle (Nat.zero_lt_of_lt hk)).symm
  · have hs := fullSize_pos (gFullFmt g) hdim
    rw [objGroup_full hwhat hgen, objGet_full hwhat hgen hshard]
    generalize fullSize (gFullFmt g) (gDim g) = s at hs hfit ⊢
    have hunit : fullOff lid s / fullUnit s = lid / fullPer s := fullOff_add_div hs lid
    rw [hunit, fullOff_mod hs, Nat.mul_comm (lid % fullPer s), ← Nat.mul_assoc,
      packed_field (fun j => hfit _) (Nat.mod_lt lid (fullPer_pos hs)), Nat.div_add_mod]
  · rw [objGet_full hwhat hgen hshard]
    generalize fullSize (gFullFmt g) (gDim g) = s at hfit ⊢
    have hbytes : (if s ≤ 4096 then s * (4096 / s) else s) = s * fullPer s := by
      unfold fullPer
      split
      next => rfl
      next => exact (Nat.mul_one s).symm
    rw [hbytes, ← Nat.mul_assoc]
    exact packed_lt (fun j => hfit _) _

end Sys2Proof.Machine
end

section
/-!
PROOF. How a report enters its block's recorder ring (R350-R352), in three parts: what each step of a report does to a page; the
branches of the ring rule, one lemma each; the bytes of a record and the CRC that ends them (R349).
-/
namespace Sys2Proof.Machine

/-! ### Pages of the node -/

@[simp] theorem pageGet_pageSet_self (p : Nat) (v : PageSt) (n : Node) : pageGet (pageSet p v n) p = v :=
  sget_sset_self _ _ _ _

theorem pageGet_pageSet_ne {p q : Nat} (h : q ≠ p) (v : PageSt) (n : Node) : pageGet (pageSet p v n) q = pageGet n q :=
  sget_sset_ne _ _ _ _ h

/-- The journal is not part of a page. -/
@[simp] theorem pageGet_jnlAdd (e : EvRec) (n : Node) (q : Nat) : pageGet (jnlAdd e n) q = pageGet n q := rfl

@[simp] theorem pageGet_jnlUpdate (e : EvRec) (n : Node) (q : Nat) : pageGet (jnlUpdate e n) q = pageGet n q := rfl

/-! ### The capture (R381) -/

theorem pageGet_captureReport_ne {p q : Nat} (h : q ≠ p) (code : Nat) (lo hi : Word) (n : Node) :
    pageGet (captureReport p code lo hi n) q = pageGet n q :=
  pageGet_pageSet_ne h _ n

/-- The capture leaves the recorder of its page as it is. -/
theorem captureReport_recorder (p code : Nat) (lo hi : Word) (n : Node) :
    (pageGet (captureReport p code lo hi n) p).ring = (pageGet n p).ring ∧
    (pageGet (captureReport p code lo hi n) p).held = (pageGet n p).held ∧
    (pageGet (captureReport p code lo hi n) p).nextSeq = (pageGet n p).nextSeq ∧
    (pageGet (captureReport p code lo hi n) p).frozen = (pageGet n p).frozen := by
  have hpage : ∀ (v : PageSt) (c : Sparse Nat), pageGet { pageSet p v n with cnts := c } p = v :=
    fun v _ => pageGet_pageSet_self p v n
  unfold captureReport
  dsimp only
  rw [hpage]
  split <;> exact ⟨rfl, rfl, rfl, rfl⟩

/-! ### The ring rule (R350, R352) -/

theorem evSame_iff {r : EvRec} {code : Nat} {lo hi : Word} :
    evSame r code lo hi = true ↔ r.code = code ∧ r.lo = lo ∧ r.hi = hi := by
  simp [evSame, and_assoc]

/-- A full ring of `k` loses its oldest element to a new one. -/
theorem lpushMax_eq {α : Type} {k : Nat} {l : List α} (x : α) (hpos : 0 < k) (hlen : l.length ≤ k) :
    lpushMax k l x = (if l.length = k then l.drop 1 else l) ++ [x] := by
  unfold lpushMax
  by_cases hfull : l.length = k
  · have hdrop : (l ++ [x]).drop 1 = l.drop 1 ++ [x] := List.drop_append_of_le_length (by omega)
    simp [hfull, hdrop]
  · simp [hfull, show l.length + 1 ≤ k by omega]

theorem pageGet_ringAdd_ne {p q : Nat} (h : q ≠ p) (e : EvRec) (n : Node) : pageGet (ringAdd p e n) q = pageGet n q := by
  unfold ringAdd
  dsimp only
  repeat' split
  all_goals simp [pageGet_pageSet_ne h]

/-- During a freeze a record goes to the holding buffer, or is lost. -/
theorem ringAdd_ring_of_frozen {p : Nat} {n : Node} (h : (pageGet n p).frozen = true) (e : EvRec) :
    (pageGet (ringAdd p e n) p).ring = (pageGet n p).ring := by
  unfold ringAdd
  dsimp only
  rw [if_pos h]
  repeat' split
  all_goals simp

/-- A repeat of the ring's newest record is merged into it. -/
theorem pageGet_ringAdd_of_repeat {p : Nat} {n : Node} {e r : EvRec} (hfrozen : (pageGet n p).frozen = false)
    (hnewest : (pageGet n p).ring.getLast? = some r) (hsame : evSame r e.code e.lo e.hi = true) :
    pageGet (ringAdd p e n) p = { pageGet n p with ring := (pageGet n p).ring.dropLast ++ [evRepeat n.tick r] } := by
  simp [ringAdd, hfrozen, hnewest, hsame]

/-- A record that repeats nothing is added, under the page's next SEQ. -/
theorem pageGet_ringAdd_of_new {p : Nat} {n : Node} {e : EvRec} (hfrozen : (pageGet n p).frozen = false)
    (hnew : ∀ r, (pageGet n p).ring.getLast? = some r → evSame r e.code e.lo e.hi = false) :
    pageGet (ringAdd p e n) p = { pageGet n p with
      ring := lpushMax 128 (pageGet n p).ring { e with seq := (pageGet n p).nextSeq }
      nextSeq := ((pageGet n p).nextSeq + 1) % 65536
      newest := (pageGet n p).nextSeq
      intStat := (pageGet n p).intStat ||| 2 } := by
  cases hnewest : (pageGet n p).ring.getLast? with
  | none => simp [ringAdd, hfrozen, hnewest]
  | some r => simp [ringAdd, hfrozen, hnewest, hnew r hnewest]

/-! ### A report, from its capture to its ring -/

/-- The record that a report makes, before the ring gives it a SEQ (R349). -/
def reportRec (p code sev : Nat) (lo hi : Word) (n : Node) : EvRec :=
  { tick := n.tick, code := code, sev := sev, page := p, lo := lo, hi := hi, lastDelta := 0, rep := 0, seq := 0 }

/-- After a report a page is what capture and ring rule make of it: the MRAM channels and the in-band interrupt touch no page. -/
theorem pageGet_reportSev (b : Blk) (i code sev : Nat) (lo hi : Word) (n : Node) (q : Nat) :
    pageGet (reportSev b i code sev lo hi n) q =
      pageGet (if sev < (pageGet n (pageOf b i)).minSev then captureReport (pageOf b i) code lo hi n
        else ringAdd (pageOf b i) (reportRec (pageOf b i) code sev lo hi n) (captureReport (pageOf b i) code lo hi n)) q := by
  unfold reportSev
  rw [withIbi_frame]
  exact congrArg (fun pages => sget PageSt.empty pages q) (foldl_field Node.pages _ (fun m ch => by simp) _ _)

theorem pageGet_reportSev_ne {b : Blk} {i q : Nat} (h : q ≠ pageOf b i) (code sev : Nat) (lo hi : Word) (n : Node) :
    pageGet (reportSev b i code sev lo hi n) q = pageGet n q := by
  rw [pageGet_reportSev]
  split
  · exact pageGet_captureReport_ne h code lo hi n
  · rw [pageGet_ringAdd_ne h, pageGet_captureReport_ne h]

section
variable {b : Blk} {i code sev : Nat} {lo hi : Word} {n : Node}

theorem pageGet_reportSev_of_lt (h : sev < (pageGet n (pageOf b i)).minSev) (q : Nat) :
    pageGet (reportSev b i code sev lo hi n) q = pageGet (captureReport (pageOf b i) code lo hi n) q := by
  rw [pageGet_reportSev, if_pos h]

theorem pageGet_reportSev_of_le (h : (pageGet n (pageOf b i)).minSev ≤ sev) (q : Nat) :
    pageGet (reportSev b i code sev lo hi n) q =
      pageGet (ringAdd (pageOf b i) (reportRec (pageOf b i) code sev lo hi n) (captureReport (pageOf b i) code lo hi n)) q := by
  rw [pageGet_reportSev, if_neg (by omega)]

/-- During a freeze no report changes the ring, whatever its severity. -/
theorem reportSev_ring_of_frozen (h : (pageGet n (pageOf b i)).frozen = true) :
    (pageGet (reportSev b i code sev lo hi n) (pageOf b i)).ring = (pageGet n (pageOf b i)).ring := by
  obtain ⟨hring, -, -, hfrozen⟩ := captureReport_recorder (pageOf b i) code lo hi n
  obtain hlow | hsev := Nat.lt_or_ge sev (pageGet n (pageOf b i)).minSev
  · rw [pageGet_reportSev_of_lt hlow, hring]
  · rw [pageGet_reportSev_of_le hsev, ringAdd_ring_of_frozen (hfrozen.trans h), hring]

/-- A report that repeats the newest record raises its REPEAT and sets its LAST_DELTA. -/
theorem reportSev_ring_of_repeat {r : EvRec} (hsev : (pageGet n (pageOf b i)).minSev ≤ sev)
    (hopen : (pageGet n (pageOf b i)).frozen = false) (hnewest : (pageGet n (pageOf b i)).ring.getLast? = some r)
    (hsame : evSame r code lo hi = true) :
    (pageGet (reportSev b i code sev lo hi n) (pageOf b i)).ring =
      (pageGet n (pageOf b i)).ring.dropLast ++ [evRepeat n.tick r] := by
  obtain ⟨hring, -, -, hfrozen⟩ := captureReport_recorder (pageOf b i) code lo hi n
  rw [pageGet_reportSev_of_le hsev,
    pageGet_ringAdd_of_repeat (hfrozen.trans hopen) ((congrArg _ hring).trans hnewest) hsame, hring]
  rfl

/-- A report that repeats nothing adds its record under the page's next SEQ. -/
theorem reportSev_adds_of_new (hsev : (pageGet n (pageOf b i)).minSev ≤ sev) (hopen : (pageGet n (pageOf b i)).frozen = false)
    (hnew : ∀ r, (pageGet n (pageOf b i)).ring.getLast? = some r → evSame r code lo hi = false) :
    (pageGet (reportSev b i code sev lo hi n) (pageOf b i)).nextSeq = ((pageGet n (pageOf b i)).nextSeq + 1) % 65536 ∧
    (pageGet (reportSev b i code sev lo hi n) (pageOf b i)).ring = lpushMax 128 (pageGet n (pageOf b i)).ring
      { reportRec (pageOf b i) code sev lo hi n with seq := (pageGet n (pageOf b i)).nextSeq } := by
  obtain ⟨hring, -, hseq, hfrozen⟩ := captureReport_recorder (pageOf b i) code lo hi n
  rw [pageGet_reportSev_of_le hsev, pageGet_ringAdd_of_new (hfrozen.trans hopen) (by rw [hring]; exact hnew), hring, hseq]
  exact ⟨rfl, rfl⟩

end

/-! ### The bytes of a record and their CRC (R53, R349) -/

@[simp] theorem bofNat_len (k v : Nat) : (bofNat k v).len = k := rfl

@[simp] theorem bappend_len (a b : Blob) : (bappend a b).len = a.len + b.len := rfl

/-- No bit lies beyond the end of a byte string built by appending. -/
theorem bappend_lt (a b : Blob) : (bappend a b).bits < 2 ^ (8 * (bappend a b).len) := by
  have ha : a.bits % 2 ^ (8 * a.len) < 2 ^ (8 * a.len) := Nat.mod_lt _ (Nat.two_pow_pos _)
  have hb : b.bits % 2 ^ (8 * b.len) < 2 ^ (8 * b.len) := Nat.mod_lt _ (Nat.two_pow_pos _)
  simp only [bappend, Nat.shiftLeft_eq]
  calc a.bits % 2 ^ (8 * a.len) + b.bits % 2 ^ (8 * b.len) * 2 ^ (8 * a.len)
      < 2 ^ (8 * a.len) + b.bits % 2 ^ (8 * b.len) * 2 ^ (8 * a.len) := Nat.add_lt_add_right ha _
    _ = (b.bits % 2 ^ (8 * b.len) + 1) * 2 ^ (8 * a.len) := by ring
    _ ≤ 2 ^ (8 * b.len) * 2 ^ (8 * a.len) := Nat.mul_le_mul_right _ hb
    _ = 2 ^ (8 * (a.len + b.len)) := by rw [← pow_add, Nat.mul_add, Nat.add_comm]

/-- The first part of an appended byte string reads back whole. -/
theorem bslice_bappend_left {a : Blob} (h : a.bits < 2 ^ (8 * a.len)) (b : Blob) : bslice (bappend a b) 0 a.len = a := by
  have hbits : bnum (bappend a b) 0 a.len = a.bits := by
    have hmin : Nat.min a.len (a.len + b.len) = a.len := Nat.min_eq_left (Nat.le_add_right _ _)
    simp only [bnum, bappend, Nat.mul_zero, Nat.shiftRight_zero, Nat.sub_zero, hmin, Nat.shiftLeft_eq]
    rw [Nat.add_mul_mod_self_right, Nat.mod_mod, Nat.mod_eq_of_lt h]
  rw [bslice, hbits]

/-- The second part of an appended byte string reads as its number. -/
theorem bnum_bappend_right (a b : Blob) : bnum (bappend a b) a.len b.len = b.bits % 2 ^ (8 * b.len) := by
  have ha : a.bits % 2 ^ (8 * a.len) < 2 ^ (8 * a.len) := Nat.mod_lt _ (Nat.two_pow_pos _)
  have hmin : Nat.min b.len (a.len + b.len - a.len) = b.len := Nat.min_eq_left (by omega)
  simp only [bnum, bappend, hmin, Nat.shiftLeft_eq, Nat.shiftRight_eq_div_pow]
  rw [Nat.add_mul_div_right _ _ (Nat.two_pow_pos _), Nat.div_eq_of_lt ha, Nat.zero_add, Nat.mod_mod]

theorem crc16Bit_lt (c : Nat) : crc16Bit c < 2 ^ 16 := by
  have hshift : c * 2 % 0x10000 < 2 ^ 16 := Nat.mod_lt _ (by decide)
  unfold crc16Bit
  split
  · exact Nat.xor_lt_two_pow hshift (by decide)
  · exact hshift

/-- The CRC register keeps to 16 bits, byte after byte. -/
theorem crc16Run_lt (k bits : Nat) {c : Nat} (h : c < 2 ^ 16) : crc16Run k bits c < 2 ^ 16 := by
  induction k generalizing bits c with
  | zero => exact h
  | succ k ih => exact ih (bits / 256) (crc16Bit_lt _)

theorem crc16_lt (b : Blob) : crc16 b < 2 ^ 16 := crc16Run_lt b.len b.bits (by decide)

/-- A byte string closed with its CRC-16 reads back both the CRC and the bytes it covers. -/
theorem bnum_append_crc16 {a : Blob} (h : a.bits < 2 ^ (8 * a.len)) :
    bnum (bappend a (bofNat 2 (crc16 a))) a.len 2 = crc16 (bslice (bappend a (bofNat 2 (crc16 a))) 0 a.len) := by
  rw [bslice_bappend_left h]
  have hcrc : (bofNat 2 (crc16 a)).bits = crc16 a := Nat.mod_eq_of_lt (crc16_lt a)
  exact (bnum_bappend_right a (bofNat 2 (crc16 a))).trans
    ((congrArg (· % 2 ^ 16) hcrc).trans (Nat.mod_eq_of_lt (crc16_lt a)))

/-- The bytes of a record before its REC_CRC (R349). -/
def evBody (r : EvRec) : Blob :=
  bconcat [bofNat 8 r.tick,
    bofNat 4 (r.code % 256 * 2 ^ 24 + r.sev % 4 * 2 ^ 22 + r.page % 4096 * 2 ^ 8),
    bofNat 4 r.lo.toNat, bofNat 4 r.hi.toNat, bofNat 4 r.lastDelta, bofNat 4 r.rep, bofNat 2 r.seq]

theorem evBytes_eq (r : EvRec) : evBytes r = bappend (evBody r) (bofNat 2 (crc16 (evBody r))) := rfl

theorem evBody_len (r : EvRec) : (evBody r).len = 0x1E := rfl

theorem evBody_lt (r : EvRec) : (evBody r).bits < 2 ^ (8 * (evBody r).len) := bappend_lt _ (bofNat 2 r.seq)

/-- REC_CRC is the last field of the 32 bytes and fits the 30 before it. -/
theorem evBytes_crc (r : EvRec) : (evBytes r).len = 32 ∧ bnum (evBytes r) 0x1E 2 = crc16 (bslice (evBytes r) 0 0x1E) := by
  rw [evBytes_eq, ← evBody_len r]
  exact ⟨by simp [evBody_len], bnum_append_crc16 (evBody_lt r)⟩

/-- Settles O56: each clause is one branch of the ring rule, reached through the capture, which keeps the recorder's fields. -/
theorem ringReports : Obligations.RingReports := by
  unfold Obligations.RingReports
  refine ⟨?_, evBytes_crc⟩
  rintro b i code sev lo hi n g h rfl rfl hlen
  refine ⟨?count, fun p hp => pageGet_reportSev_ne hp code sev lo hi n, fun hlow => ?below, reportSev_ring_of_frozen,
    fun hsev hopen => ⟨fun r hnewest hcode hlo hhi => ?merged, fun hnew => ?added⟩⟩
  case count =>
    rw [reportSev_cnts]
    exact sget_sset_self _ _ _ _
  case below =>
    obtain ⟨hring, hheld, hseq, -⟩ := captureReport_recorder (pageOf b i) code lo hi n
    rw [pageGet_reportSev_of_lt hlow]
    exact ⟨hring, hheld, hseq⟩
  case merged => exact reportSev_ring_of_repeat hsev hopen hnewest (evSame_iff.mpr ⟨hcode, hlo, hhi⟩)
  case added =>
    obtain ⟨hseq, hring⟩ := reportSev_adds_of_new hsev hopen
      (fun r hr => Bool.eq_false_iff.mpr (fun hsame => hnew r hr (evSame_iff.mp hsame)))
    exact ⟨hseq, hring.trans (lpushMax_eq _ (by decide) hlen)⟩

end Sys2Proof.Machine
end

section
/-!
PROOF. The latches of _LO and _HI pairs (R377): what one register read answers and what it does to the latches, then any run of reads,
then a read as a command on its path.
-/
namespace Sys2Proof.Machine

/-! ### The place of a latch -/

/-- The path of a latch code. -/
def pathOfCode (c : Nat) : Path := if c = 0 then .firmware else if c = 1 then .i3c else .qp (c - 2)

theorem pathOfCode_pathCode (p : Path) : pathOfCode (pathCode p) = p := by
  cases p with
  | firmware | i3c => rfl
  | qp q => simp [pathOfCode, pathCode, show 2 + q ≠ 1 by omega]

/-- Each path has a latch of its own for each address of the register space. -/
theorem latchKey_injective {p q : Path} {a b : Nat} (ha : a < 2 ^ 24) (hb : b < 2 ^ 24) (h : latchKey p a = latchKey q b) :
    p = q ∧ a = b := by
  unfold latchKey at h
  exact ⟨Function.LeftInverse.injective pathOfCode_pathCode (by omega), by omega⟩

/-! ### One read -/

theorem rcTake_latches (b : Blk) (i off : Nat) (n : Node) : (rcTake b i off n).2.latches = n.latches := by
  unfold rcTake
  split <;> rfl

theorem withFree_latches (b : Blk) (off v : Nat) (n : Node) : (withFree b off v n).2.latches = n.latches := by
  unfold withFree
  split <;> rfl

/-- The value of a register is taken without touching a latch. -/
theorem regLive_latches (k : RegKind) (b : Blk) (i off : Nat) (n : Node) : (regLive k b i off n).2.latches = n.latches := by
  cases k with
  | rw r m => rfl
  | hi64 => rfl
  | lo64 => exact withFree_latches _ _ _ _
  | rc => exact (withFree_latches _ _ _ _).trans (rcTake_latches _ _ _ _)
  | ro | act =>
    unfold regLive
    dsimp only
    split
    · rfl
    · exact withFree_latches _ _ _ _

section
variable {p : Path} {addr i : Nat} {b : Blk} (hspace : addr < 0x800000) (hblk : blkOfPage (addr / 0x1000) = some (b, i))
include hspace hblk

/-- A _HI register answers its latch, and nothing changes. -/
theorem regRead_hi (hkind : (regKind addr).isSome = true) (h4 : 4 ≤ addr % 0x1000) (hlo : isLo b (addr % 0x1000 - 4) = true)
    (n : Node) : regRead p addr n = (sget 0 n.latches (latchKey p addr), n) := by
  obtain ⟨k, hk⟩ := Option.isSome_iff_exists.mp hkind
  simp [regRead, Nat.not_le.mpr hspace, hk, hblk, h4, hlo]

/-- Every other register answers the lower half of its value; a _LO register latches the upper half for the same path. -/
theorem regRead_live {k : RegKind} (hk : regKind addr = some k) (hhi : ¬(4 ≤ addr % 0x1000 ∧ isLo b (addr % 0x1000 - 4) = true))
    (n : Node) :
    regRead p addr n = (w32 (regLive k b i (addr % 0x1000) n).1,
      if isLo b (addr % 0x1000) then
        { (regLive k b i (addr % 0x1000) n).2 with
          latches :=
            sset 0 n.latches (latchKey p (addr + 4)) (w32 ((regLive k b i (addr % 0x1000) n).1 / 2 ^ 32)) }
      else (regLive k b i (addr % 0x1000) n).2) := by
  simp only [regRead, Nat.not_le.mpr hspace, hk, hblk, hhi, if_false, regLive_latches]

end

/-- A read on path `q` touches no latch but that of `q` behind the register read. -/
theorem regRead_keeps_latch {p q : Path} {a addr : Nat} (ha : a < 2 ^ 24) (hne : (q, addr + 4) ≠ (p, a)) (n : Node) :
    sget 0 (regRead q addr n).2.latches (latchKey p a) = sget 0 n.latches (latchKey p a) := by
  by_cases hspace : addr < 0x800000
  · cases hk : regKind addr with
    | none => simp [regRead, hk, Nat.not_le.mpr hspace]
    | some k =>
      cases hblk : blkOfPage (addr / 0x1000) with
      | none => simp [regRead, hk, hblk, Nat.not_le.mpr hspace]
      | some bi =>
        obtain ⟨b, i⟩ := bi
        by_cases hhi : 4 ≤ addr % 0x1000 ∧ isLo b (addr % 0x1000 - 4) = true
        · rw [regRead_hi hspace hblk (by simp [hk]) hhi.1 hhi.2]
        · rw [regRead_live hspace hblk hk hhi]
          dsimp only
          split
          · refine sget_sset_ne 0 0 _ _ fun hkey => hne ?_
            obtain ⟨hp, haddr⟩ := latchKey_injective ha (by omega) hkey
            rw [hp, haddr]
          · rw [regLive_latches]
  · simp [regRead, Nat.not_lt.mp hspace]

/-! ### A run of reads -/

/-- Reads of other registers and on other paths leave a latch, however many they are. -/
theorem regReads_keep_latch {p : Path} {a : Nat} (ha : a < 2 ^ 24) (reads : List (Path × Nat))
    (hne : ∀ r ∈ reads, (r.1, r.2 + 4) ≠ (p, a)) (n : Node) :
    sget 0 (reads.foldl (fun m r => (regRead r.1 r.2 m).2) n).latches (latchKey p a) = sget 0 n.latches (latchKey p a) := by
  induction reads generalizing n with
  | nil => rfl
  | cons r l ih =>
    obtain ⟨hr, hl⟩ := List.forall_mem_cons.mp hne
    exact (ih hl _).trans (regRead_keeps_latch ha hr n)

/-! ### A read as a command on its path -/

/-- The node acts for a path: it serves, or the path is I3C and RESET_N is not asserted. -/
theorem runPath_open {p : Path} {s : State} (hlive : p ≠ .i3c → Live s) (hreset : p = .i3c → s.node.boot.inReset = false)
    (f : Node → Node) : runPath p s f = .next { s with node := f s.node } := by
  by_cases hp : p = .i3c
  · subst hp
    simp [runPath, runAlways, hreset rfl]
  · exact runPath_live (hlive hp) p f

/-- An aligned read answers what the register space answers; over I3C, where the target reaches and outside the mailbox (R383, R385). -/
theorem pathRead_reached {p : Path} {addr : Nat} {n : Node} (halign : addr % 4 = 0)
    (hreach : p = .i3c → i3cReach n addr = true ∧ addr / 0x1000 < 0x7FE) :
    pathRead p addr n = emit (.regValue p addr (regRead p addr n).1) (regRead p addr n).2 := by
  cases p with
  | qp q => simp [pathRead, halign]
  | firmware => simp [pathRead, halign]
  | i3c =>
    obtain ⟨hin, hpage⟩ := hreach rfl
    have hmbox : ¬(addr / 0x1000 = 0x7FE ∨ addr / 0x1000 = 0x7FF) := by omega
    simp [pathRead, i3cReadOne, hin, hmbox]

/-- Settles O57: the _LO read puts the upper half into the path's latch, no other read reaches it there, and the _HI read answers it. -/
theorem latchPaths : Obligations.LatchPaths := by
  unfold Obligations.LatchPaths
  refine ⟨?pair, ?unread, rfl, fun _ _ _ => rfl, ?command⟩
  case pair =>
    intro p addr k b i n reads halign hspace hk hblk hlo hlow hpage hkhi hreads
    have hlive := regRead_live (p := p) (by omega) hblk hk (by simp [hlow]) n
    have hoff : (addr + 4) % 0x1000 = addr % 0x1000 + 4 := by omega
    have hblk4 : blkOfPage ((addr + 4) / 0x1000) = some (b, i) := by
      rw [show (addr + 4) / 0x1000 = addr / 0x1000 by omega, hblk]
    have hothers : ∀ r ∈ reads, (r.1, r.2 + 4) ≠ (p, addr + 4) := fun r hr heq =>
      (hreads r hr).2 (Prod.ext (Prod.mk.inj heq).1 (Nat.add_right_cancel (Prod.mk.inj heq).2))
    refine ⟨congrArg Prod.fst hlive, ?_⟩
    rw [regRead_hi hspace hblk4 hkhi (by omega) (by rw [hoff]; exact hlo)]
    dsimp only
    rw [regReads_keep_latch (by omega) reads hothers, hlive, if_pos hlo]
    exact sget_sset_self _ _ _ _
  case unread =>
    intro p addr b i n reads h4 hspace hk hblk hlo hnone hreads
    have hothers : ∀ r ∈ reads, (r.1, r.2 + 4) ≠ (p, addr) := fun r hr heq =>
      (hreads r hr).2 (Prod.ext (Prod.mk.inj heq).1 (Nat.eq_sub_of_add_eq (Prod.mk.inj heq).2))
    rw [regRead_hi hspace hblk hk h4 hlo]
    dsimp only
    rw [regReads_keep_latch (by omega) reads hothers, hnone]
    rfl
  case command =>
    intro s p addr c hc halign hlive hi3c
    have hrun : exec c s = runPath p s (pathRead p addr.toNat) := by
      rcases hc with rfl | rfl <;> rfl
    rw [hrun, runPath_open hlive (fun hp => (hi3c hp).1), pathRead_reached halign (fun hp => (hi3c hp).2)]

end Sys2Proof.Machine
end

section
/-!
PROOF. The staged payload of an MGMT descriptor (R387): the header words before PAYLOAD_CRC and the check of that word, a header that
fails the check, and a request that passes it.
-/
namespace Sys2Proof.Machine

/-! ### Patching bytes beyond those read -/

/-- The bytes read lie in the low part of the number. -/
theorem bnum_eq_mod_div {b : Blob} {a k : Nat} (h : a + k ≤ b.len) : bnum b a k = b.bits % 2 ^ (8 * (a + k)) / 2 ^ (8 * a) := by
  have hmin : Nat.min k (b.len - a) = k := Nat.min_eq_left (by omega)
  rw [bnum, hmin, Nat.shiftRight_eq_div_pow, Nat.mul_add, pow_add, Nat.mod_mul_right_div_self]

/-- A patch leaves the bytes before it. -/
theorem bnum_bpatch_before {b v : Blob} {off a k : Nat} (hoff : off ≤ b.len) (h : a + k ≤ off) :
    bnum (bpatch b off v) a k = bnum b a k := by
  have hlow : (bpatch b off v).bits % 2 ^ (8 * off) = b.bits % 2 ^ (8 * off) := by
    have hmin : Nat.min off b.len = off := Nat.min_eq_left hoff
    simp only [bpatch, bnum, Nat.mul_zero, Nat.shiftRight_zero, Nat.sub_zero, hmin, Nat.shiftLeft_eq, Nat.mul_add, pow_add]
    rw [← Nat.mul_assoc, Nat.mul_right_comm, Nat.add_mul_mod_self_right, Nat.add_mul_mod_self_right, Nat.mod_mod]
  have hdvd : 2 ^ (8 * (a + k)) ∣ 2 ^ (8 * off) := pow_dvd_pow 2 (by omega)
  have hlen : b.len ≤ (bpatch b off v).len := Nat.le_max_left _ _
  rw [bnum_eq_mod_div (by omega), bnum_eq_mod_div (by omega), ← Nat.mod_mod_of_dvd _ hdvd, hlow, Nat.mod_mod_of_dvd _ hdvd]

/-! ### The first word that fails (R387) -/

theorem firstBad_append (l m : List (Option Nat)) : firstBad (l ++ m) = (firstBad l).or (firstBad m) := by
  rw [firstBad, List.filterMap_append, List.head?_append]
  rfl

theorem firstBad_mem {l : List (Option Nat)} {w : Nat} (h : firstBad l = some w) : some w ∈ l := by
  simpa using List.mem_of_head? h

theorem eq_of_offIf {b : Bool} {o w : Nat} (h : some w = offIf b o) : w = o := by
  cases b <;> simp_all [offIf]

/-- The word before PAYLOAD_CRC that fails check step 2 (R386-R388). -/
def mgmtEarlyBad (x : Qp) (o : MgmtOp) (d : Blob) : Option Nat :=
  let w0 := bword d 0
  let len := nbits w0 8 0 * 64
  let lim := fun (w : Nat) => o.limits.any (fun l => l.1 = w && l.2)
  firstBad [
    offIf (nbits w0 31 24 ≠ 4 || nbits w0 23 20 ≠ 1 || nbits w0 19 17 ≠ 0 || nbits w0 15 9 ≠ 0 || len = 0 ||
      2 ^ x.cfg.slotLog2 < len) 0,
    offIf (bnum d 6 2 ≠ o.code || mFlags d &&& o.flags ≠ mFlags d) 4,
    offIf (lim 8) 8,
    offIf (lim 0xC) 0xC,
    offIf (bnum d 0x18 8 % 16 ≠ 0) 0x18,
    offIf (bword d 0x24 < 64 + o.ret) 0x24,
    offIf (lim 0x28) 0x28,
    offIf (mLen d ≠ 0 && (mOff d % 8 ≠ 0 || (!mStaged d && decide (mOff d < 64)))) 0x30,
    offIf ((mLen d ≠ 0 && decide ((if mStaged d then 8388608 else len) < mOff d + mLen d)) || lim 0x34) 0x34]

/-- Then PAYLOAD_CRC is checked against the payload, and ARG32 against the operation's limit. -/
theorem mgmtBad_eq (x : Qp) (o : MgmtOp) (d : Blob) (n : Node) :
    mgmtBad x o d n = (mgmtEarlyBad x o d).or (firstBad [
      offIf (bword d 0x38 ≠ (if mStaged d then crc32c (mPayload n d) else 0)) 0x38,
      offIf (o.limits.any (fun l => l.1 = 0x3C && l.2)) 0x3C]) := by
  rw [mgmtEarlyBad, ← firstBad_append]
  rfl

theorem mgmtEarlyBad_le {x : Qp} {o : MgmtOp} {d : Blob} {w : Nat} (h : mgmtEarlyBad x o d = some w) : w ≤ 0x34 := by
  have hmem := firstBad_mem h
  simp only [List.mem_cons, List.not_mem_nil, or_false] at hmem
  rcases hmem with h | h | h | h | h | h | h | h | h <;> exact (eq_of_offIf h).trans_le (by decide)

/-- These checks read no byte from 0x38 on. -/
theorem mgmtEarlyBad_congr {d e : Blob} (h : ∀ a k, a + k ≤ 0x38 → bnum d a k = bnum e a k) (x : Qp) (o : MgmtOp) :
    mgmtEarlyBad x o d = mgmtEarlyBad x o e := by
  simp (disch := decide) only [mgmtEarlyBad, mFlags, mLen, mOff, mStaged, bword, h]
  rfl

/-! ### The check of a staged payload -/

theorem mPayload_staged {d : Blob} (hstaged : mStaged d = true) (hlen : mLen d ≠ 0) (n : Node) :
    mPayload n d = bslice n.staging (mOff d) (mLen d) := by
  simp [mPayload, hstaged, hlen]

/-- With a wrong PAYLOAD_CRC the descriptor fails there, unless an earlier word fails. -/
theorem mgmtBad_wrongCrc {d : Blob} {n : Node} (hstaged : mStaged d = true) (hlen : mLen d ≠ 0)
    (hcrc : bword d 0x38 ≠ crc32c (bslice n.staging (mOff d) (mLen d))) (x : Qp) (o : MgmtOp) :
    mgmtBad x o d n = (mgmtEarlyBad x o d).or (some 0x38) := by
  rw [mgmtBad_eq, mPayload_staged hstaged hlen]
  simp [firstBad, offIf, hstaged, hcrc]

/-- A descriptor in order bears the CRC of its staged payload. -/
theorem crc_of_mgmtBad_none {x : Qp} {o : MgmtOp} {d : Blob} {n : Node} (h : mgmtBad x o d n = none) (hstaged : mStaged d = true)
    (hlen : mLen d ≠ 0) : crc32c (bslice n.staging (mOff d) (mLen d)) = bword d 0x38 := by
  by_contra hcrc
  simp [mgmtBad_wrongCrc hstaged hlen (Ne.symm hcrc)] at h

/-! ### A header that fails -/

/-- A status alone, on a queue pair that is not in ERROR and with room for the header, is one write; nothing else changes but the queue
pair. -/
theorem answerStatus_header {t : RespTo} {n : Node} {x : Qp} (h : qpFind n t.qp = some x) (hs : x.state ≠ 2) (hlen : 64 ≤ t.len)
    (op k status err : Nat) : ∃ r : Resp, r.status = status ∧ r.err = err ∧ r.count = 0 ∧ r.cls = 0 ∧
      answerStatus t op k status err n = { n with
        qps := (answerStatus t op k status err n).qps,
        out := n.out ++ [.rdmaWriteImm t.qp t.addr t.rkey (respHeader r) (t.tag % 2 ^ 32)] } := by
  refine ⟨{ respZero with op := op, k := k, status := status, tag := t.tag, ticks := admitTicks n t.arrive, err := err },
    rfl, rfl, rfl, rfl, ?_⟩
  rw [answerStatus, writeResponse_header h hs hlen, qpFind_num h]
  rfl

/-- A header that fails check step 2 is answered BAD_PARAM at its word, and the operation does not run (R393). -/
theorem mgmtRun_bad {s : State} {q : Nat} {d : Blob} {x : Qp} {o : MgmtOp} {w : Nat} (h : Received s q d x)
    (hbad : mgmtBad x o d (policed s x) = some w) (act : Nat → Blob → Node → Node) :
    mgmtRun o act q d s = .next { s with
      node := answerStatus (respTo q s.node.tick d) (bnum d 3 1) 0 1 w (policed s x) } := by
  rw [mgmtRun, run_live h.live, receive_received h, mgmtIn, hbad]

/-- Settles O58: the CRC is checked after the words before it, a failed check is answered with a status alone, and a request in order
is given the bytes that were checked. -/
theorem stagedPayload : Obligations.StagedPayload := by
  unfold Obligations.StagedPayload
  refine ⟨fun x o d n hstaged hlen hcrc => ⟨?earliest, fun hwhole hright => ?alone⟩, ?answered, ?runs⟩
  case earliest =>
    rw [mgmtBad_wrongCrc hstaged hlen hcrc]
    cases hearly : mgmtEarlyBad x o d with
    | none => exact ⟨0x38, rfl, le_rfl⟩
    | some w => exact ⟨w, rfl, (mgmtEarlyBad_le hearly).trans (by decide)⟩
  case alone =>
    rw [mgmtBad_eq, Option.or_eq_none_iff, mgmtEarlyBad_congr fun a k => bnum_bpatch_before (by omega)] at hright
    rw [mgmtBad_wrongCrc hstaged hlen hcrc, hright.1]
    rfl
  case answered =>
    intro s q d x o act w h hroom hbad
    have hframe := policed_frame s x
    have hfound : qpFind (policed s x) q = some x := (qpFind_congr (by rw [hframe]) q).trans h.found
    obtain ⟨r, hstatus, herr, hcount, hcls, hanswer⟩ := answerStatus_header (t := respTo q s.node.tick d) hfound
      (by simp [h.rts]) hroom (bnum d 3 1) 0 1 w
    refine ⟨_, r, mgmtRun_bad h hbad act, hstatus, herr, hcount, hcls, ?_⟩
    dsimp only
    rw [hanswer, hframe]
    rfl
  case runs =>
    intro s q d x o act h hstaged hlen
    have hcrc := crc_of_mgmtBad_none h.header hstaged hlen
    have hwindow : (policed s x).staging = s.node.staging := by rw [policed_frame]
    rw [hwindow] at hcrc
    exact ⟨hcrc, by rw [mgmtRun_ready h, mPayload_staged hstaged hlen]⟩

end Sys2Proof.Machine
end

section
/-!
PROOF. The node journal (R395): adding a copy keeps the copies numbered, a number names at most one copy, and the window reads the one
that JNL_CURSOR names.
-/
namespace Sys2Proof.Machine

/-! ### A copy is added -/

/-- A store of `k` to which an element is added loses what no longer fits, at its old end. -/
theorem lpushMax_eq_drop {α : Type} {k : Nat} {l : List α} (x : α) (hpos : 0 < k) (hlen : l.length ≤ k) :
    lpushMax k l x = l.drop (l.length + 1 - k) ++ [x] := by
  rw [lpushMax_eq x hpos hlen]
  split
  · next hfull => rw [hfull, Nat.add_sub_cancel_left]
  · rw [Nat.sub_eq_zero_of_le (by omega), List.drop_zero]

theorem jnlAdd_jnl {n : Node} (hlen : n.jnl.length ≤ 1048576) (e : EvRec) :
    (jnlAdd e n).jnl = n.jnl.drop (n.jnl.length + 1 - 1048576) ++ [{ jseq := n.jnext, ev := e }] :=
  lpushMax_eq_drop _ (by decide) hlen

/-- The new copy takes the next number, and what the oldest loses at one end the next number gains at the other. -/
theorem Numbered.jnlAdd {n : Node} (h : Numbered n) (hlen : n.jnl.length ≤ 1048576) (hnext : n.jnext < 2 ^ 32) (e : EvRec) :
    Numbered (jnlAdd e n) := by
  intro i hi
  simp only [jnlAdd_jnl hlen, jnlAdd_sets, List.length_append, List.length_drop, List.length_singleton] at hi ⊢
  by_cases hold : i < n.jnl.length - (n.jnl.length + 1 - 1048576)
  · rw [List.getElem_append_left (by simpa using hold), List.getElem_drop, h]
    omega
  · rw [List.getElem_append_right (by simpa using hold)]
    simp only [List.getElem_singleton]
    omega

/-! ### A number names one copy -/

section
variable {n : Node} (h : Numbered n) (hlen : n.jnl.length ≤ 1048576)
include h hlen

theorem Numbered.eq_of_jseq_eq {c c' : JnlCopy} (hc : c ∈ n.jnl) (hc' : c' ∈ n.jnl) (heq : c.jseq = c'.jseq) : c = c' := by
  obtain ⟨i, hi, rfl⟩ := List.getElem_of_mem hc
  obtain ⟨k, hk, rfl⟩ := List.getElem_of_mem hc'
  rw [h, h] at heq
  have hik : i = k := by omega
  subst hik
  rfl

theorem Numbered.find?_jseq {c : JnlCopy} (hc : c ∈ n.jnl) : n.jnl.find? (fun a => a.jseq = c.jseq) = some c := by
  cases hfind : n.jnl.find? (fun a => a.jseq = c.jseq) with
  | none => simpa using List.find?_eq_none.mp hfind c hc
  | some a =>
    have ha : a.jseq = c.jseq := by simpa using List.find?_some hfind
    rw [h.eq_of_jseq_eq hlen (List.mem_of_find?_eq_some hfind) hc ha]

end

/-! ### The window -/

/-- A read-only register that belongs to no _LO and _HI pair and of which nothing is left free answers its value, and nothing changes. -/
theorem regRead_ro {p : Path} {addr i : Nat} {b : Blk} (hspace : addr < 0x800000) (hk : regKind addr = some .ro)
    (hblk : blkOfPage (addr / 0x1000) = some (b, i)) (hlo : isLo b (addr % 0x1000) = false)
    (hlow : isLo b (addr % 0x1000 - 4) = false) (hfree : freeBits b (addr % 0x1000) = 0) (n : Node) :
    regRead p addr n = (w32 (roReg n b i (addr % 0x1000)), n) := by
  rw [regRead_live hspace hblk hk (by simp [hlow])]
  simp [regLive, hlo, withFree, hfree]

/-- The words of JNL_WIN are such registers. -/
theorem jnlWin_word {j : Nat} (hj : j < 8) :
    regAddr .recb 0 (0x140 + 4 * j) < 0x800000 ∧ regAddr .recb 0 (0x140 + 4 * j) % 0x1000 = 0x140 + 4 * j ∧
    regKind (regAddr .recb 0 (0x140 + 4 * j)) = some .ro ∧
    blkOfPage (regAddr .recb 0 (0x140 + 4 * j) / 0x1000) = some (.recb, 0) ∧ isLo .recb (0x140 + 4 * j) = false ∧
    isLo .recb (0x140 + 4 * j - 4) = false := by
  interval_cases j <;> decide

/-- The copy that bears the number JNL_CURSOR. -/
def jnlAtCursor (n : Node) : Option JnlCopy := n.jnl.find? (fun c => c.jseq = (regStored n (regAddr .recb 0 0x108)).toNat)

/-- JNL_WIN shows the bytes of that copy, and 0 where the journal holds none. -/
theorem recReg_window {off : Nat} (hwin : 0x140 ≤ off ∧ off < 0x160) (n : Node) :
    (∀ c, jnlAtCursor n = some c → recReg n off = bword (evBytes c.ev) (off - 0x140)) ∧
    (jnlAtCursor n = none → recReg n off = 0) := by
  have h10C : off ≠ 0x10C := by omega
  have h11C : off ≠ 0x11C := by omega
  have h120 : off ≠ 0x120 := by omega
  constructor
  · intro c h
    rw [jnlAtCursor] at h
    simp only [recReg, h10C, h11C, h120, hwin, if_false, if_true, and_self, h]
  · intro h
    rw [jnlAtCursor] at h
    simp only [recReg, h10C, h11C, h120, hwin, if_false, if_true, and_self, h]

theorem regRead_jnlWin {j : Nat} (hj : j < 8) (p : Path) (n : Node) :
    regRead p (regAddr .recb 0 (0x140 + 4 * j)) n = (w32 (recReg n (0x140 + 4 * j)), n) := by
  obtain ⟨hspace, hoff, hk, hblk, hlo, hlow⟩ := jnlWin_word hj
  have hhead : ¬ 0x140 + 4 * j < 0x100 := by omega
  rw [regRead_ro hspace hk hblk (by rw [hoff]; exact hlo) (by rw [hoff]; exact hlow) rfl, hoff]
  simp [roReg, isUnitBlk, hhead]

/-- A record is its fields in their order, REC_CRC last, over the 30 bytes before it (R349). -/
theorem evBytes_layout (e : EvRec) :
    evBytes e = bconcat [bofNat 8 e.tick,
      bofNat 4 (e.code % 256 * 2 ^ 24 + e.sev % 4 * 2 ^ 22 + e.page % 4096 * 2 ^ 8), bofNat 4 e.lo.toNat,
      bofNat 4 e.hi.toNat, bofNat 4 e.lastDelta, bofNat 4 e.rep, bofNat 2 e.seq,
      bofNat 2 (crc16 (bslice (evBytes e) 0 0x1E))] := by
  rw [evBytes_eq, ← evBody_len e, bslice_bappend_left (evBody_lt e)]
  rfl

/-- Settles O59: the numbers stay consecutive, so that JNL_CURSOR finds the one copy that bears its number, or none. -/
theorem journalWindow : Obligations.JournalWindow := by
  unfold Obligations.JournalWindow
  refine ⟨fun e n h hlen hnext => ⟨jnlAdd_sets e n, h.jnlAdd hlen hnext e, lpushMax_length _ _ _, ?newest⟩,
    fun p n j h hlen hj => ?window⟩
  case newest => rw [jnlAdd_jnl hlen, List.getLast?_concat]
  case window =>
    obtain ⟨hheld, hlost⟩ := recReg_window (off := 0x140 + 4 * j) (by omega) n
    rw [regRead_jnlWin hj]
    refine ⟨fun c hc hcursor => ?_, fun hnone => ?_⟩
    · have hfind : jnlAtCursor n = some c := by rw [jnlAtCursor, ← hcursor, h.find?_jseq hlen hc]
      rw [hheld c hfind, Nat.add_sub_cancel_left, ← evBytes_layout]
    · have hfind : jnlAtCursor n = none := List.find?_eq_none.mpr fun c hc => by simpa using hnone c hc
      rw [hlost hfind]
      rfl

end Sys2Proof.Machine
end
